-- ==== Sys2Proof/Word.lean ====
section
/-! DEFINITION. The word types of the P960 and their plainest arithmetic. -/

namespace Sys2Proof

/-- One byte of memory. -/
abbrev Byte := BitVec 8
/-- A 32-bit value: one scalar register, or one lane of a vector register (R129). -/
abbrev Word := BitVec 32
/-- A 64-bit value: a register pair, a virtual address, a context register. -/
abbrev DWord := BitVec 64
/-- One bit per lane of a troupe (R84, R129). -/
abbrev Mask := BitVec 96
/-- One 96-bit instruction word (R286). -/
abbrev IWord := BitVec 96
/-- A vector register of a troupe: 96 lanes of 32 bits, lane 0 first (R125). -/
abbrev Lanes := List Word

end Sys2Proof
end

