-- ==== Sys2Proof/Config.lean ====
section
/-! DEFINITION. What an implementation fixes and the manual leaves open: free values. Each is an opaque constant without a
body, so no proof can see its value and a claim holds whatever it is. -/

namespace Sys2Proof.Config

/-- The bits of a read that no rule fixes (R144, R149, R242, R413, R423, R452): occasion `n`, position `k` within it.
The occasion is the counter `State.free`. Log entry 3. -/
opaque freeWord (n k : Nat) : Word

/-- Where the memory core starts its search for a free frame (R81 leaves the choice to it). Log entry 4. -/
opaque frameStart (n : Nat) : Nat

/-- Where the device starts its search for a page of the context that will hold a job's inline bytes (R130). Log entry 14. -/
opaque inlinePage (n : Nat) : Nat

/-- The ceiling and the rate that the energy core gives a die once its firmware runs (R61). Log entry 15. -/
opaque energyCeil (die : Nat) : Word
opaque energyRate (die : Nat) : Word

/-- The value the leading scheduler tries first for a new level identifier (R86). Log entry 5. -/
opaque levelIdent (n : Nat) : Word

/-- The per-event energies, in microjoules, set at boot (R62): per beat, per matrix operation, per byte moved. Log entry 6. -/
opaque energyPerBeat : Nat
opaque energyPerMatrixOp : Nat
opaque energyPerByte : Nat

/-- The reason code of a journal entry (R56), by stage, kind of unit and outcome. Log entry 16. -/
opaque bootReason (stage kind outcome : Nat) : BitVec 16

/-- The reason code for a fabric port that stays down because the pod identity is taken (R41). Log entry 16. -/
opaque takenReason : BitVec 16

/-- The SHA-512 digest of an image in the boot flash (R50, R52), by stage, unit and copy. Log entry 17. -/
opaque imageDigest (stage unit copy : Nat) : BitVec 512

/-- CRC-32 of the journal's entries (R56); the manual names no polynomial. Log entry 7. -/
opaque crc32 : List Byte → Word

/-- RSASSA-PSS with SHA-512 by the identity key over a report (R60, R83): 512 bytes. Log entry 8. -/
opaque signReport : List Byte → Nat → Byte

/-- The bytes of a power-interrupted journal entry (R57): which of its 64 bytes reached the flash. Log entry 9. -/
opaque tornByte (n k : Nat) : Byte

/-- The flit slots of each virtual channel of a router's input port (R31). Log entry 77. -/
opaque bufferFlits : Nat

/-- Whether the transport of a network send queue is reliable and ordered (R45), by partition and queue. Log entry 83. -/
opaque queueOrdered (part queue : Nat) : Bool

/-- The set of a home directory that keeps the entry of a region (R209), by its base line. Log entry 78. -/
opaque directorySet (base : Nat) : Nat

end Sys2Proof.Config
end

