-- ==== Sys2Proof/Syntax.lean ====
section
/-! DEFINITION. The instruction type: one constructor per row of spec/opcode_table.json, with the operand types they use.
The table's rows are the instructions of the opcode map (R305 to R315) and the device's own steps and events; an event's
arguments name the item of the state it acts on, or carry the input that reaches the device from outside. -/

namespace Sys2Proof

/-! ## Fields of the instruction word -/

/-- An operand field, by its kind (R291). `bad` holds a field of kind 01 or 11 whose "must be 0" bits are not zero; it is
kept as it stands because only the check of R302 step 3 refuses it. -/
inductive Operand where
  | vec (n : BitVec 8) (last : Bool) (pat : BitVec 3) (par : BitVec 6)
  | scal (n : BitVec 8)
  | imm (v : BitVec 18)
  | special (i : BitVec 8)
  | bad (raw : BitVec 20)
  deriving DecidableEq, Repr

/-- The guard and the hints of an instruction word (R289, R290, R142). -/
structure Ctl where
  guard : BitVec 3
  neg : Bool
  dist : BitVec 4
  wmask : BitVec 12
  sflag : BitVec 4
  yld : Bool
  deriving DecidableEq, Repr

/-- The memory attribute field (R297). -/
structure Attr where
  ofs : BitVec 6
  ord : BitVec 2
  ac : BitVec 4
  size : BitVec 3
  scope : BitVec 3
  pol : BitVec 2
  deriving DecidableEq, Repr

/-- Formats O and X: three operand fields (R296); in format X the B field carries the modifier. -/
structure OForm where
  c : Ctl
  d : Operand
  a : Operand
  b : Operand
  deriving DecidableEq, Repr

/-- Format M: data, address base and attribute field (R296, R297). -/
structure MForm where
  c : Ctl
  d : Operand
  a : Operand
  attr : Attr
  deriving DecidableEq, Repr

/-- Format C: condition operand and the 40-bit slot offset (R300). -/
structure CForm where
  c : Ctl
  d : Operand
  off : BitVec 40
  deriving DecidableEq, Repr

/-- The type index of the eleven floating-point operations (R309). -/
inductive FTy where
  | f32 | f16 | bf16 | f16x2 | bf16x2
  deriving DecidableEq, Repr

/-- The window width of the variable-precision operations (R310). -/
inductive VpW where
  | w1 | w2 | w3 | w4
  deriving DecidableEq, Repr

/-- The number of registers of a window. -/
def VpW.n : VpW → Nat
  | .w1 => 1 | .w2 => 2 | .w3 => 3 | .w4 => 4

/-- The type that an atomic's code fixes (R311): signed or untyped integer, unsigned integer, or a floating-point type. -/
inductive AtomTy where
  | int | uint | f32 | bf16x2 | f16x2
  deriving DecidableEq, Repr

/-- The format index of the matrix operation (R313). -/
inductive MFmt where
  | e2m1 | e4m3 | e5m2 | i8 | bf16 | f16
  deriving DecidableEq, Repr

/-! ## Arguments of the device's events -/

/-- Which half of a 64-bit window register an access reaches (R469). -/
inductive Half where
  | whole | low | high
  deriving DecidableEq, Repr

/-- Who writes a register of a partition's window: the host, a command-complex core, or a program's lane (R71, R72, R79). -/
inductive WindowAgent where
  | host | complex | program
  deriving DecidableEq, Repr

/-- A read or a write by an agent outside the device: at an offset of a window it was given. -/
inductive OutsideAccess where
  | read (ofs len : Nat)
  | write (ofs : Nat) (bytes : List Byte)
  deriving DecidableEq, Repr

/-- The operation of an integer atomic (R401) on old and the operand; `cas` carries compare and new value. -/
inductive AtomOp where
  | add | sub | min | max | umin | umax | and | or | xor | xchg | cas | inc | dec
  deriving DecidableEq, Repr

/-- A request of a fabric peer into the window a context exports (R42). -/
structure PeerReq where
  pod : Nat
  part : Nat
  ctx : Nat
  access : OutsideAccess
  /-- an atomic of the fabric: the operation and its operand, in place of a plain write -/
  atom : Option AtomOp
  deriving DecidableEq, Repr

/-- What the management port serves (R49). -/
inductive MgmtItem where
  | inventory
  | energy (part : Nat)
  | health (die : Nat)
  deriving DecidableEq, Repr

/-- A message of the mailbox matrix (R65). -/
structure Message where
  srcDie : Nat
  srcCore : Nat
  dstDie : Nat
  dstCore : Nat
  kind : Byte
  stat : Byte
  life : BitVec 16
  seq : BitVec 16
  body : List Byte
  deriving DecidableEq, Repr

/-- A message between shard engines of two members of a group (R184). `ctx` and `group` are this device's numbers for the context
and for the entry that holds the tag `gid`; `own` is the sender's member life, `target` the life of the receiver that the
sender last knew. -/
structure ShardMsg where
  ctx : Nat
  group : Nat
  member : Nat
  page : Nat
  gid : Word
  round : BitVec 16
  own : BitVec 16
  target : BitVec 16
  role : Bool
  rfmt : Bool
  lost : Bool
  data : List Byte
  deriving DecidableEq, Repr

/-- Where ECC finds an error (R177); `hard` says that it cannot be corrected. -/
inductive EccEvent where
  | hbm (die line : Nat) (hard : Bool)
  | cache (die : Nat) (core : Option Nat) (line : Nat) (hard : Bool)
  | l2 (die line : Nat) (hard : Bool)
  | scratch (die core buf block : Nat) (hard : Bool)
  | vreg (wg trix name : Nat) (hard : Bool)
  | sreg (wg trix n : Nat) (hard : Bool)
  | weight (pipe slot : Nat) (hard : Bool)
  | pte (die loc : Nat) (hard : Bool)
  deriving DecidableEq, Repr

/-! ## The instructions and events -/

/-- One constructor per row of spec/opcode_table.json: the instructions of the opcode map first, then the device's steps and
events, each in the table's order. -/
inductive Instr where
  /-- SADD (R337). -/
  | sadd (f : OForm)
  /-- SSUB (R337). -/
  | ssub (f : OForm)
  /-- SMUL (R337). -/
  | smul (f : OForm)
  /-- SMULH (R337). -/
  | smulh (u : Bool) (f : OForm)
  /-- SDIV (R338). -/
  | sdiv (u : Bool) (f : OForm)
  /-- SREM (R338). -/
  | srem (u : Bool) (f : OForm)
  /-- SAND (R337). -/
  | sand (f : OForm)
  /-- SOR (R337). -/
  | sor (f : OForm)
  /-- SXOR (R337). -/
  | sxor (f : OForm)
  /-- SSHL (R337). -/
  | sshl (f : OForm)
  /-- SSHR (R337). -/
  | sshr (f : OForm)
  /-- SSRA (R337). -/
  | ssra (f : OForm)
  /-- SMIN (R337). -/
  | smin (u : Bool) (f : OForm)
  /-- SMAX (R337). -/
  | smax (u : Bool) (f : OForm)
  /-- SCMP (R340). -/
  | scmp (f : OForm)
  /-- SSEL (R339). -/
  | ssel (f : OForm)
  /-- SMOV (R339). -/
  | smov (f : OForm)
  /-- SMOVH (R339). -/
  | smovh (f : OForm)
  /-- SLD (R342). -/
  | sld (f : MForm)
  /-- SST (R341). -/
  | sst (f : MForm)
  /-- BR (R343). -/
  | br (f : CForm)
  /-- BRZ (R343). -/
  | brz (f : CForm)
  /-- BRNZ (R343). -/
  | brnz (f : CForm)
  /-- BANY (R343). -/
  | bany (f : CForm)
  /-- BALL (R343). -/
  | ball (f : CForm)
  /-- BNONE (R343). -/
  | bnone (f : CForm)
  /-- CALL (R344). -/
  | call (f : CForm)
  /-- RET (R344). -/
  | ret (f : OForm)
  /-- JMP (R344). -/
  | jmp (f : OForm)
  /-- EXIT (R345). -/
  | exit (f : OForm)
  /-- YIELD (R346). -/
  | yield (f : OForm)
  /-- NOP (R346). -/
  | nop (f : OForm)
  /-- PAND (R347). -/
  | pand (f : OForm)
  /-- POR (R347). -/
  | por (f : OForm)
  /-- PXOR (R347). -/
  | pxor (f : OForm)
  /-- PNOT (R347). -/
  | pnot (f : OForm)
  /-- PMOV (R347). -/
  | pmov (f : OForm)
  /-- PCNT (R347). -/
  | pcnt (f : OForm)
  /-- PFIRST (R347). -/
  | pfirst (f : OForm)
  /-- PFROMS (R347). -/
  | pfroms (f : OForm)
  /-- PTOS (R347). -/
  | ptos (f : OForm)
  /-- VADD (R350). -/
  | vadd (f : OForm)
  /-- VSUB (R350). -/
  | vsub (f : OForm)
  /-- VADDS (R350). -/
  | vadds (u : Bool) (f : OForm)
  /-- VSUBS (R350). -/
  | vsubs (u : Bool) (f : OForm)
  /-- VADDC (R351). -/
  | vaddc (f : OForm)
  /-- VMUL (R350). -/
  | vmul (f : OForm)
  /-- VMULH (R350). -/
  | vmulh (u : Bool) (f : OForm)
  /-- VMAD (R350). -/
  | vmad (f : OForm)
  /-- VDIV (R352). -/
  | vdiv (u : Bool) (f : OForm)
  /-- VREM (R352). -/
  | vrem (u : Bool) (f : OForm)
  /-- VAND (R350). -/
  | vand (f : OForm)
  /-- VOR (R350). -/
  | vor (f : OForm)
  /-- VXOR (R350). -/
  | vxor (f : OForm)
  /-- VNOT (R350). -/
  | vnot (f : OForm)
  /-- VSHL (R350). -/
  | vshl (f : OForm)
  /-- VSHR (R350). -/
  | vshr (f : OForm)
  /-- VSRA (R350). -/
  | vsra (f : OForm)
  /-- VMIN (R350). -/
  | vmin (u : Bool) (f : OForm)
  /-- VMAX (R350). -/
  | vmax (u : Bool) (f : OForm)
  /-- VABS (R350). -/
  | vabs (f : OForm)
  /-- VNEG (R350). -/
  | vneg (f : OForm)
  /-- VCMP (R353). -/
  | vcmp (f : OForm)
  /-- VSEL (R350). -/
  | vsel (f : OForm)
  /-- VMOV (R350). -/
  | vmov (f : OForm)
  /-- VMOVH (R350). -/
  | vmovh (f : OForm)
  /-- VLANE (R350). -/
  | vlane (f : OForm)
  /-- VSCAN (R355). -/
  | vscan (f : OForm)
  /-- VRED (R355). -/
  | vred (f : OForm)
  /-- VMATCH (R356). -/
  | vmatch (f : OForm)
  /-- VBFE (R357). -/
  | vbfe (u : Bool) (f : OForm)
  /-- VBFI (R357). -/
  | vbfi (f : OForm)
  /-- VPOP (R358). -/
  | vpop (f : OForm)
  /-- VCLZ (R358). -/
  | vclz (f : OForm)
  /-- VCTZ (R358). -/
  | vctz (f : OForm)
  /-- VBREV (R358). -/
  | vbrev (f : OForm)
  /-- VFUNNEL (R359). -/
  | vfunnel (f : OForm)
  /-- VBPERM (R360). -/
  | vbperm (f : OForm)
  /-- FADD (R364). -/
  | fadd (t : FTy) (f : OForm)
  /-- FSUB (R364). -/
  | fsub (t : FTy) (f : OForm)
  /-- FMUL (R364). -/
  | fmul (t : FTy) (f : OForm)
  /-- FFMA (R365). -/
  | ffma (t : FTy) (f : OForm)
  /-- FFMS (R365). -/
  | ffms (t : FTy) (f : OForm)
  /-- FNMA (R365). -/
  | fnma (t : FTy) (f : OForm)
  /-- FNMS (R365). -/
  | fnms (t : FTy) (f : OForm)
  /-- FMIN (R364). -/
  | fmin (t : FTy) (f : OForm)
  /-- FMAX (R364). -/
  | fmax (t : FTy) (f : OForm)
  /-- FABS (R364). -/
  | fabs (t : FTy) (f : OForm)
  /-- FNEG (R364). -/
  | fneg (t : FTy) (f : OForm)
  /-- FCMP (R368). -/
  | fcmp (f : OForm)
  /-- FCLASS (R369). -/
  | fclass (f : OForm)
  /-- FROUND (R370). -/
  | fround (f : OForm)
  /-- FCVT (R371). -/
  | fcvt (f : OForm)
  /-- FCVTN (R372). -/
  | fcvtn (f : OForm)
  /-- FPACK (R373). -/
  | fpack (f : OForm)
  /-- FSCALE (R370). -/
  | fscale (f : OForm)
  /-- FDIV (R367). -/
  | fdiv (f : OForm)
  /-- FSQRT (R367). -/
  | fsqrt (f : OForm)
  /-- FRCP (R367). -/
  | frcp (f : OForm)
  /-- FRSQ (R367). -/
  | frsq (f : OForm)
  /-- FEXP2 (R367). -/
  | fexp2 (f : OForm)
  /-- FLOG2 (R367). -/
  | flog2 (f : OForm)
  /-- FSIN (R367). -/
  | fsin (f : OForm)
  /-- FCOS (R367). -/
  | fcos (f : OForm)
  /-- FDOT2 (R366). -/
  | fdot2 (bf : Bool) (f : OForm)
  /-- VPADD (R376). -/
  | vpadd (w : VpW) (f : OForm)
  /-- VPSUB (R376). -/
  | vpsub (w : VpW) (f : OForm)
  /-- VPMUL (R376). -/
  | vpmul (w : VpW) (f : OForm)
  /-- VPFMA (R376). -/
  | vpfma (w : VpW) (f : OForm)
  /-- VPDIV (R376). -/
  | vpdiv (w : VpW) (f : OForm)
  /-- VPSQRT (R376). -/
  | vpsqrt (w : VpW) (f : OForm)
  /-- VPEXP (R376). -/
  | vpexp (w : VpW) (f : OForm)
  /-- VPCMP (R377). -/
  | vpcmp (w : VpW) (f : OForm)
  /-- VPCVT (R379). -/
  | vpcvt (w : VpW) (f : OForm)
  /-- VPROUND (R378). -/
  | vpround (w : VpW) (f : OForm)
  /-- VPLD (R382). -/
  | vpld (w : VpW) (f : MForm)
  /-- VPST (R382). -/
  | vpst (w : VpW) (f : MForm)
  /-- VPSETL (R380). -/
  | vpsetl (f : OForm)
  /-- VPGETL (R380). -/
  | vpgetl (f : OForm)
  /-- LD (R387). -/
  | ld (f : MForm)
  /-- ST (R387). -/
  | st (f : MForm)
  /-- LDSP (R389). -/
  | ldsp (f : MForm)
  /-- STSP (R389). -/
  | stsp (f : MForm)
  /-- TLD (R390). -/
  | tld (f : MForm)
  /-- TST (R391). -/
  | tst (f : MForm)
  /-- WAITAC (R392). -/
  | waitac (f : OForm)
  /-- WAITMEM (R393). -/
  | waitmem (f : MForm)
  /-- FENCE (R394). -/
  | fence (f : MForm)
  /-- PHADV (R395). -/
  | phadv (f : OForm)
  /-- PHWAIT (R396). -/
  | phwait (f : OForm)
  /-- CWB (R397). -/
  | cwb (f : OForm)
  /-- CINV (R397). -/
  | cinv (f : OForm)
  /-- CINVD (R397). -/
  | cinvd (f : OForm)
  /-- CPF (R398). -/
  | cpf (f : MForm)
  /-- SHFLUSH (R199). -/
  | shflush (f : OForm)
  /-- ATOM_ADD (R401). -/
  | atomAdd (t : AtomTy) (f : MForm)
  /-- ATOM_SUB (R401). -/
  | atomSub (t : AtomTy) (f : MForm)
  /-- ATOM_MIN (R401). -/
  | atomMin (t : AtomTy) (f : MForm)
  /-- ATOM_MAX (R401). -/
  | atomMax (t : AtomTy) (f : MForm)
  /-- ATOM_AND (R401). -/
  | atomAnd (f : MForm)
  /-- ATOM_OR (R401). -/
  | atomOr (f : MForm)
  /-- ATOM_XOR (R401). -/
  | atomXor (f : MForm)
  /-- ATOM_XCHG (R401). -/
  | atomXchg (f : MForm)
  /-- ATOM_CAS (R401). -/
  | atomCas (f : MForm)
  /-- ATOM_INC (R401). -/
  | atomInc (f : MForm)
  /-- ATOM_DEC (R401). -/
  | atomDec (f : MForm)
  /-- BARW (R405). -/
  | barw (f : OForm)
  /-- BARR (R405). -/
  | barr (f : OForm)
  /-- BARWT (R405). -/
  | barwt (f : OForm)
  /-- BARINIT (R408). -/
  | barinit (f : OForm)
  /-- BARINVAL (R408). -/
  | barinval (f : OForm)
  /-- BOSIG (R409). -/
  | bosig (f : MForm)
  /-- BOWAIT (R410). -/
  | bowait (f : MForm)
  /-- CPY (R413). -/
  | cpy (f : OForm)
  /-- ARM (R421). -/
  | arm (f : OForm)
  /-- TAGWANY (R418). -/
  | tagwany (f : OForm)
  /-- TAGWALL (R418). -/
  | tagwall (f : OForm)
  /-- TAGFIRST (R418). -/
  | tagfirst (f : OForm)
  /-- TAGCLR (R418). -/
  | tagclr (f : OForm)
  /-- RCNT (R420). -/
  | rcnt (f : OForm)
  /-- RCNTADD (R420). -/
  | rcntadd (f : OForm)
  /-- BGET (R423). -/
  | bget (f : OForm)
  /-- BGIVE (R424). -/
  | bgive (f : OForm)
  /-- BFREE (R425). -/
  | bfree (f : OForm)
  /-- MMA (R432). -/
  | mma (t : MFmt) (f : OForm)
  /-- MMA_SP (R431). -/
  | mmaSp (t : MFmt) (f : OForm)
  /-- MLDB (R430). -/
  | mldb (f : MForm)
  /-- MRDY (R436). -/
  | mrdy (f : OForm)
  /-- MFENCE (R434). -/
  | mfence (f : OForm)
  /-- MWAIT (R435). -/
  | mwait (f : OForm)
  /-- MWAIT_T (R435). -/
  | mwaitT (f : OForm)
  /-- MCLR (R437). -/
  | mclr (f : OForm)
  /-- MBSCALE (R437). -/
  | mbscale (f : OForm)
  /-- REMIT (R440). -/
  | remit (f : OForm)
  /-- TENQ (R440). -/
  | tenq (f : OForm)
  /-- TDEQ (R443). -/
  | tdeq (f : OForm)
  /-- DEPINIT (R445). -/
  | depinit (f : MForm)
  /-- DEPDEC (R445). -/
  | depdec (f : MForm)
  /-- CHUNK (R446). -/
  | chunk (f : MForm)
  /-- LVLID (R447). -/
  | lvlid (f : OForm)
  /-- LVLCANCEL (R448). -/
  | lvlcancel (f : OForm)
  /-- GEXIT (R444). -/
  | gexit (f : OForm)
  /-- TRAP (R449). -/
  | trap (f : OForm)
  /-- TRET (R450). -/
  | tret (f : OForm)
  /-- SREG (R451). -/
  | sreg (f : OForm)
  /-- SWREG (R451). -/
  | swreg (f : OForm)
  /-- SHRINK (R452). -/
  | shrink (f : OForm)
  /-- GROW (R452). -/
  | grow (f : OForm)
  /-- BKPT (R449). -/
  | bkpt (f : OForm)
  /-- HALT (R453). -/
  | halt (f : OForm)
  /-- FAULTRD (R454). -/
  | faultrd (f : OForm)
  /-- PCFGRD (R454). -/
  | pcfgrd (f : OForm)
  /-- UNASSIGNED_OPCODE (R305). -/
  | unassignedOpcode (w : IWord)
  /-- INSTRUCTION_FETCH_FAULT (R288). -/
  | instructionFetchFault (code : BitVec 8)
  /-- POWER_ON (R53). -/
  | powerOn
  /-- MODULE_RESET (R58). -/
  | moduleReset
  /-- DIE_RESET (R55). -/
  | dieReset (die : Nat)
  /-- RESET_BROADCAST (R39). -/
  | resetBroadcast (die : Nat)
  /-- PACKET_ARRIVAL (R34). -/
  | packetArrival (pkt : Nat)
  /-- RESPONSE_ARRIVAL (R39). -/
  | responseArrival (pkt : Nat)
  /-- NACK_RESEND (R36). -/
  | nackResend (src dst : Nat)
  /-- ESCAPE_MOVE (R33). -/
  | escapeMove (pkt : Nat)
  /-- LINK_FAILURE (R35). -/
  | linkFailure (a b : Nat)
  /-- LINK_UP (R36). -/
  | linkUp (a b : Nat)
  /-- LINK_STATE_NOTICE (R36). -/
  | linkStateNotice (router : Nat) (epoch : BitVec 16)
  /-- LINK_STATE_ACK (R36). -/
  | linkStateAck (router : Nat) (epoch : BitVec 16)
  /-- SETTLED_NOTICE (R36). -/
  | settledNotice (router : Nat) (epoch : BitVec 16)
  /-- COMPLETION_TIMEOUT (R44). -/
  | completionTimeout (req : Nat)
  /-- FABRIC_PORT_FAILURE (R43). -/
  | fabricPortFailure (port : Nat)
  /-- PEER_REQUEST (R42). -/
  | peerRequest (r : PeerReq)
  /-- ETHERNET_PORT_DOWN (R46). -/
  | ethernetPortDown (port : Nat)
  /-- ETH_READ_REQUEST (R45). -/
  | ethReadRequest (port tag : Nat)
  /-- CXL_LINK_LOSS (R48). -/
  | cxlLinkLoss (port : Nat)
  /-- CXL_RETRAIN_DONE (R48). -/
  | cxlRetrainDone (port : Nat)
  /-- HOST_WINDOW_ACCESS (R81). -/
  | hostWindowAccess (part : Nat) (a : OutsideAccess)
  /-- MGMT_PORT_REQUEST (R49). -/
  | mgmtPortRequest (q : MgmtItem)
  /-- ENERGY_CREDIT (R62). -/
  | energyCredit (die : Nat)
  /-- ENERGY_ADMIT (R62). -/
  | energyAdmit (part : Nat)
  /-- MAILBOX_SEND (R66). -/
  | mailboxSend (die core : Nat) (m : Message)
  /-- MAILBOX_RECEIVE (R64). -/
  | mailboxReceive (die core : Nat)
  /-- MAILBOX_REMOTE_DELIVER (R67). -/
  | mailboxRemoteDeliver (pkt : Nat)
  /-- JQNOTIFY_WRITE (R73). -/
  | jqnotifyWrite (part q : Nat) (h : Half) (v : DWord)
  /-- JQCTL_EN_SET (R72). -/
  | jqctlEnSet (part q : Nat) (h : Half) (v : DWord)
  /-- JQCTL_EN_CLEAR (R72). -/
  | jqctlEnClear (part q : Nat) (h : Half) (v : DWord)
  /-- JQCTL_ERR_CLEAR (R74). -/
  | jqctlErrClear (part q : Nat) (h : Half) (v : DWord)
  /-- JQ_CONFIG_WRITE (R72). -/
  | jqConfigWrite (part q : Nat) (base : Bool) (h : Half) (v : DWord)
  /-- PARSER_READ_PACKET (R75). -/
  | parserReadPacket (part dev : Nat)
  /-- JOB_NOOP (R76). -/
  | jobNoop (job : Nat)
  /-- JOB_GRAPH (R104). -/
  | jobGraph (job : Nat)
  /-- JOB_STEP (R89). -/
  | jobStep (job : Nat)
  /-- JOB_WAIT (R77). -/
  | jobWait (job : Nat)
  /-- WAIT_PACKET_RECHECK (R77). -/
  | waitPacketRecheck (job : Nat)
  /-- JOB_CANCEL (R77). -/
  | jobCancel (job : Nat)
  /-- MQSUBMIT_WRITE (R80). -/
  | mqsubmitWrite (part : Nat) (h : Half) (v : DWord)
  /-- MQDONE_CLEAR (R80). -/
  | mqdoneClear (part : Nat) (h : Half) (v : DWord)
  /-- CTXCREATE (R81). -/
  | ctxcreate (part : Nat)
  /-- CTXDESTROY (R81). -/
  | ctxdestroy (part : Nat)
  /-- MAP (R81). -/
  | mgmtMap (part : Nat)
  /-- UNMAP (R81). -/
  | mgmtUnmap (part : Nat)
  /-- MIGRATE (R81). -/
  | migrate (part : Nat)
  /-- SETREG (R81). -/
  | setreg (part : Nat)
  /-- SHARDGRP (R81). -/
  | shardgrp (part : Nat)
  /-- PEER (R81). -/
  | mgmtPeer (part : Nat)
  /-- EXPORT (R81). -/
  | mgmtExport (part : Nat)
  /-- HOSTWIN (R81). -/
  | hostwin (part : Nat)
  /-- DEBUG (R81). -/
  | mgmtDebug (part : Nat)
  /-- ATTEST (R83). -/
  | attest (part : Nat)
  /-- REGISTER_WRITE (R469). -/
  | registerWrite (part ofs : Nat) (src : WindowAgent) (h : Half) (v : DWord)
  /-- KERNEL_LAUNCH_ADMIT (R328). -/
  | kernelLaunchAdmit (lvl : Nat)
  /-- GRAPH_ADMIT (R106). -/
  | graphAdmit (lvl : Nat)
  /-- STEP_MEMBER_START (R87). -/
  | stepMemberStart (lvl : Nat)
  /-- WORKGROUP_START (R92). -/
  | workgroupStart (die : Nat)
  /-- RESUMPTION (R260). -/
  | resumption (die : Nat)
  /-- RESUME_CHECK (R94). -/
  | resumeCheck (die : Nat)
  /-- PREEMPT_STOP (R257). -/
  | preemptStop (wg : Nat)
  /-- PREEMPT_SAVE (R257). -/
  | preemptSave (wg : Nat)
  /-- CONTEXT_SWITCH (R262). -/
  | contextSwitch (ctx : Nat)
  /-- PT_STATE_SAVE_DONE (R262). -/
  | ptStateSaveDone (ctx : Nat)
  /-- CONTEXT_RETURN (R262). -/
  | contextReturn (ctx : Nat)
  /-- DEBUG_RELEASE (R453). -/
  | debugRelease (wg : Nat)
  /-- WORKGROUP_RETIRE (R102). -/
  | workgroupRetire (wg : Nat)
  /-- LEVEL_END (R88). -/
  | levelEnd (lvl : Nat)
  /-- LEVEL_CANCEL_APPLY (R101). -/
  | levelCancelApply (part : Nat)
  /-- STEAL_REQUEST (R98). -/
  | stealRequest (die core : Nat)
  /-- STEAL_REPLY (R99). -/
  | stealReply (id : Nat)
  /-- STEAL_ARRIVE (R120). -/
  | stealArrive (id : Nat)
  /-- STEAL_ACK (R120). -/
  | stealAck (id : Nat)
  /-- STEAL_BACKOFF (R99). -/
  | stealBackoff (die core : Nat)
  /-- RECORD_COUNT_ACK (R112). -/
  | recordCountAck (id : Nat)
  /-- HOLD_LAPSE (R114). -/
  | holdLapse (lvl node core : Nat)
  /-- NODE_GROUP_START (R115). -/
  | nodeGroupStart (die : Nat)
  /-- GRAPH_DRAIN_ORDER (R116). -/
  | graphDrainOrder (lvl : Nat)
  /-- TRANSLATION_MISS (R166). -/
  | translationMiss (req : Nat)
  /-- WALK_COMPLETE (R166). -/
  | walkComplete (walk : Nat)
  /-- RESOLVER_FINISH (R169). -/
  | resolverFinish (ctx page : Nat)
  /-- TRANSLATION_INVALIDATE (R170). -/
  | translationInvalidate (die : Nat)
  /-- MIGRATION_LINE_FETCH (R172). -/
  | migrationLineFetch (die frame line : Nat)
  /-- HBM_IDLE_PRECHARGE (R176). -/
  | hbmIdlePrecharge (die bank : Nat)
  /-- HBM_REFRESH (R176). -/
  | hbmRefresh (die bank : Nat)
  /-- ECC_ERROR (R177). -/
  | eccError (e : EccEvent)
  /-- ORDER_NETWORK_NOTICE (R206). -/
  | orderNetworkNotice (die : Nat)
  /-- HOME_REQUEST (R210). -/
  | homeRequest (req : Nat)
  /-- INVALIDATION_RECEIVE (R207). -/
  | invalidationReceive (txn die : Nat)
  /-- RECALL_RECEIVE (R214). -/
  | recallReceive (txn die : Nat)
  /-- GRANT_RECEIVE (R208). -/
  | grantReceive (txn : Nat)
  /-- HOME_ACK_RECEIVE (R208). -/
  | homeAckReceive (txn die : Nat)
  /-- WRITE_BACK_ARRIVAL (R210). -/
  | writeBackArrival (id : Nat)
  /-- LINE_EVICTION (R214). -/
  | lineEviction (die : Nat) (core : Option Nat) (line : Nat)
  /-- REGION_MERGE (R212). -/
  | regionMerge (die base : Nat)
  /-- RDC_COMBINE_FLUSH (R213). -/
  | rdcCombineFlush (die line : Nat)
  /-- LEASE_RENEWAL_SEND (R217). -/
  | leaseRenewalSend (die home : Nat)
  /-- LEASE_RENEWAL_RECEIVE (R217). -/
  | leaseRenewalReceive (home die : Nat)
  /-- RENEWAL_ACK_RECEIVE (R219). -/
  | renewalAckReceive (die home : Nat)
  /-- LEASE_LAPSE (R218). -/
  | leaseLapse (home die : Nat)
  /-- LEASE_DROP (R219). -/
  | leaseDrop (die home : Nat)
  /-- BACKINVAL_TIMEOUT (R221). -/
  | backinvalTimeout (txn : Nat)
  /-- GATHER_RECEIVE (R188). -/
  | gatherReceive (m : ShardMsg)
  /-- DATA_RECEIVE (R189). -/
  | dataReceive (m : ShardMsg)
  /-- DEFERRED_RECEIVE (R189). -/
  | deferredReceive (m : ShardMsg)
  /-- LIFE_RECEIVE (R189). -/
  | lifeReceive (m : ShardMsg)
  /-- LOST_RECEIVE (R190). -/
  | lostReceive (m : ShardMsg)
  /-- OPEN_RECEIVE (R195). -/
  | openReceive (m : ShardMsg)
  /-- OPENOK_RECEIVE (R192). -/
  | openokReceive (m : ShardMsg)
  /-- BUSY_RECEIVE (R192). -/
  | busyReceive (m : ShardMsg)
  /-- BUSY_RESEND (R192). -/
  | busyResend (ctx page member : Nat)
  /-- DELIVER_RECEIVE (R195). -/
  | deliverReceive (m : ShardMsg)
  /-- DELACK_RECEIVE (R194). -/
  | delackReceive (m : ShardMsg)
  /-- CLOSE_RECEIVE (R195). -/
  | closeReceive (m : ShardMsg)
  /-- DONE_RECEIVE (R196). -/
  | doneReceive (m : ShardMsg)
  /-- RENEW_SEND (R186). -/
  | renewSend (ctx group : Nat)
  /-- RENEW_RECEIVE (R186). -/
  | renewReceive (m : ShardMsg)
  /-- MEMBER_DEAD (R186). -/
  | memberDead (ctx group member : Nat)
  /-- COPY_ENGINE_START (R413). -/
  | copyEngineStart (copy : Nat)
  /-- COPY_COMPLETE (R415). -/
  | copyComplete (copy : Nat)
  /-- RECEIVE_COUNTER_SIGNAL (R419). -/
  | receiveCounterSignal (ctx idx : Nat)
  /-- MATRIX_OP_PERFORM (R432). -/
  | matrixOpPerform (pipe : Nat)
  /-- TILE_FILL_COMPLETE (R430). -/
  | tileFillComplete (fill : Nat)
  /-- LANE_REPLY (R387). -/
  | laneReply (req : Nat)
  /-- STORE_ACK (R102). -/
  | storeAck (req : Nat)
  /-- VARIABLE_RESULT_WRITE (R142). -/
  | variableResultWrite (wg trix k : Nat)
  /-- QUEUE_ENGINE_REPLY (R440). -/
  | queueEngineReply (wg trix k : Nat)
  /-- WAITMEM_RECHECK (R393). -/
  | waitmemRecheck (wg trix : Nat)
  /-- BOWAIT_RECHECK (R410). -/
  | bowaitRecheck (wg trix : Nat)
  /-- POWER_LOSS (R57). -/
  | powerLoss (midWrite : Bool)
  /-- X_DIE_RESET (R52). -/
  | xDieReset (x : Nat)
  deriving DecidableEq, Repr

end Sys2Proof
end

