-- ==== Sys2Proof/WellFormed.lean ====
section
/-! DEFINITION. Which terms of Instr are well formed: those that the word's fields, or the numbering of the device's units, can
name. An instruction that some later check of R302 refuses is well formed: it decodes and then traps. -/

namespace Sys2Proof

/-- The operand that a 20-bit field holds (R291). -/
def decodeOperand (v : BitVec 20) : Operand :=
  match (v.extractLsb' 0 2).toNat with
  | 0 => .vec (v.extractLsb' 2 8) (v.getLsbD 10) (v.extractLsb' 11 3) (v.extractLsb' 14 6)
  | 1 => if v.extractLsb' 10 10 = 0 then .scal (v.extractLsb' 2 8) else .bad v
  | 2 => .imm (v.extractLsb' 2 18)
  | _ => if v.extractLsb' 10 10 = 0 then .special (v.extractLsb' 2 8) else .bad v

/-- The field of an operand (R291). -/
def encodeOperand : Operand → BitVec 20
  | .vec n last pat par => par ++ (pat ++ (BitVec.ofBool last ++ (n ++ 0#2)))
  | .scal n => 0#10 ++ (n ++ 1#2)
  | .imm v => v ++ 2#2
  | .special i => 0#10 ++ (i ++ 3#2)
  | .bad raw => raw

/-- A `bad` operand holds only a field that no other constructor reads. -/
def Operand.wf : Operand → Bool
  | .bad raw => decodeOperand raw == .bad raw
  | _ => true

/-- An sflag that names no flag and is not 15 (R142). -/
def badSflag (f : BitVec 4) : Bool := f == 12 || f == 13 || f == 14

def Ctl.wf (c : Ctl) : Bool := !badSflag c.sflag

def OForm.wf (f : OForm) : Bool := f.c.wf && f.d.wf && f.a.wf && f.b.wf
def MForm.wf (m : MForm) : Bool := m.c.wf && m.d.wf && m.a.wf
def CForm.wf (c : CForm) : Bool := c.c.wf && c.d.wf

/-- The number of C-dies, sockets and so on (R12, R14, R16, R17, R71). -/
def wfDie (d : Nat) : Bool := d < 32
def wfSocket (s : Nat) : Bool := s < 64
def wfCore (c : Nat) : Bool := c < 8
def wfPart (p : Nat) : Bool := p < 32
def wfQueue (q : Nat) : Bool := q < 64

def ShardMsg.wf (m : ShardMsg) : Bool := m.group < 16 && m.member < 64 && m.page < 2 ^ 36

def Message.wf (m : Message) : Bool :=
  wfDie m.srcDie && wfCore m.srcCore && wfDie m.dstDie && wfCore m.dstCore && m.body.length == 56

def EccEvent.wf : EccEvent → Bool
  | .hbm d _ _ => wfDie d
  | .cache d c _ _ => wfDie d && (c.all wfCore)
  | .l2 d _ _ => wfDie d
  | .scratch d c b k _ => wfDie d && wfCore c && b < 64 && k < 128
  | .vreg _ t n _ => t < 16 && n < 255
  | .sreg _ t n _ => t < 16 && n < 64
  | .weight p s _ => p < 1024 && s < 64
  | .pte d _ _ => wfDie d

/-- The well-formedness of a term: its operand fields, its type index, and the numbers of the units an event names. -/
def Instr.wf : Instr → Bool
  | .sadd f => f.wf
  | .ssub f => f.wf
  | .smul f => f.wf
  | .smulh _ f => f.wf
  | .sdiv _ f => f.wf
  | .srem _ f => f.wf
  | .sand f => f.wf
  | .sor f => f.wf
  | .sxor f => f.wf
  | .sshl f => f.wf
  | .sshr f => f.wf
  | .ssra f => f.wf
  | .smin _ f => f.wf
  | .smax _ f => f.wf
  | .scmp f => f.wf
  | .ssel f => f.wf
  | .smov f => f.wf
  | .smovh f => f.wf
  | .sld f => f.wf
  | .sst f => f.wf
  | .br f => f.wf
  | .brz f => f.wf
  | .brnz f => f.wf
  | .bany f => f.wf
  | .ball f => f.wf
  | .bnone f => f.wf
  | .call f => f.wf
  | .ret f => f.wf
  | .jmp f => f.wf
  | .exit f => f.wf
  | .yield f => f.wf
  | .nop f => f.wf
  | .pand f => f.wf
  | .por f => f.wf
  | .pxor f => f.wf
  | .pnot f => f.wf
  | .pmov f => f.wf
  | .pcnt f => f.wf
  | .pfirst f => f.wf
  | .pfroms f => f.wf
  | .ptos f => f.wf
  | .vadd f => f.wf
  | .vsub f => f.wf
  | .vadds _ f => f.wf
  | .vsubs _ f => f.wf
  | .vaddc f => f.wf
  | .vmul f => f.wf
  | .vmulh _ f => f.wf
  | .vmad f => f.wf
  | .vdiv _ f => f.wf
  | .vrem _ f => f.wf
  | .vand f => f.wf
  | .vor f => f.wf
  | .vxor f => f.wf
  | .vnot f => f.wf
  | .vshl f => f.wf
  | .vshr f => f.wf
  | .vsra f => f.wf
  | .vmin _ f => f.wf
  | .vmax _ f => f.wf
  | .vabs f => f.wf
  | .vneg f => f.wf
  | .vcmp f => f.wf
  | .vsel f => f.wf
  | .vmov f => f.wf
  | .vmovh f => f.wf
  | .vlane f => f.wf
  | .vscan f => f.wf
  | .vred f => f.wf
  | .vmatch f => f.wf
  | .vbfe _ f => f.wf
  | .vbfi f => f.wf
  | .vpop f => f.wf
  | .vclz f => f.wf
  | .vctz f => f.wf
  | .vbrev f => f.wf
  | .vfunnel f => f.wf
  | .vbperm f => f.wf
  | .fadd _ f => f.wf
  | .fsub _ f => f.wf
  | .fmul _ f => f.wf
  | .ffma _ f => f.wf
  | .ffms _ f => f.wf
  | .fnma _ f => f.wf
  | .fnms _ f => f.wf
  | .fmin _ f => f.wf
  | .fmax _ f => f.wf
  | .fabs _ f => f.wf
  | .fneg _ f => f.wf
  | .fcmp f => f.wf
  | .fclass f => f.wf
  | .fround f => f.wf
  | .fcvt f => f.wf
  | .fcvtn f => f.wf
  | .fpack f => f.wf
  | .fscale f => f.wf
  | .fdiv f => f.wf
  | .fsqrt f => f.wf
  | .frcp f => f.wf
  | .frsq f => f.wf
  | .fexp2 f => f.wf
  | .flog2 f => f.wf
  | .fsin f => f.wf
  | .fcos f => f.wf
  | .fdot2 _ f => f.wf
  | .vpadd _ f => f.wf
  | .vpsub _ f => f.wf
  | .vpmul _ f => f.wf
  | .vpfma _ f => f.wf
  | .vpdiv _ f => f.wf
  | .vpsqrt _ f => f.wf
  | .vpexp _ f => f.wf
  | .vpcmp _ f => f.wf
  | .vpcvt _ f => f.wf
  | .vpround _ f => f.wf
  | .vpld _ f => f.wf
  | .vpst _ f => f.wf
  | .vpsetl f => f.wf
  | .vpgetl f => f.wf
  | .ld f => f.wf
  | .st f => f.wf
  | .ldsp f => f.wf
  | .stsp f => f.wf
  | .tld f => f.wf
  | .tst f => f.wf
  | .waitac f => f.wf
  | .waitmem f => f.wf
  | .fence f => f.wf
  | .phadv f => f.wf
  | .phwait f => f.wf
  | .cwb f => f.wf
  | .cinv f => f.wf
  | .cinvd f => f.wf
  | .cpf f => f.wf
  | .shflush f => f.wf
  | .atomAdd t f => t != .uint && f.wf
  | .atomSub t f => t != .uint && f.wf
  | .atomMin _ f => f.wf
  | .atomMax _ f => f.wf
  | .atomAnd f => f.wf
  | .atomOr f => f.wf
  | .atomXor f => f.wf
  | .atomXchg f => f.wf
  | .atomCas f => f.wf
  | .atomInc f => f.wf
  | .atomDec f => f.wf
  | .barw f => f.wf
  | .barr f => f.wf
  | .barwt f => f.wf
  | .barinit f => f.wf
  | .barinval f => f.wf
  | .bosig f => f.wf
  | .bowait f => f.wf
  | .cpy f => f.wf
  | .arm f => f.wf
  | .tagwany f => f.wf
  | .tagwall f => f.wf
  | .tagfirst f => f.wf
  | .tagclr f => f.wf
  | .rcnt f => f.wf
  | .rcntadd f => f.wf
  | .bget f => f.wf
  | .bgive f => f.wf
  | .bfree f => f.wf
  | .mma _ f => f.wf
  | .mmaSp _ f => f.wf
  | .mldb f => f.wf
  | .mrdy f => f.wf
  | .mfence f => f.wf
  | .mwait f => f.wf
  | .mwaitT f => f.wf
  | .mclr f => f.wf
  | .mbscale f => f.wf
  | .remit f => f.wf
  | .tenq f => f.wf
  | .tdeq f => f.wf
  | .depinit f => f.wf
  | .depdec f => f.wf
  | .chunk f => f.wf
  | .lvlid f => f.wf
  | .lvlcancel f => f.wf
  | .gexit f => f.wf
  | .trap f => f.wf
  | .tret f => f.wf
  | .sreg f => f.wf
  | .swreg f => f.wf
  | .shrink f => f.wf
  | .grow f => f.wf
  | .bkpt f => f.wf
  | .halt f => f.wf
  | .faultrd f => f.wf
  | .pcfgrd f => f.wf
  | .unassignedOpcode _ => true
  | .instructionFetchFault _ => true
  | .powerOn => true
  | .moduleReset => true
  | .dieReset die => wfDie die
  | .resetBroadcast die => wfDie die
  | .packetArrival _ => true
  | .responseArrival _ => true
  | .nackResend src dst => wfSocket src && wfSocket dst
  | .escapeMove _ => true
  | .linkFailure a b => wfSocket a && wfSocket b
  | .linkUp a b => wfSocket a && wfSocket b
  | .linkStateNotice router _ => wfSocket router
  | .linkStateAck router _ => wfSocket router
  | .settledNotice router _ => wfSocket router
  | .completionTimeout _ => true
  | .fabricPortFailure port => port < 16
  | .peerRequest _ => true
  | .ethernetPortDown port => port < 2
  | .ethReadRequest port _ => port < 2
  | .cxlLinkLoss port => port < 2
  | .cxlRetrainDone port => port < 2
  | .hostWindowAccess part _ => wfPart part
  | .mgmtPortRequest _ => true
  | .energyCredit die => wfDie die
  | .energyAdmit part => wfPart part
  | .mailboxSend die core m => wfDie die && wfCore core && m.wf
  | .mailboxReceive die core => wfDie die && wfCore core
  | .mailboxRemoteDeliver _ => true
  | .jqnotifyWrite part q _ _ => wfPart part && wfQueue q
  | .jqctlEnSet part q _ _ => wfPart part && wfQueue q
  | .jqctlEnClear part q _ _ => wfPart part && wfQueue q
  | .jqctlErrClear part q _ _ => wfPart part && wfQueue q
  | .jqConfigWrite part q _ _ _ => wfPart part && wfQueue q
  | .parserReadPacket part _ => wfPart part
  | .jobNoop _ => true
  | .jobGraph _ => true
  | .jobStep _ => true
  | .jobWait _ => true
  | .waitPacketRecheck _ => true
  | .jobCancel _ => true
  | .mqsubmitWrite part _ _ => wfPart part
  | .mqdoneClear part _ _ => wfPart part
  | .ctxcreate part => wfPart part
  | .ctxdestroy part => wfPart part
  | .mgmtMap part => wfPart part
  | .mgmtUnmap part => wfPart part
  | .migrate part => wfPart part
  | .setreg part => wfPart part
  | .shardgrp part => wfPart part
  | .mgmtPeer part => wfPart part
  | .mgmtExport part => wfPart part
  | .hostwin part => wfPart part
  | .mgmtDebug part => wfPart part
  | .attest part => wfPart part
  | .registerWrite part _ _ _ _ => wfPart part
  | .kernelLaunchAdmit _ => true
  | .graphAdmit _ => true
  | .stepMemberStart _ => true
  | .workgroupStart die => wfDie die
  | .resumption die => wfDie die
  | .resumeCheck die => wfDie die
  | .preemptStop _ => true
  | .preemptSave _ => true
  | .contextSwitch _ => true
  | .ptStateSaveDone _ => true
  | .contextReturn _ => true
  | .debugRelease _ => true
  | .workgroupRetire _ => true
  | .levelEnd _ => true
  | .levelCancelApply part => wfPart part
  | .stealRequest die core => wfDie die && wfCore core
  | .stealReply _ => true
  | .stealArrive _ => true
  | .stealAck _ => true
  | .stealBackoff die core => wfDie die && wfCore core
  | .recordCountAck _ => true
  | .holdLapse _ _ core => core < 256
  | .nodeGroupStart die => wfDie die
  | .graphDrainOrder _ => true
  | .translationMiss _ => true
  | .walkComplete _ => true
  | .resolverFinish _ _ => true
  | .translationInvalidate die => wfDie die
  | .migrationLineFetch die _ _ => wfDie die
  | .hbmIdlePrecharge die _ => wfDie die
  | .hbmRefresh die _ => wfDie die
  | .eccError e => e.wf
  | .orderNetworkNotice die => wfDie die
  | .homeRequest _ => true
  | .invalidationReceive _ die => wfDie die
  | .recallReceive _ die => wfDie die
  | .grantReceive _ => true
  | .homeAckReceive _ die => die < 33
  | .writeBackArrival _ => true
  | .lineEviction die core _ => wfDie die && core.all wfCore
  | .regionMerge die _ => wfDie die
  | .rdcCombineFlush die _ => wfDie die
  | .leaseRenewalSend die home => wfDie die && wfDie home
  | .leaseRenewalReceive home die => wfDie home && wfDie die
  | .renewalAckReceive die home => wfDie die && wfDie home
  | .leaseLapse home die => wfDie home && wfDie die
  | .leaseDrop die home => wfDie die && wfDie home
  | .backinvalTimeout _ => true
  | .gatherReceive m => m.wf
  | .dataReceive m => m.wf
  | .deferredReceive m => m.wf
  | .lifeReceive m => m.wf
  | .lostReceive m => m.wf
  | .openReceive m => m.wf
  | .openokReceive m => m.wf
  | .busyReceive m => m.wf
  | .busyResend _ _ member => member < 64
  | .deliverReceive m => m.wf
  | .delackReceive m => m.wf
  | .closeReceive m => m.wf
  | .doneReceive m => m.wf
  | .renewSend _ group => group < 16
  | .renewReceive m => m.wf
  | .memberDead _ group member => group < 16 && member < 64
  | .copyEngineStart _ => true
  | .copyComplete _ => true
  | .receiveCounterSignal _ _ => true
  | .matrixOpPerform pipe => pipe < 1024
  | .tileFillComplete _ => true
  | .laneReply _ => true
  | .storeAck _ => true
  | .variableResultWrite _ trix _ => trix < 16
  | .queueEngineReply _ trix _ => trix < 16
  | .waitmemRecheck _ trix => trix < 16
  | .bowaitRecheck _ trix => trix < 16
  | .powerLoss _ => true
  | .xDieReset x => x < 4

end Sys2Proof
end

