-- ==== Sys2Proof/Decode.lean ====
section
/-! DEFINITION. The decoder of the 96-bit instruction word (R286 to R315), total on any bytes, and the encoder written from
the same tables. A word that fails step 2 of R302 decodes to the table's own row for it, `unassignedOpcode`. -/

namespace Sys2Proof

/-- Why a list of bytes is no instruction: fewer than the 12 bytes of a word (R286). -/
inductive DecodeError where
  | tooShort
  deriving DecidableEq, Repr

/-- The guard and the hints (R289). -/
def decodeCtl (w : IWord) : Ctl :=
  ⟨w.extractLsb' 10 3, w.getLsbD 13, w.extractLsb' 74 4, w.extractLsb' 78 12, w.extractLsb' 90 4, w.getLsbD 94⟩

/-- The attribute field of format M (R297). -/
def decodeAttr (v : BitVec 20) : Attr :=
  ⟨v.extractLsb' 14 6, v.extractLsb' 12 2, v.extractLsb' 8 4, v.extractLsb' 5 3, v.extractLsb' 2 3, v.extractLsb' 0 2⟩

def decodeOForm (w : IWord) : OForm :=
  ⟨decodeCtl w, decodeOperand (w.extractLsb' 14 20), decodeOperand (w.extractLsb' 34 20), decodeOperand (w.extractLsb' 54 20)⟩

def decodeMForm (w : IWord) : MForm :=
  ⟨decodeCtl w, decodeOperand (w.extractLsb' 14 20), decodeOperand (w.extractLsb' 34 20), decodeAttr (w.extractLsb' 54 20)⟩

def decodeCForm (w : IWord) : CForm :=
  ⟨decodeCtl w, decodeOperand (w.extractLsb' 14 20), w.extractLsb' 34 40⟩

/-- The scalar and control group (R307): the instruction of each assigned code, from its operand fields. -/
def decodeS (code : Nat) (f : OForm) (m : MForm) (c : CForm) : Option Instr :=
  match code, f, m, c with
  | 0x001, f, _, _ => some (.sadd f)
  | 0x002, f, _, _ => some (.ssub f)
  | 0x003, f, _, _ => some (.smul f)
  | 0x004, f, _, _ => some (.smulh false f)
  | 0x005, f, _, _ => some (.smulh true f)
  | 0x006, f, _, _ => some (.sdiv false f)
  | 0x007, f, _, _ => some (.sdiv true f)
  | 0x008, f, _, _ => some (.srem false f)
  | 0x009, f, _, _ => some (.srem true f)
  | 0x00A, f, _, _ => some (.sand f)
  | 0x00B, f, _, _ => some (.sor f)
  | 0x00C, f, _, _ => some (.sxor f)
  | 0x00D, f, _, _ => some (.sshl f)
  | 0x00E, f, _, _ => some (.sshr f)
  | 0x00F, f, _, _ => some (.ssra f)
  | 0x010, f, _, _ => some (.smin false f)
  | 0x011, f, _, _ => some (.smin true f)
  | 0x012, f, _, _ => some (.smax false f)
  | 0x013, f, _, _ => some (.smax true f)
  | 0x014, f, _, _ => some (.scmp f)
  | 0x015, f, _, _ => some (.ssel f)
  | 0x016, f, _, _ => some (.smov f)
  | 0x017, f, _, _ => some (.smovh f)
  | 0x018, _, m, _ => some (.sld m)
  | 0x019, _, m, _ => some (.sst m)
  | 0x020, _, _, c => some (.br c)
  | 0x021, _, _, c => some (.brz c)
  | 0x022, _, _, c => some (.brnz c)
  | 0x023, _, _, c => some (.bany c)
  | 0x024, _, _, c => some (.ball c)
  | 0x025, _, _, c => some (.bnone c)
  | 0x026, _, _, c => some (.call c)
  | 0x027, f, _, _ => some (.ret f)
  | 0x028, f, _, _ => some (.jmp f)
  | 0x029, f, _, _ => some (.exit f)
  | 0x02A, f, _, _ => some (.yield f)
  | 0x02B, f, _, _ => some (.nop f)
  | 0x040, f, _, _ => some (.pand f)
  | 0x041, f, _, _ => some (.por f)
  | 0x042, f, _, _ => some (.pxor f)
  | 0x043, f, _, _ => some (.pnot f)
  | 0x044, f, _, _ => some (.pmov f)
  | 0x045, f, _, _ => some (.pcnt f)
  | 0x046, f, _, _ => some (.pfirst f)
  | 0x047, f, _, _ => some (.pfroms f)
  | 0x048, f, _, _ => some (.ptos f)
  | _, _, _, _ => none

/-- The vector integer and bit group (R308): the instruction of each assigned code, from its operand fields. -/
def decodeV (code : Nat) (f : OForm) (m : MForm) (c : CForm) : Option Instr :=
  match code, f, m, c with
  | 0x080, f, _, _ => some (.vadd f)
  | 0x081, f, _, _ => some (.vsub f)
  | 0x082, f, _, _ => some (.vadds false f)
  | 0x083, f, _, _ => some (.vadds true f)
  | 0x084, f, _, _ => some (.vsubs false f)
  | 0x085, f, _, _ => some (.vsubs true f)
  | 0x086, f, _, _ => some (.vaddc f)
  | 0x087, f, _, _ => some (.vmul f)
  | 0x088, f, _, _ => some (.vmulh false f)
  | 0x089, f, _, _ => some (.vmulh true f)
  | 0x08A, f, _, _ => some (.vmad f)
  | 0x08B, f, _, _ => some (.vdiv false f)
  | 0x08C, f, _, _ => some (.vdiv true f)
  | 0x08D, f, _, _ => some (.vrem false f)
  | 0x08E, f, _, _ => some (.vrem true f)
  | 0x08F, f, _, _ => some (.vand f)
  | 0x090, f, _, _ => some (.vor f)
  | 0x091, f, _, _ => some (.vxor f)
  | 0x092, f, _, _ => some (.vnot f)
  | 0x093, f, _, _ => some (.vshl f)
  | 0x094, f, _, _ => some (.vshr f)
  | 0x095, f, _, _ => some (.vsra f)
  | 0x096, f, _, _ => some (.vmin false f)
  | 0x097, f, _, _ => some (.vmin true f)
  | 0x098, f, _, _ => some (.vmax false f)
  | 0x099, f, _, _ => some (.vmax true f)
  | 0x09A, f, _, _ => some (.vabs f)
  | 0x09B, f, _, _ => some (.vneg f)
  | 0x09C, f, _, _ => some (.vcmp f)
  | 0x09D, f, _, _ => some (.vsel f)
  | 0x09E, f, _, _ => some (.vmov f)
  | 0x09F, f, _, _ => some (.vmovh f)
  | 0x0A0, f, _, _ => some (.vlane f)
  | 0x0A1, f, _, _ => some (.vscan f)
  | 0x0A2, f, _, _ => some (.vred f)
  | 0x0A3, f, _, _ => some (.vmatch f)
  | 0x0C0, f, _, _ => some (.vbfe false f)
  | 0x0C1, f, _, _ => some (.vbfe true f)
  | 0x0C2, f, _, _ => some (.vbfi f)
  | 0x0C3, f, _, _ => some (.vpop f)
  | 0x0C4, f, _, _ => some (.vclz f)
  | 0x0C5, f, _, _ => some (.vctz f)
  | 0x0C6, f, _, _ => some (.vbrev f)
  | 0x0C7, f, _, _ => some (.vfunnel f)
  | 0x0C8, f, _, _ => some (.vbperm f)
  | _, _, _, _ => none

/-- The floating-point group (R309): the instruction of each assigned code, from its operand fields. -/
def decodeF (code : Nat) (f : OForm) (m : MForm) (c : CForm) : Option Instr :=
  match code, f, m, c with
  | 0x100, f, _, _ => some (.fadd .f32 f)
  | 0x101, f, _, _ => some (.fadd .f16 f)
  | 0x102, f, _, _ => some (.fadd .bf16 f)
  | 0x103, f, _, _ => some (.fadd .f16x2 f)
  | 0x104, f, _, _ => some (.fadd .bf16x2 f)
  | 0x108, f, _, _ => some (.fsub .f32 f)
  | 0x109, f, _, _ => some (.fsub .f16 f)
  | 0x10A, f, _, _ => some (.fsub .bf16 f)
  | 0x10B, f, _, _ => some (.fsub .f16x2 f)
  | 0x10C, f, _, _ => some (.fsub .bf16x2 f)
  | 0x110, f, _, _ => some (.fmul .f32 f)
  | 0x111, f, _, _ => some (.fmul .f16 f)
  | 0x112, f, _, _ => some (.fmul .bf16 f)
  | 0x113, f, _, _ => some (.fmul .f16x2 f)
  | 0x114, f, _, _ => some (.fmul .bf16x2 f)
  | 0x118, f, _, _ => some (.ffma .f32 f)
  | 0x119, f, _, _ => some (.ffma .f16 f)
  | 0x11A, f, _, _ => some (.ffma .bf16 f)
  | 0x11B, f, _, _ => some (.ffma .f16x2 f)
  | 0x11C, f, _, _ => some (.ffma .bf16x2 f)
  | 0x120, f, _, _ => some (.ffms .f32 f)
  | 0x121, f, _, _ => some (.ffms .f16 f)
  | 0x122, f, _, _ => some (.ffms .bf16 f)
  | 0x123, f, _, _ => some (.ffms .f16x2 f)
  | 0x124, f, _, _ => some (.ffms .bf16x2 f)
  | 0x128, f, _, _ => some (.fnma .f32 f)
  | 0x129, f, _, _ => some (.fnma .f16 f)
  | 0x12A, f, _, _ => some (.fnma .bf16 f)
  | 0x12B, f, _, _ => some (.fnma .f16x2 f)
  | 0x12C, f, _, _ => some (.fnma .bf16x2 f)
  | 0x130, f, _, _ => some (.fnms .f32 f)
  | 0x131, f, _, _ => some (.fnms .f16 f)
  | 0x132, f, _, _ => some (.fnms .bf16 f)
  | 0x133, f, _, _ => some (.fnms .f16x2 f)
  | 0x134, f, _, _ => some (.fnms .bf16x2 f)
  | 0x138, f, _, _ => some (.fmin .f32 f)
  | 0x139, f, _, _ => some (.fmin .f16 f)
  | 0x13A, f, _, _ => some (.fmin .bf16 f)
  | 0x13B, f, _, _ => some (.fmin .f16x2 f)
  | 0x13C, f, _, _ => some (.fmin .bf16x2 f)
  | 0x140, f, _, _ => some (.fmax .f32 f)
  | 0x141, f, _, _ => some (.fmax .f16 f)
  | 0x142, f, _, _ => some (.fmax .bf16 f)
  | 0x143, f, _, _ => some (.fmax .f16x2 f)
  | 0x144, f, _, _ => some (.fmax .bf16x2 f)
  | 0x148, f, _, _ => some (.fabs .f32 f)
  | 0x149, f, _, _ => some (.fabs .f16 f)
  | 0x14A, f, _, _ => some (.fabs .bf16 f)
  | 0x14B, f, _, _ => some (.fabs .f16x2 f)
  | 0x14C, f, _, _ => some (.fabs .bf16x2 f)
  | 0x150, f, _, _ => some (.fneg .f32 f)
  | 0x151, f, _, _ => some (.fneg .f16 f)
  | 0x152, f, _, _ => some (.fneg .bf16 f)
  | 0x153, f, _, _ => some (.fneg .f16x2 f)
  | 0x154, f, _, _ => some (.fneg .bf16x2 f)
  | 0x158, f, _, _ => some (.fcmp f)
  | 0x159, f, _, _ => some (.fclass f)
  | 0x15A, f, _, _ => some (.fround f)
  | 0x15B, f, _, _ => some (.fcvt f)
  | 0x15C, f, _, _ => some (.fcvtn f)
  | 0x15D, f, _, _ => some (.fpack f)
  | 0x15E, f, _, _ => some (.fscale f)
  | 0x160, f, _, _ => some (.fdiv f)
  | 0x161, f, _, _ => some (.fsqrt f)
  | 0x162, f, _, _ => some (.frcp f)
  | 0x163, f, _, _ => some (.frsq f)
  | 0x164, f, _, _ => some (.fexp2 f)
  | 0x165, f, _, _ => some (.flog2 f)
  | 0x166, f, _, _ => some (.fsin f)
  | 0x167, f, _, _ => some (.fcos f)
  | 0x168, f, _, _ => some (.fdot2 false f)
  | 0x169, f, _, _ => some (.fdot2 true f)
  | _, _, _, _ => none

/-- The variable-precision group (R310): the instruction of each assigned code, from its operand fields. -/
def decodeP (code : Nat) (f : OForm) (m : MForm) (c : CForm) : Option Instr :=
  match code, f, m, c with
  | 0x180, f, _, _ => some (.vpadd .w1 f)
  | 0x181, f, _, _ => some (.vpadd .w2 f)
  | 0x182, f, _, _ => some (.vpadd .w3 f)
  | 0x183, f, _, _ => some (.vpadd .w4 f)
  | 0x184, f, _, _ => some (.vpsub .w1 f)
  | 0x185, f, _, _ => some (.vpsub .w2 f)
  | 0x186, f, _, _ => some (.vpsub .w3 f)
  | 0x187, f, _, _ => some (.vpsub .w4 f)
  | 0x188, f, _, _ => some (.vpmul .w1 f)
  | 0x189, f, _, _ => some (.vpmul .w2 f)
  | 0x18A, f, _, _ => some (.vpmul .w3 f)
  | 0x18B, f, _, _ => some (.vpmul .w4 f)
  | 0x18C, f, _, _ => some (.vpfma .w1 f)
  | 0x18D, f, _, _ => some (.vpfma .w2 f)
  | 0x18E, f, _, _ => some (.vpfma .w3 f)
  | 0x18F, f, _, _ => some (.vpfma .w4 f)
  | 0x190, f, _, _ => some (.vpdiv .w1 f)
  | 0x191, f, _, _ => some (.vpdiv .w2 f)
  | 0x192, f, _, _ => some (.vpdiv .w3 f)
  | 0x193, f, _, _ => some (.vpdiv .w4 f)
  | 0x194, f, _, _ => some (.vpsqrt .w1 f)
  | 0x195, f, _, _ => some (.vpsqrt .w2 f)
  | 0x196, f, _, _ => some (.vpsqrt .w3 f)
  | 0x197, f, _, _ => some (.vpsqrt .w4 f)
  | 0x198, f, _, _ => some (.vpcmp .w1 f)
  | 0x199, f, _, _ => some (.vpcmp .w2 f)
  | 0x19A, f, _, _ => some (.vpcmp .w3 f)
  | 0x19B, f, _, _ => some (.vpcmp .w4 f)
  | 0x19C, f, _, _ => some (.vpcvt .w1 f)
  | 0x19D, f, _, _ => some (.vpcvt .w2 f)
  | 0x19E, f, _, _ => some (.vpcvt .w3 f)
  | 0x19F, f, _, _ => some (.vpcvt .w4 f)
  | 0x1A0, f, _, _ => some (.vpround .w1 f)
  | 0x1A1, f, _, _ => some (.vpround .w2 f)
  | 0x1A2, f, _, _ => some (.vpround .w3 f)
  | 0x1A3, f, _, _ => some (.vpround .w4 f)
  | 0x1A4, _, m, _ => some (.vpld .w1 m)
  | 0x1A5, _, m, _ => some (.vpld .w2 m)
  | 0x1A6, _, m, _ => some (.vpld .w3 m)
  | 0x1A7, _, m, _ => some (.vpld .w4 m)
  | 0x1A8, _, m, _ => some (.vpst .w1 m)
  | 0x1A9, _, m, _ => some (.vpst .w2 m)
  | 0x1AA, _, m, _ => some (.vpst .w3 m)
  | 0x1AB, _, m, _ => some (.vpst .w4 m)
  | 0x1AC, f, _, _ => some (.vpexp .w1 f)
  | 0x1AD, f, _, _ => some (.vpexp .w2 f)
  | 0x1AE, f, _, _ => some (.vpexp .w3 f)
  | 0x1AF, f, _, _ => some (.vpexp .w4 f)
  | 0x1B0, f, _, _ => some (.vpsetl f)
  | 0x1B1, f, _, _ => some (.vpgetl f)
  | _, _, _, _ => none

/-- The memory and atomic group (R311): the instruction of each assigned code, from its operand fields. -/
def decodeM (code : Nat) (f : OForm) (m : MForm) (c : CForm) : Option Instr :=
  match code, f, m, c with
  | 0x1C0, _, m, _ => some (.ld m)
  | 0x1C1, _, m, _ => some (.st m)
  | 0x1C2, _, m, _ => some (.ldsp m)
  | 0x1C3, _, m, _ => some (.stsp m)
  | 0x1C4, _, m, _ => some (.tld m)
  | 0x1C5, _, m, _ => some (.tst m)
  | 0x1C8, f, _, _ => some (.waitac f)
  | 0x1C9, _, m, _ => some (.waitmem m)
  | 0x1CA, _, m, _ => some (.fence m)
  | 0x1CB, f, _, _ => some (.phadv f)
  | 0x1CC, f, _, _ => some (.phwait f)
  | 0x1CD, f, _, _ => some (.cwb f)
  | 0x1CE, f, _, _ => some (.cinv f)
  | 0x1CF, f, _, _ => some (.cinvd f)
  | 0x1D0, _, m, _ => some (.cpf m)
  | 0x200, _, m, _ => some (.atomAdd .int m)
  | 0x201, _, m, _ => some (.atomSub .int m)
  | 0x202, _, m, _ => some (.atomMin .int m)
  | 0x203, _, m, _ => some (.atomMin .uint m)
  | 0x204, _, m, _ => some (.atomMax .int m)
  | 0x205, _, m, _ => some (.atomMax .uint m)
  | 0x206, _, m, _ => some (.atomAnd m)
  | 0x207, _, m, _ => some (.atomOr m)
  | 0x208, _, m, _ => some (.atomXor m)
  | 0x209, _, m, _ => some (.atomXchg m)
  | 0x20A, _, m, _ => some (.atomCas m)
  | 0x20B, _, m, _ => some (.atomInc m)
  | 0x20C, _, m, _ => some (.atomDec m)
  | 0x210, _, m, _ => some (.atomAdd .f32 m)
  | 0x211, _, m, _ => some (.atomMin .f32 m)
  | 0x212, _, m, _ => some (.atomMax .f32 m)
  | 0x213, _, m, _ => some (.atomSub .f32 m)
  | 0x214, _, m, _ => some (.atomAdd .bf16x2 m)
  | 0x215, _, m, _ => some (.atomSub .bf16x2 m)
  | 0x216, _, m, _ => some (.atomMin .bf16x2 m)
  | 0x217, _, m, _ => some (.atomMax .bf16x2 m)
  | 0x218, _, m, _ => some (.atomAdd .f16x2 m)
  | 0x219, _, m, _ => some (.atomSub .f16x2 m)
  | 0x21A, _, m, _ => some (.atomMin .f16x2 m)
  | 0x21B, _, m, _ => some (.atomMax .f16x2 m)
  | 0x23E, f, _, _ => some (.shflush f)
  | _, _, _, _ => none

/-- The barrier, copy, tag and network group (R312): the instruction of each assigned code, from its operand fields. -/
def decodeB (code : Nat) (f : OForm) (m : MForm) (c : CForm) : Option Instr :=
  match code, f, m, c with
  | 0x240, f, _, _ => some (.barw f)
  | 0x241, f, _, _ => some (.barr f)
  | 0x242, f, _, _ => some (.barwt f)
  | 0x243, f, _, _ => some (.barinit f)
  | 0x244, f, _, _ => some (.barinval f)
  | 0x248, _, m, _ => some (.bosig m)
  | 0x249, _, m, _ => some (.bowait m)
  | 0x250, f, _, _ => some (.cpy f)
  | 0x258, f, _, _ => some (.tagwany f)
  | 0x259, f, _, _ => some (.tagwall f)
  | 0x25A, f, _, _ => some (.tagfirst f)
  | 0x25B, f, _, _ => some (.tagclr f)
  | 0x260, f, _, _ => some (.arm f)
  | 0x261, f, _, _ => some (.rcnt f)
  | 0x262, f, _, _ => some (.rcntadd f)
  | 0x268, f, _, _ => some (.bget f)
  | 0x269, f, _, _ => some (.bgive f)
  | 0x26A, f, _, _ => some (.bfree f)
  | _, _, _, _ => none

/-- The matrix group (R313): the instruction of each assigned code, from its operand fields. -/
def decodeX (code : Nat) (f : OForm) (m : MForm) (c : CForm) : Option Instr :=
  match code, f, m, c with
  | 0x280, f, _, _ => some (.mma .e2m1 f)
  | 0x281, f, _, _ => some (.mma .e4m3 f)
  | 0x282, f, _, _ => some (.mma .e5m2 f)
  | 0x283, f, _, _ => some (.mma .i8 f)
  | 0x284, f, _, _ => some (.mma .bf16 f)
  | 0x285, f, _, _ => some (.mma .f16 f)
  | 0x288, f, _, _ => some (.mmaSp .e2m1 f)
  | 0x289, f, _, _ => some (.mmaSp .e4m3 f)
  | 0x28A, f, _, _ => some (.mmaSp .e5m2 f)
  | 0x28B, f, _, _ => some (.mmaSp .i8 f)
  | 0x28C, f, _, _ => some (.mmaSp .bf16 f)
  | 0x28D, f, _, _ => some (.mmaSp .f16 f)
  | 0x290, _, m, _ => some (.mldb m)
  | 0x291, f, _, _ => some (.mrdy f)
  | 0x292, f, _, _ => some (.mfence f)
  | 0x293, f, _, _ => some (.mwait f)
  | 0x294, f, _, _ => some (.mwaitT f)
  | 0x295, f, _, _ => some (.mclr f)
  | 0x296, f, _, _ => some (.mbscale f)
  | _, _, _, _ => none

/-- The graph, task and system groups (R314, R315): the instruction of each assigned code, from its operand fields. -/
def decodeG (code : Nat) (f : OForm) (m : MForm) (c : CForm) : Option Instr :=
  match code, f, m, c with
  | 0x2C0, f, _, _ => some (.remit f)
  | 0x2C1, f, _, _ => some (.tenq f)
  | 0x2C2, f, _, _ => some (.tdeq f)
  | 0x2C3, _, m, _ => some (.depinit m)
  | 0x2C4, _, m, _ => some (.depdec m)
  | 0x2C5, _, m, _ => some (.chunk m)
  | 0x2C6, f, _, _ => some (.lvlid f)
  | 0x2C7, f, _, _ => some (.lvlcancel f)
  | 0x2C8, f, _, _ => some (.gexit f)
  | 0x300, f, _, _ => some (.trap f)
  | 0x301, f, _, _ => some (.tret f)
  | 0x302, f, _, _ => some (.sreg f)
  | 0x303, f, _, _ => some (.swreg f)
  | 0x304, f, _, _ => some (.shrink f)
  | 0x305, f, _, _ => some (.grow f)
  | 0x306, f, _, _ => some (.bkpt f)
  | 0x307, f, _, _ => some (.halt f)
  | 0x308, f, _, _ => some (.faultrd f)
  | 0x309, f, _, _ => some (.pcfgrd f)
  | _, _, _, _ => none

/-- The instruction of an assigned opcode (R305 to R315); none for every other code. -/
def decodeOpcode (code : Nat) (f : OForm) (m : MForm) (c : CForm) : Option Instr :=
  if code < 0x080 then decodeS code f m c
  else if code < 0x100 then decodeV code f m c
  else if code < 0x180 then decodeF code f m c
  else if code < 0x1C0 then decodeP code f m c
  else if code < 0x240 then decodeM code f m c
  else if code < 0x280 then decodeB code f m c
  else if code < 0x2C0 then decodeX code f m c
  else decodeG code f m c

/-- Step 2 of R302, but for the opcode: bit 95 set, or an sflag of 12 to 14 (R142). -/
def badWord (w : IWord) : Bool :=
  w.getLsbD 95 || badSflag (w.extractLsb' 90 4)

/-- The instruction that a 96-bit word holds. -/
def decodeWord (w : IWord) : Instr :=
  if badWord w then .unassignedOpcode w
  else (decodeOpcode (w.extractLsb' 0 10).toNat (decodeOForm w) (decodeMForm w) (decodeCForm w)).getD (.unassignedOpcode w)

/-- Bytes to a number, lowest address first (R286). -/
def leNat : List Byte → Nat
  | [] => 0
  | b :: bs => b.toNat + 256 * leNat bs

/-- The `n` low bytes of a number, lowest first. -/
def natLe : Nat → Nat → List Byte
  | 0, _ => []
  | n + 1, v => BitVec.ofNat 8 v :: natLe n (v / 256)

/-- The instruction at the head of a list of bytes, and the bytes behind it (R286). -/
def decode (bs : List Byte) : Except DecodeError (Instr × List Byte) :=
  if bs.length < 12 then .error .tooShort
  else .ok (decodeWord (BitVec.ofNat 96 (leNat (bs.take 12))), bs.drop 12)

/-! ## The encoder -/

/-- An opcode with the fields of its format. -/
inductive Fields where
  | o (code : Nat) (f : OForm)
  | m (code : Nat) (m : MForm)
  | c (code : Nat) (c : CForm)
  deriving DecidableEq, Repr

/-- The opcode and operand fields of an instruction (R307 to R315); none for a step or event of the device, which has no
word of its own, and for the unassigned words, which are kept whole. -/
def fieldsOf : Instr → Option Fields
  | .sadd f => some (.o 0x001 f)
  | .ssub f => some (.o 0x002 f)
  | .smul f => some (.o 0x003 f)
  | .smulh false f => some (.o 0x004 f)
  | .smulh true f => some (.o 0x005 f)
  | .sdiv false f => some (.o 0x006 f)
  | .sdiv true f => some (.o 0x007 f)
  | .srem false f => some (.o 0x008 f)
  | .srem true f => some (.o 0x009 f)
  | .sand f => some (.o 0x00A f)
  | .sor f => some (.o 0x00B f)
  | .sxor f => some (.o 0x00C f)
  | .sshl f => some (.o 0x00D f)
  | .sshr f => some (.o 0x00E f)
  | .ssra f => some (.o 0x00F f)
  | .smin false f => some (.o 0x010 f)
  | .smin true f => some (.o 0x011 f)
  | .smax false f => some (.o 0x012 f)
  | .smax true f => some (.o 0x013 f)
  | .scmp f => some (.o 0x014 f)
  | .ssel f => some (.o 0x015 f)
  | .smov f => some (.o 0x016 f)
  | .smovh f => some (.o 0x017 f)
  | .sld m => some (.m 0x018 m)
  | .sst m => some (.m 0x019 m)
  | .br c => some (.c 0x020 c)
  | .brz c => some (.c 0x021 c)
  | .brnz c => some (.c 0x022 c)
  | .bany c => some (.c 0x023 c)
  | .ball c => some (.c 0x024 c)
  | .bnone c => some (.c 0x025 c)
  | .call c => some (.c 0x026 c)
  | .ret f => some (.o 0x027 f)
  | .jmp f => some (.o 0x028 f)
  | .exit f => some (.o 0x029 f)
  | .yield f => some (.o 0x02A f)
  | .nop f => some (.o 0x02B f)
  | .pand f => some (.o 0x040 f)
  | .por f => some (.o 0x041 f)
  | .pxor f => some (.o 0x042 f)
  | .pnot f => some (.o 0x043 f)
  | .pmov f => some (.o 0x044 f)
  | .pcnt f => some (.o 0x045 f)
  | .pfirst f => some (.o 0x046 f)
  | .pfroms f => some (.o 0x047 f)
  | .ptos f => some (.o 0x048 f)
  | .vadd f => some (.o 0x080 f)
  | .vsub f => some (.o 0x081 f)
  | .vadds false f => some (.o 0x082 f)
  | .vadds true f => some (.o 0x083 f)
  | .vsubs false f => some (.o 0x084 f)
  | .vsubs true f => some (.o 0x085 f)
  | .vaddc f => some (.o 0x086 f)
  | .vmul f => some (.o 0x087 f)
  | .vmulh false f => some (.o 0x088 f)
  | .vmulh true f => some (.o 0x089 f)
  | .vmad f => some (.o 0x08A f)
  | .vdiv false f => some (.o 0x08B f)
  | .vdiv true f => some (.o 0x08C f)
  | .vrem false f => some (.o 0x08D f)
  | .vrem true f => some (.o 0x08E f)
  | .vand f => some (.o 0x08F f)
  | .vor f => some (.o 0x090 f)
  | .vxor f => some (.o 0x091 f)
  | .vnot f => some (.o 0x092 f)
  | .vshl f => some (.o 0x093 f)
  | .vshr f => some (.o 0x094 f)
  | .vsra f => some (.o 0x095 f)
  | .vmin false f => some (.o 0x096 f)
  | .vmin true f => some (.o 0x097 f)
  | .vmax false f => some (.o 0x098 f)
  | .vmax true f => some (.o 0x099 f)
  | .vabs f => some (.o 0x09A f)
  | .vneg f => some (.o 0x09B f)
  | .vcmp f => some (.o 0x09C f)
  | .vsel f => some (.o 0x09D f)
  | .vmov f => some (.o 0x09E f)
  | .vmovh f => some (.o 0x09F f)
  | .vlane f => some (.o 0x0A0 f)
  | .vscan f => some (.o 0x0A1 f)
  | .vred f => some (.o 0x0A2 f)
  | .vmatch f => some (.o 0x0A3 f)
  | .vbfe false f => some (.o 0x0C0 f)
  | .vbfe true f => some (.o 0x0C1 f)
  | .vbfi f => some (.o 0x0C2 f)
  | .vpop f => some (.o 0x0C3 f)
  | .vclz f => some (.o 0x0C4 f)
  | .vctz f => some (.o 0x0C5 f)
  | .vbrev f => some (.o 0x0C6 f)
  | .vfunnel f => some (.o 0x0C7 f)
  | .vbperm f => some (.o 0x0C8 f)
  | .fadd .f32 f => some (.o 0x100 f)
  | .fadd .f16 f => some (.o 0x101 f)
  | .fadd .bf16 f => some (.o 0x102 f)
  | .fadd .f16x2 f => some (.o 0x103 f)
  | .fadd .bf16x2 f => some (.o 0x104 f)
  | .fsub .f32 f => some (.o 0x108 f)
  | .fsub .f16 f => some (.o 0x109 f)
  | .fsub .bf16 f => some (.o 0x10A f)
  | .fsub .f16x2 f => some (.o 0x10B f)
  | .fsub .bf16x2 f => some (.o 0x10C f)
  | .fmul .f32 f => some (.o 0x110 f)
  | .fmul .f16 f => some (.o 0x111 f)
  | .fmul .bf16 f => some (.o 0x112 f)
  | .fmul .f16x2 f => some (.o 0x113 f)
  | .fmul .bf16x2 f => some (.o 0x114 f)
  | .ffma .f32 f => some (.o 0x118 f)
  | .ffma .f16 f => some (.o 0x119 f)
  | .ffma .bf16 f => some (.o 0x11A f)
  | .ffma .f16x2 f => some (.o 0x11B f)
  | .ffma .bf16x2 f => some (.o 0x11C f)
  | .ffms .f32 f => some (.o 0x120 f)
  | .ffms .f16 f => some (.o 0x121 f)
  | .ffms .bf16 f => some (.o 0x122 f)
  | .ffms .f16x2 f => some (.o 0x123 f)
  | .ffms .bf16x2 f => some (.o 0x124 f)
  | .fnma .f32 f => some (.o 0x128 f)
  | .fnma .f16 f => some (.o 0x129 f)
  | .fnma .bf16 f => some (.o 0x12A f)
  | .fnma .f16x2 f => some (.o 0x12B f)
  | .fnma .bf16x2 f => some (.o 0x12C f)
  | .fnms .f32 f => some (.o 0x130 f)
  | .fnms .f16 f => some (.o 0x131 f)
  | .fnms .bf16 f => some (.o 0x132 f)
  | .fnms .f16x2 f => some (.o 0x133 f)
  | .fnms .bf16x2 f => some (.o 0x134 f)
  | .fmin .f32 f => some (.o 0x138 f)
  | .fmin .f16 f => some (.o 0x139 f)
  | .fmin .bf16 f => some (.o 0x13A f)
  | .fmin .f16x2 f => some (.o 0x13B f)
  | .fmin .bf16x2 f => some (.o 0x13C f)
  | .fmax .f32 f => some (.o 0x140 f)
  | .fmax .f16 f => some (.o 0x141 f)
  | .fmax .bf16 f => some (.o 0x142 f)
  | .fmax .f16x2 f => some (.o 0x143 f)
  | .fmax .bf16x2 f => some (.o 0x144 f)
  | .fabs .f32 f => some (.o 0x148 f)
  | .fabs .f16 f => some (.o 0x149 f)
  | .fabs .bf16 f => some (.o 0x14A f)
  | .fabs .f16x2 f => some (.o 0x14B f)
  | .fabs .bf16x2 f => some (.o 0x14C f)
  | .fneg .f32 f => some (.o 0x150 f)
  | .fneg .f16 f => some (.o 0x151 f)
  | .fneg .bf16 f => some (.o 0x152 f)
  | .fneg .f16x2 f => some (.o 0x153 f)
  | .fneg .bf16x2 f => some (.o 0x154 f)
  | .fcmp f => some (.o 0x158 f)
  | .fclass f => some (.o 0x159 f)
  | .fround f => some (.o 0x15A f)
  | .fcvt f => some (.o 0x15B f)
  | .fcvtn f => some (.o 0x15C f)
  | .fpack f => some (.o 0x15D f)
  | .fscale f => some (.o 0x15E f)
  | .fdiv f => some (.o 0x160 f)
  | .fsqrt f => some (.o 0x161 f)
  | .frcp f => some (.o 0x162 f)
  | .frsq f => some (.o 0x163 f)
  | .fexp2 f => some (.o 0x164 f)
  | .flog2 f => some (.o 0x165 f)
  | .fsin f => some (.o 0x166 f)
  | .fcos f => some (.o 0x167 f)
  | .fdot2 false f => some (.o 0x168 f)
  | .fdot2 true f => some (.o 0x169 f)
  | .vpadd .w1 f => some (.o 0x180 f)
  | .vpadd .w2 f => some (.o 0x181 f)
  | .vpadd .w3 f => some (.o 0x182 f)
  | .vpadd .w4 f => some (.o 0x183 f)
  | .vpsub .w1 f => some (.o 0x184 f)
  | .vpsub .w2 f => some (.o 0x185 f)
  | .vpsub .w3 f => some (.o 0x186 f)
  | .vpsub .w4 f => some (.o 0x187 f)
  | .vpmul .w1 f => some (.o 0x188 f)
  | .vpmul .w2 f => some (.o 0x189 f)
  | .vpmul .w3 f => some (.o 0x18A f)
  | .vpmul .w4 f => some (.o 0x18B f)
  | .vpfma .w1 f => some (.o 0x18C f)
  | .vpfma .w2 f => some (.o 0x18D f)
  | .vpfma .w3 f => some (.o 0x18E f)
  | .vpfma .w4 f => some (.o 0x18F f)
  | .vpdiv .w1 f => some (.o 0x190 f)
  | .vpdiv .w2 f => some (.o 0x191 f)
  | .vpdiv .w3 f => some (.o 0x192 f)
  | .vpdiv .w4 f => some (.o 0x193 f)
  | .vpsqrt .w1 f => some (.o 0x194 f)
  | .vpsqrt .w2 f => some (.o 0x195 f)
  | .vpsqrt .w3 f => some (.o 0x196 f)
  | .vpsqrt .w4 f => some (.o 0x197 f)
  | .vpexp .w1 f => some (.o 0x1AC f)
  | .vpexp .w2 f => some (.o 0x1AD f)
  | .vpexp .w3 f => some (.o 0x1AE f)
  | .vpexp .w4 f => some (.o 0x1AF f)
  | .vpcmp .w1 f => some (.o 0x198 f)
  | .vpcmp .w2 f => some (.o 0x199 f)
  | .vpcmp .w3 f => some (.o 0x19A f)
  | .vpcmp .w4 f => some (.o 0x19B f)
  | .vpcvt .w1 f => some (.o 0x19C f)
  | .vpcvt .w2 f => some (.o 0x19D f)
  | .vpcvt .w3 f => some (.o 0x19E f)
  | .vpcvt .w4 f => some (.o 0x19F f)
  | .vpround .w1 f => some (.o 0x1A0 f)
  | .vpround .w2 f => some (.o 0x1A1 f)
  | .vpround .w3 f => some (.o 0x1A2 f)
  | .vpround .w4 f => some (.o 0x1A3 f)
  | .vpld .w1 m => some (.m 0x1A4 m)
  | .vpld .w2 m => some (.m 0x1A5 m)
  | .vpld .w3 m => some (.m 0x1A6 m)
  | .vpld .w4 m => some (.m 0x1A7 m)
  | .vpst .w1 m => some (.m 0x1A8 m)
  | .vpst .w2 m => some (.m 0x1A9 m)
  | .vpst .w3 m => some (.m 0x1AA m)
  | .vpst .w4 m => some (.m 0x1AB m)
  | .vpsetl f => some (.o 0x1B0 f)
  | .vpgetl f => some (.o 0x1B1 f)
  | .ld m => some (.m 0x1C0 m)
  | .st m => some (.m 0x1C1 m)
  | .ldsp m => some (.m 0x1C2 m)
  | .stsp m => some (.m 0x1C3 m)
  | .tld m => some (.m 0x1C4 m)
  | .tst m => some (.m 0x1C5 m)
  | .waitac f => some (.o 0x1C8 f)
  | .waitmem m => some (.m 0x1C9 m)
  | .fence m => some (.m 0x1CA m)
  | .phadv f => some (.o 0x1CB f)
  | .phwait f => some (.o 0x1CC f)
  | .cwb f => some (.o 0x1CD f)
  | .cinv f => some (.o 0x1CE f)
  | .cinvd f => some (.o 0x1CF f)
  | .cpf m => some (.m 0x1D0 m)
  | .shflush f => some (.o 0x23E f)
  | .atomAdd .int m => some (.m 0x200 m)
  | .atomAdd .f32 m => some (.m 0x210 m)
  | .atomAdd .bf16x2 m => some (.m 0x214 m)
  | .atomAdd .f16x2 m => some (.m 0x218 m)
  | .atomAdd .uint _ => none
  | .atomSub .int m => some (.m 0x201 m)
  | .atomSub .f32 m => some (.m 0x213 m)
  | .atomSub .bf16x2 m => some (.m 0x215 m)
  | .atomSub .f16x2 m => some (.m 0x219 m)
  | .atomSub .uint _ => none
  | .atomMin .int m => some (.m 0x202 m)
  | .atomMin .uint m => some (.m 0x203 m)
  | .atomMin .f32 m => some (.m 0x211 m)
  | .atomMin .bf16x2 m => some (.m 0x216 m)
  | .atomMin .f16x2 m => some (.m 0x21A m)
  | .atomMax .int m => some (.m 0x204 m)
  | .atomMax .uint m => some (.m 0x205 m)
  | .atomMax .f32 m => some (.m 0x212 m)
  | .atomMax .bf16x2 m => some (.m 0x217 m)
  | .atomMax .f16x2 m => some (.m 0x21B m)
  | .atomAnd m => some (.m 0x206 m)
  | .atomOr m => some (.m 0x207 m)
  | .atomXor m => some (.m 0x208 m)
  | .atomXchg m => some (.m 0x209 m)
  | .atomCas m => some (.m 0x20A m)
  | .atomInc m => some (.m 0x20B m)
  | .atomDec m => some (.m 0x20C m)
  | .barw f => some (.o 0x240 f)
  | .barr f => some (.o 0x241 f)
  | .barwt f => some (.o 0x242 f)
  | .barinit f => some (.o 0x243 f)
  | .barinval f => some (.o 0x244 f)
  | .bosig m => some (.m 0x248 m)
  | .bowait m => some (.m 0x249 m)
  | .cpy f => some (.o 0x250 f)
  | .arm f => some (.o 0x260 f)
  | .tagwany f => some (.o 0x258 f)
  | .tagwall f => some (.o 0x259 f)
  | .tagfirst f => some (.o 0x25A f)
  | .tagclr f => some (.o 0x25B f)
  | .rcnt f => some (.o 0x261 f)
  | .rcntadd f => some (.o 0x262 f)
  | .bget f => some (.o 0x268 f)
  | .bgive f => some (.o 0x269 f)
  | .bfree f => some (.o 0x26A f)
  | .mma .e2m1 f => some (.o 0x280 f)
  | .mma .e4m3 f => some (.o 0x281 f)
  | .mma .e5m2 f => some (.o 0x282 f)
  | .mma .i8 f => some (.o 0x283 f)
  | .mma .bf16 f => some (.o 0x284 f)
  | .mma .f16 f => some (.o 0x285 f)
  | .mmaSp .e2m1 f => some (.o 0x288 f)
  | .mmaSp .e4m3 f => some (.o 0x289 f)
  | .mmaSp .e5m2 f => some (.o 0x28A f)
  | .mmaSp .i8 f => some (.o 0x28B f)
  | .mmaSp .bf16 f => some (.o 0x28C f)
  | .mmaSp .f16 f => some (.o 0x28D f)
  | .mldb m => some (.m 0x290 m)
  | .mrdy f => some (.o 0x291 f)
  | .mfence f => some (.o 0x292 f)
  | .mwait f => some (.o 0x293 f)
  | .mwaitT f => some (.o 0x294 f)
  | .mclr f => some (.o 0x295 f)
  | .mbscale f => some (.o 0x296 f)
  | .remit f => some (.o 0x2C0 f)
  | .tenq f => some (.o 0x2C1 f)
  | .tdeq f => some (.o 0x2C2 f)
  | .depinit m => some (.m 0x2C3 m)
  | .depdec m => some (.m 0x2C4 m)
  | .chunk m => some (.m 0x2C5 m)
  | .lvlid f => some (.o 0x2C6 f)
  | .lvlcancel f => some (.o 0x2C7 f)
  | .gexit f => some (.o 0x2C8 f)
  | .trap f => some (.o 0x300 f)
  | .tret f => some (.o 0x301 f)
  | .sreg f => some (.o 0x302 f)
  | .swreg f => some (.o 0x303 f)
  | .shrink f => some (.o 0x304 f)
  | .grow f => some (.o 0x305 f)
  | .bkpt f => some (.o 0x306 f)
  | .halt f => some (.o 0x307 f)
  | .faultrd f => some (.o 0x308 f)
  | .pcfgrd f => some (.o 0x309 f)
  | .unassignedOpcode _ => none
  | .instructionFetchFault _ => none
  | .powerOn => none
  | .moduleReset => none
  | .dieReset _ => none
  | .resetBroadcast _ => none
  | .packetArrival _ => none
  | .responseArrival _ => none
  | .nackResend _ _ => none
  | .escapeMove _ => none
  | .linkFailure _ _ => none
  | .linkUp _ _ => none
  | .linkStateNotice _ _ => none
  | .linkStateAck _ _ => none
  | .settledNotice _ _ => none
  | .completionTimeout _ => none
  | .fabricPortFailure _ => none
  | .peerRequest _ => none
  | .ethernetPortDown _ => none
  | .ethReadRequest _ _ => none
  | .cxlLinkLoss _ => none
  | .cxlRetrainDone _ => none
  | .hostWindowAccess _ _ => none
  | .mgmtPortRequest _ => none
  | .energyCredit _ => none
  | .energyAdmit _ => none
  | .mailboxSend _ _ _ => none
  | .mailboxReceive _ _ => none
  | .mailboxRemoteDeliver _ => none
  | .jqnotifyWrite _ _ _ _ => none
  | .jqctlEnSet _ _ _ _ => none
  | .jqctlEnClear _ _ _ _ => none
  | .jqctlErrClear _ _ _ _ => none
  | .jqConfigWrite _ _ _ _ _ => none
  | .parserReadPacket _ _ => none
  | .jobNoop _ => none
  | .jobGraph _ => none
  | .jobStep _ => none
  | .jobWait _ => none
  | .waitPacketRecheck _ => none
  | .jobCancel _ => none
  | .mqsubmitWrite _ _ _ => none
  | .mqdoneClear _ _ _ => none
  | .ctxcreate _ => none
  | .ctxdestroy _ => none
  | .mgmtMap _ => none
  | .mgmtUnmap _ => none
  | .migrate _ => none
  | .setreg _ => none
  | .shardgrp _ => none
  | .mgmtPeer _ => none
  | .mgmtExport _ => none
  | .hostwin _ => none
  | .mgmtDebug _ => none
  | .attest _ => none
  | .registerWrite _ _ _ _ _ => none
  | .kernelLaunchAdmit _ => none
  | .graphAdmit _ => none
  | .stepMemberStart _ => none
  | .workgroupStart _ => none
  | .resumption _ => none
  | .resumeCheck _ => none
  | .preemptStop _ => none
  | .preemptSave _ => none
  | .contextSwitch _ => none
  | .ptStateSaveDone _ => none
  | .contextReturn _ => none
  | .debugRelease _ => none
  | .workgroupRetire _ => none
  | .levelEnd _ => none
  | .levelCancelApply _ => none
  | .stealRequest _ _ => none
  | .stealReply _ => none
  | .stealArrive _ => none
  | .stealAck _ => none
  | .stealBackoff _ _ => none
  | .recordCountAck _ => none
  | .holdLapse _ _ _ => none
  | .nodeGroupStart _ => none
  | .graphDrainOrder _ => none
  | .translationMiss _ => none
  | .walkComplete _ => none
  | .resolverFinish _ _ => none
  | .translationInvalidate _ => none
  | .migrationLineFetch _ _ _ => none
  | .hbmIdlePrecharge _ _ => none
  | .hbmRefresh _ _ => none
  | .eccError _ => none
  | .orderNetworkNotice _ => none
  | .homeRequest _ => none
  | .invalidationReceive _ _ => none
  | .recallReceive _ _ => none
  | .grantReceive _ => none
  | .homeAckReceive _ _ => none
  | .writeBackArrival _ => none
  | .lineEviction _ _ _ => none
  | .regionMerge _ _ => none
  | .rdcCombineFlush _ _ => none
  | .leaseRenewalSend _ _ => none
  | .leaseRenewalReceive _ _ => none
  | .renewalAckReceive _ _ => none
  | .leaseLapse _ _ => none
  | .leaseDrop _ _ => none
  | .backinvalTimeout _ => none
  | .gatherReceive _ => none
  | .dataReceive _ => none
  | .deferredReceive _ => none
  | .lifeReceive _ => none
  | .lostReceive _ => none
  | .openReceive _ => none
  | .openokReceive _ => none
  | .busyReceive _ => none
  | .busyResend _ _ _ => none
  | .deliverReceive _ => none
  | .delackReceive _ => none
  | .closeReceive _ => none
  | .doneReceive _ => none
  | .renewSend _ _ => none
  | .renewReceive _ => none
  | .memberDead _ _ _ => none
  | .copyEngineStart _ => none
  | .copyComplete _ => none
  | .receiveCounterSignal _ _ => none
  | .matrixOpPerform _ => none
  | .tileFillComplete _ => none
  | .laneReply _ => none
  | .storeAck _ => none
  | .variableResultWrite _ _ _ => none
  | .queueEngineReply _ _ _ => none
  | .waitmemRecheck _ _ => none
  | .bowaitRecheck _ _ => none
  | .powerLoss _ => none
  | .xDieReset _ => none

def encodeAttr (a : Attr) : BitVec 20 :=
  a.ofs ++ (a.ord ++ (a.ac ++ (a.size ++ (a.scope ++ a.pol))))

/-- A word from its fields, the highest first (R289). -/
def encodeFields (code : Nat) (c : Ctl) (d a b : BitVec 20) : IWord :=
  0#1 ++ (BitVec.ofBool c.yld ++ (c.sflag ++ (c.wmask ++ (c.dist ++ (b ++ (a ++ (d ++ (BitVec.ofBool c.neg ++
    (c.guard ++ BitVec.ofNat 10 code)))))))))

/-- The word of a set of fields (R289, R296, R300). -/
def encodeForm : Fields → IWord
  | .o code f => encodeFields code f.c (encodeOperand f.d) (encodeOperand f.a) (encodeOperand f.b)
  | .m code m => encodeFields code m.c (encodeOperand m.d) (encodeOperand m.a) (encodeAttr m.attr)
  | .c code c => encodeFields code c.c (encodeOperand c.d) (c.off.extractLsb' 0 20) (c.off.extractLsb' 20 20)

/-- The word of an instruction, where it has one. -/
def encode (i : Instr) : Option IWord :=
  match i with
  | .unassignedOpcode w => some w
  | i => (fieldsOf i).map encodeForm

/-- The bytes of an instruction in memory (R286). -/
def encodeBytes (i : Instr) : Option (List Byte) :=
  (encode i).map fun w => natLe 12 w.toNat

/-- The instruction that the decoder reads from a word of `nbits` bits numbered as spec/opcode_table.json numbers them; the
bits above are 0 up to the 96 of an instruction. -/
def decodeTableWord (nbits w : Nat) : Option Instr :=
  match decode (natLe 12 (w % 2 ^ nbits)) with
  | .ok (i, _) => some i
  | .error _ => none

end Sys2Proof
end

