-- ==== Sys2Proof/Machine/Bits.lean ====
section
/-! DEFINITION. Masks and lanes: the small functions on bits, lists and lanes that every meaning uses. -/

namespace Sys2Proof.Machine

/-- A number whose bit l, for l below n, is `f l`. -/
def maskNat (f : Nat → Bool) : Nat → Nat
  | 0 => 0
  | n + 1 => maskNat f n + (if f n then 2 ^ n else 0)

/-- The mask whose lane l is `f l`. -/
def maskOf (f : Nat → Bool) : Mask := BitVec.ofNat 96 (maskNat f 96)

/-- One value per lane. -/
def lanesOf (f : Nat → Word) : Lanes := (List.range 96).map f

/-- The value of lane l. -/
def lane (v : Lanes) (l : Nat) : Word := v.getD l 0

/-- `old` with the lanes of `m` taken from `new` (R126). -/
def mergeLanes (m : Mask) (old new : Lanes) : Lanes :=
  lanesOf fun l => if m.getLsbD l then lane new l else lane old l

/-- The lanes of a mask in ascending order. -/
def lanesIn (m : Mask) : List Nat := (List.range 96).filter fun l => m.getLsbD l

/-- The lowest lane of a mask. -/
def lowest (m : Mask) : Option Nat := (List.range 96).find? fun l => m.getLsbD l

/-- The number of set bits. -/
def popcount {w : Nat} (x : BitVec w) : Nat := ((List.range w).filter fun i => x.getLsbD i).length

/-- The set bits, lowest first. -/
def setBits {w : Nat} (x : BitVec w) : List Nat := (List.range w).filter fun i => x.getLsbD i

/-- The first of n numbers from i up, taken mod m, that meets a test. -/
def firstFrom (ok : Nat → Bool) (m : Nat) : Nat → Nat → Option Nat
  | 0, _ => none
  | n + 1, i => if ok (i % m) then some (i % m) else firstFrom ok m n (i + 1)

/-- `l` with its element i changed by `f`. -/
def modAt {α : Type} (l : List α) (i : Nat) (f : α → α) : List α := l.modify i f

/-- `l` with every element that meets `p` changed by `f`. -/
def modWhere {α : Type} (l : List α) (p : α → Bool) (f : α → α) : List α := l.map fun x => if p x then f x else x

/-- The two's-complement value. -/
def sint (x : Word) : Int := x.toInt

/-- A word from an exact integer, mod 2^32. -/
def wordOf (x : Int) : Word := BitVec.ofInt 32 x

/-- A field [hi:lo] of a 64-bit register. -/
def fieldD (x : DWord) (hi lo : Nat) : Nat := x.toNat / 2 ^ lo % 2 ^ (hi + 1 - lo)

/-- A saturating count of 16 bits. -/
def satInc (x : BitVec 16) : BitVec 16 := if x = 0xFFFF#16 then x else x + 1

/-- The low and high words of a 64-bit value. -/
def loW (x : DWord) : Word := x.extractLsb' 0 32
def hiW (x : DWord) : Word := x.extractLsb' 32 32

/-- {hi, lo}. -/
def pairW (lo hi : Word) : DWord := hi ++ lo

/-- A little-endian number from bytes, and bytes n..n+k-1 of a list. -/
def leAt (b : List Byte) (n k : Nat) : Nat := leNat ((b.drop n).take k)

/-- The greatest of a list of numbers, 0 for none. -/
def maxOf (l : List Nat) : Nat := l.foldl max 0

/-- ceil(a / b). -/
def cdiv (a b : Nat) : Nat := (a + b - 1) / b

end Sys2Proof.Machine
end

