-- ==== Sys2Proof/Machine/State.lean ====
section
/-! DEFINITION. The state of the P960 as plain data: every piece of state the manual gives the device, the outcomes of a step,
and the state after reset. Collections whose members come and go are lists in which absence means the reset value. -/

namespace Sys2Proof.Machine

/-! ## Codes of fields -/

/-- The policies of R203. -/
inductive Policy where
  | own | wt | si | wi
  deriving DecidableEq, Repr

/-- The scopes of R228. -/
inductive Scope where
  | tr | wg | cl | die | dev | sys
  deriving DecidableEq, Repr

/-- The ordering annotations of R234 and R297. -/
inductive MemOrd where
  | plain | acq | rel | acqrel
  deriving DecidableEq, Repr

/-- The share states of a page table entry (R162). -/
inductive Share where
  | absent | loc | sharded | gathered | partialPg | migrating | remote | reserved
  deriving DecidableEq, Repr

/-- The level of caching that a non-coherent window allows (R222, CL). -/
inductive WinCl where
  | both | rdcOnly | uncached
  deriving DecidableEq, Repr

/-! ## Lane requests and what they do -/

/-- What a request does when it is performed (chapters 20 to 24). -/
inductive MemOp where
  | load (size : BitVec 3)
  | store
  | atom (op : AtomOp)
  /-- `k` is 0 add, 1 sub, 2 min, 3 max (R402) -/
  | fatom (k : Nat) (t : AtomTy)
  | tload
  | tstore (fmt : Byte)
  /-- `len` is the lane's L; `part` says that the page is known and the access is one line's part of the element (R386) -/
  | vpload (w : VpW) (len : Nat) (part : Bool)
  | vpstore (w : VpW) (len : Nat) (part : Bool)
  | prefetch
  | bosig
  | barinit
  | barinval
  | depinit (node : Nat) (record : List Byte) (depth : Nat)
  | depdec
  | chunk
  deriving DecidableEq, Repr

/-- Where a request stands between its issue and its end. -/
inductive Stage where
  /-- a release that waits as R388 states -/
  | held
  /-- not translated yet; `miss` says that it has taken or waits for a walker (R166) -/
  | untranslated (miss : Bool)
  /-- in the die's park table (R166) -/
  | parked
  /-- translated; waiting for its order-network slot or its cache (R206) -/
  | ready
  /-- on the mesh, the fabric or a CXL link -/
  | travelling
  /-- at the home directory, in arrival order (R208) -/
  | atHome
  /-- the home has accepted it and waits for acknowledgements (R208) -/
  | inTxn
  /-- waiting for a line of a migrating frame (R172) -/
  | awaitLine
  /-- performed or failed at a home on another die; the response is on the mesh (R39) -/
  | returning
  /-- performed or failed; its reply has not landed -/
  | answered
  deriving DecidableEq, Repr

/-- One lane's request to the memory system. -/
structure MemReq where
  id : Nat
  split : Nat
  wg : Nat
  trix : Nat
  ctx : Nat
  die : Nat
  core : Nat
  lane : Nat
  op : MemOp
  va : DWord
  bytes : Nat
  pol : Policy
  scope : Scope
  ord : MemOrd
  stage : Stage
  /-- it has been in the park table (R167) -/
  wasParked : Bool
  /-- the memory location (see `State.mem`), the physical address's kind, and the home die, once translated -/
  loc : Nat
  kind : Nat
  home : Nat
  typed : Bool
  migrating : Bool
  win : Option WinCl
  val : List Byte
  val2 : List Byte
  result : List Byte
  fault : Option Byte
  /-- the store phase it carries (R238); while a release is held, the phase it closed (R239) -/
  phase : Option (BitVec 16)
  /-- the lives the request carries (R39) -/
  reqLife : BitVec 16
  tgtLife : BitVec 16
  /-- arrival order at the home (R208) and at the park table (R169) -/
  arrival : Nat
  /-- the cycle of the requester's die by which an off-package request must be answered (R44) -/
  deadline : Option Nat
  /-- the order-network slot that it took on its die (R206) -/
  slot : Nat
  /-- the LEASELOG2 that its answer carries, where the answer grants a lease (R216) -/
  lease : Option Nat
  deriving DecidableEq, Repr

/-- How the replies of one instruction's lanes land. -/
inductive Landing where
  | vec (names : List (Nat × Nat))
  | vp (w : VpW) (names : List (Nat × Nat))
  | scalar (n : Nat) (pair : Bool)
  | status (n : Nat)
  | nothing
  deriving DecidableEq, Repr

/-- One split-phase or posted instruction whose lanes are under way (R143, R102). -/
structure Split where
  id : Nat
  wg : Nat
  trix : Nat
  ac : Option Nat
  flag : Option Nat
  left : Nat
  landing : Landing
  size : BitVec 3
  acquire : Option Scope
  posted : Bool
  deriving DecidableEq, Repr

/-! ## Troupes -/

/-- A register a hazard can stand on. -/
inductive RegId where
  | v (n : Nat) | s (n : Nat) | p (n : Nat)
  deriving DecidableEq, Repr

/-- When a producer has finished writing a register (R144, R145): at a cycle of its die, or at the end of the instruction `k` where
that comes first; at the end of the instruction `k`; at each lane's reply; at `mwait`. -/
inductive HazOrd where
  | cycle (n : Nat) (k : Option Nat) | pend (k : Nat) | split (id : Nat) | batch
  deriving DecidableEq, Repr

/-- A register whose producer has not finished writing it (R144, R149). -/
structure Hazard where
  reg : RegId
  lanes : Mask
  order : HazOrd
  deriving DecidableEq, Repr

/-- A mapped vector name with its physical register and contents (R132, R136). `token` tells one mapping from the next. -/
structure VReg where
  name : Nat
  phys : Nat
  token : Nat
  val : Lanes
  damaged : Bool
  deriving DecidableEq, Repr

/-- A result or a completion of an instruction under way: what `VARIABLE_RESULT_WRITE` or `QUEUE_ENGINE_REPLY` does. -/
inductive PendAct where
  /-- a fixed-latency result is written: only the flag clears (R142) -/
  | done
  | sregs (ws : List (Nat × Word))
  | vregs (ws : List (Nat × Nat)) (lanes : Mask) (vals : List Lanes)
  | fence (acq rel : Bool) (scope : Scope)
  | phadv (d : Option Nat)
  | phwait (die : Nat) (phase : BitVec 16)
  /-- write-backs of a cache-range instruction still to be acknowledged (R397) -/
  | range (wbs : List Nat)
  /-- the value that `sreg` read at its issue -/
  | special (v : DWord) (d : Nat)
  | rcnt (c : Nat) (d : Nat)
  | rcntadd (c : Nat) (v : Word) (phase : BitVec 16)
  | lvlid (sel : Nat) (d : Nat)
  | lvlcancel (sel : Nat)
  /-- `stage` 0: waiting for its release, `round` being the phase it closed; 1: delivering; 2: waiting for DONE -/
  | shflush (d : Nat) (group : Nat) (round : BitVec 16) (wait : Bool) (unsent : Bool) (stage : Nat)
  | emit (head : Bool) (node : Nat) (pred : Nat) (vd : Nat) (token : Nat) (lanes : Mask) (recs : List (List Byte))
      (phase : BitVec 16)
  | deq (node : Nat) (pred : Nat) (vd : List (Nat × Nat)) (lanes : Mask)
  | gexit (lanes : Mask)
  | mrdy
  deriving DecidableEq, Repr

/-- An instruction under way; `k` is its place in the order of issue (it is drawn from the same counter as requests). -/
structure Pend where
  k : Nat
  flag : Option Nat
  act : PendAct
  /-- later memory-group instructions wait for it (R388, R394 to R396) -/
  holds : Bool
  deriving DecidableEq, Repr

/-- What a troupe that is not ready waits in, where its program counter stands on the waiting instruction (R96). -/
inductive Wait where
  | none
  /-- `waitmem` on sD with its compare value, and the names that its last-read bits release when it ends -/
  | mem (va : DWord) (lane : Nat) (d : Nat) (wide : Bool) (pol : Policy) (scope : Scope) (acq : Bool) (flag : Option Nat)
      (cmp : DWord) (rel : List Nat)
  /-- `bowait` on the generation `gen` -/
  | bo (va : DWord) (lane : Nat) (d : Nat) (scope : Scope) (flag : Option Nat) (gen : Word) (rel : List Nat)
  /-- the fetch has parked on a page of code -/
  | fetch (page : Nat)
  /-- the read of the trap table has parked, for this trap -/
  | table (page : Nat) (cause : Byte) (taddr : DWord) (lanes : Mask) (tpc : DWord)
  deriving DecidableEq, Repr

/-- The record a lane holds (R439): its graph, node, core of the segment, slot (none once freed) and depth. -/
structure LaneRec where
  lvl : Nat
  node : Nat
  core : Nat
  slot : Option Nat
  depth : Nat
  fromDeq : Bool
  deriving DecidableEq, Repr

/-- A matrix batch of a troupe (R434, R255): operations issued, operations not yet performed, its error phase. -/
structure Batch where
  closed : Bool
  count : Nat
  left : Nat
  err : Option (Byte × Nat)
  taddr : DWord
  /-- its accumulator names and its A names, with the lanes -/
  outs : List (Nat × Mask)
  ins : List (Nat × Mask)
  /-- those of them that another instruction has read or written before `mwait` (R149) -/
  spoilt : List Nat
  /-- its A tiles in scratchpad buffers (address, length), and whether one has been written before `mwait` (R242) -/
  tiles : List (Nat × Nat)
  tileSpoilt : Bool
  /-- the names that last-read bits release at its completion, and mappings released before it -/
  rels : List Nat
  holds : List Nat
  deriving DecidableEq, Repr

/-- The empty batch. -/
def Batch.idle : Batch := ⟨false, 0, 0, none, 0, [], [], [], [], false, [], []⟩

/-- A troupe that has reached a joint operation (R433): its place in the sequence of the joint id, its control word and tile; `go`
once every partner has reached its own, false where they differ. -/
structure JointAt where
  jid : Nat
  n : Nat
  ctl : Word
  tile : DWord
  go : Option Bool
  deriving DecidableEq, Repr

/-- One troupe (R84, R129 to R131, R248, R250). -/
structure Troupe where
  wg : Nat
  trix : Nat
  pipe : Nat
  slot : Nat
  pc : DWord
  /-- s0 to s60 and the activity mask s61 to s63 -/
  sregs : List Word
  preds : List Mask
  flags : BitVec 12
  acs : List Nat
  sph : BitVec 16
  pcfg : List (BitVec 15)
  allot : Nat
  regs : List VReg
  errpend : BitVec 16
  stfail : Bool
  intrap : Bool
  cause : Byte
  taddr : DWord
  tpc : DWord
  tlanes : Mask
  faults : List DWord
  hazards : List Hazard
  pend : List Pend
  wait : Wait
  lrecs : List (Option LaneRec)
  /-- slots handed out by `tdeq` and not yet freed: node, core, slot (R119) -/
  deqs : List (Nat × Nat × Nat)
  /-- dies that phased accesses were sent to since the last closed phase was published (R238), and their lives at the last
  `phadv` -/
  sent : BitVec 32
  phLives : List (BitVec 16)
  /-- the last issue cycle (none before the first, and after a resumption), the earliest next one -/
  lastIssue : Option Nat
  freeAt : Nat
  branched : Bool
  exited : Bool
  stopped : Bool
  atYield : Bool
  /-- the core and slot that `id.core` and `id.slot` read: those of its workgroup's start (R130) -/
  idCore : Nat
  idSlot : Nat
  openBatch : Batch
  batches : List Batch
  /-- joint operations issued by joint id (R433), and the troupe's latest arrival at each barrier (R405) -/
  joint : List Nat
  atJoint : Option JointAt
  /-- writes of vector names, and of scratchpad buffers, since the last `mrdy`: the contents before each (R436) -/
  unready : List (Nat × Lanes)
  unreadyPad : List (Nat × Nat × List Host.Cell)
  barGen : List (Option Nat)
  /-- scalar registers with an uncorrectable error (R177) -/
  badS : List Nat
  /-- the arrival that a waiting `barw` has made already -/
  arrived : Bool
  deriving DecidableEq, Repr

/-! ## Workgroups -/

inductive WgStatus where
  | running | stopping | draining | saved | halted
  deriving DecidableEq, Repr

/-- A workgroup barrier (R405). -/
structure Barrier where
  gen : Nat
  arrived : List Nat
  deriving DecidableEq, Repr

/-- A copy tag (R417). -/
structure Tag where
  done : Bool
  count : Nat
  stat : Byte
  fault : Byte
  deriving DecidableEq, Repr

/-- A bound scratchpad buffer (R154, R155): its package-wide core, the workgroup whose reservation it was taken from, and its
bytes. A byte that is not listed holds the unspecified contents of occasion `fill` (R423). -/
structure Buf where
  core : Nat
  idx : Nat
  wg : Nat
  fill : Nat
  mem : List Host.Cell
  damaged : List Nat
  deriving DecidableEq, Repr

/-- An entry of a workgroup's binding table (R155); `saved` holds the contents while the workgroup is pre-empted (R158). -/
structure Binding where
  handle : BitVec 16
  core : Nat
  idx : Nat
  saved : Option Buf
  deriving DecidableEq, Repr

/-- A workgroup (R85, R102, R327). -/
structure Workgroup where
  id : Nat
  part : Nat
  ctx : Nat
  /-- its launch level, and the graph level and node of a node group -/
  lvl : Nat
  node : Option (Nat × Nat)
  x : Nat
  y : Nat
  z : Nat
  w : Nat
  die : Nat
  core : Nat
  status : WgStatus
  startSeq : Nat
  troupes : Nat
  allot : Nat
  peak : Nat
  bufs : Nat
  ntags : Nat
  nbars : Nat
  energy : Nat
  args : DWord
  inl : DWord
  bars : List Barrier
  tags : List Tag
  binds : List Binding
  failed : Bool
  cancelled : Bool
  used : Nat
  /-- record slots taken at the start: node, core, slot -/
  recs : List (Nat × Nat × Nat)
  /-- stopped by `halt` (R453) -/
  halt : Bool
  /-- the core that its resumption has been promised, while victims are saved for it (R94) -/
  resume : Option Nat
  deriving DecidableEq, Repr

/-! ## Cores, pipes, dies -/

/-- A fill record of a weight-buffer slot (R429). -/
structure FillRec where
  ctx : Nat
  addr : DWord
  fmt : Nat
  sp : Nat
  slots : Nat
  image : List Byte
  damaged : Bool
  deriving DecidableEq, Repr

/-- What a matrix operation does (R432, R437). `unsure` holds A names, and `unsurePad` the A tile's buffer, as they were before each
write that no `mrdy` covers; `issuer` is the troupe whose pipe holds the tile (R429, R433). -/
inductive MatKind where
  | mma (fmt : Nat) (sp : Nat) (slot : Nat) (tile : DWord) (band : Word) (a : List Nat) (scratch : Option Word) (issuer : Nat)
      (unsure : List (Nat × Lanes)) (unsurePad : List (List Host.Cell))
  | mclr
  | mbscale (band : Word)
  deriving DecidableEq, Repr

/-- A matrix operation issued and not yet performed (R434). `batch` is none while its batch is open. -/
structure MatOp where
  id : Nat
  wg : Nat
  trix : Nat
  batch : Option Nat
  index : Nat
  kind : MatKind
  acc : Nat
  lanes : Mask
  /-- accumulators as they were before each write that no `mrdy` covers (R436) -/
  was : List (Nat × Lanes)
  deriving DecidableEq, Repr

/-- A tile fill under way (R430). -/
structure Fill where
  id : Nat
  pipe : Nat
  split : Nat
  ctx : Nat
  addr : DWord
  fmt : Nat
  sp : Nat
  slot : Nat
  deriving DecidableEq, Repr

/-- A pipe: its ring and pick pointer (R97), the next free cycles of the slot and of FP/integer units 0 and 1
(R125, R145), physical registers whose release waits for an
outstanding load (R133), the weight buffer's records (R429) and the operations of its matrix quarter (R434). -/
structure Pipe where
  ring : List (Nat × Nat)
  ptr : Nat
  last : Option (Nat × Nat)
  free : Nat
  fpFree : Nat × Nat
  zombies : List (Nat × Nat)
  slots : List (Nat × FillRec)
  ops : List MatOp
  deriving DecidableEq, Repr

/-- A core's stealing state (R98, R99). -/
structure CoreSt where
  lfsr : BitVec 16
  empties : Nat
  backoff : Nat
  deriving DecidableEq, Repr

/-- A cached line of an L1 (`core` given) or a remote-data cache, with the marks of R203 to R205 and R224. -/
structure CLine where
  die : Nat
  core : Option Nat
  line : Nat
  data : List Byte
  /-- bytes present in the copy, and bytes written and not yet sent home -/
  valid : BitVec 64
  dirty : BitVec 64
  tracked : Bool
  excl : Bool
  window : Bool
  /-- the die whose directory keeps the line (R208, R221) -/
  home : Nat
  deriving DecidableEq, Repr

/-- A line in the L2 of its home die (R14, R150): `dirty` where HBM does not have its bytes yet. -/
structure L2Line where
  die : Nat
  line : Nat
  dirty : Bool
  deriving DecidableEq, Repr

inductive RState where
  | i | s | e
  deriving DecidableEq, Repr

/-- A region of the home directory (R209); `base` is a line number, `size` is log2 of its lines. -/
structure Region where
  die : Nat
  base : Nat
  size : Nat
  st : RState
  hold : BitVec 33
  owner : Nat
  quiet : Nat
  llost : Bool
  deriving DecidableEq, Repr

/-- What a home asks a holder to do (R210). -/
inductive TAct where
  | inval | recall | downgrade | forward
  deriving DecidableEq, Repr

/-- A transaction of a line at its home (R208): the requests of one message, the half of R211 that its targets act on, and how
far it has come. -/
structure Txn where
  id : Nat
  die : Nat
  line : Nat
  reqs : List Nat
  from_ : Nat
  base : Nat
  size : Nat
  /-- sent and not yet received; received and not yet collected by the home -/
  targets : List (Nat × TAct)
  acks : List Nat
  /-- performed; the grant is on its way or has arrived -/
  granted : Bool
  /-- the requester has the grant and has acknowledged it -/
  grantAck : Bool
  /-- the cycle at which the host's answer is overdue (R221) -/
  hostDue : Option Nat
  /-- the LEASELOG2 that the grant carries (R216) -/
  len : Nat
  /-- it makes room for another entry: its own goes once every copy has been given up (R209) -/
  evict : Bool
  deriving DecidableEq, Repr

/-- A write-back under way, held in the write-back buffer until acknowledged (R214). -/
structure WriteBack where
  id : Nat
  die : Nat
  core : Option Nat
  home : Nat
  line : Nat
  data : List Byte
  mask : BitVec 64
  window : Bool
  owner : Bool
  keep : Bool
  /-- the home has taken it, and its acknowledgement is on its way -/
  taken : Bool
  deriving DecidableEq, Repr

/-- A combining entry of a remote-data cache (R213): the requests combined into one message. -/
structure Combine where
  die : Nat
  line : Nat
  reqs : List Nat
  deriving DecidableEq, Repr

/-- A page walk in a hardware walker, or waiting for one (R166). -/
structure Walk where
  id : Nat
  die : Nat
  ctx : Nat
  page : Nat
  running : Bool
  deriving DecidableEq, Repr

/-- A cached translation (R170): the leaf entry a die holds for a page. -/
structure Tlb where
  die : Nat
  ctx : Nat
  page : Nat
  pte : DWord
  level : Nat
  deriving DecidableEq, Repr

/-- A translation invalidation on its way to a die, for a change with the given number (R170). -/
structure Inval where
  die : Nat
  ctx : Nat
  page : Nat
  change : Nat
  deriving DecidableEq, Repr

/-- An entry of a migration table (R171). -/
structure Migr where
  die : Nat
  ctx : Nat
  page : Nat
  frame : Nat
  old : Nat
  present : BitVec 64
  /-- the lines in fetch, and those of them that the background engine fetches -/
  fetching : BitVec 64
  engine : BitVec 64
  deriving DecidableEq, Repr

/-- A bank of the HBM controller with its open row and the cycle of its last access (R176). -/
structure Bank where
  die : Nat
  bank : Nat
  row : Option Nat
  last : Nat
  deriving DecidableEq, Repr

/-- A lease that a home keeps of a die, and that the die keeps of the home (R216 to R219). -/
structure Lease where
  home : Nat
  die : Nat
  /-- at the home, in its cycles: the last grant or renewal -/
  granted : Nat
  /-- at the holder, in its cycles: the last grant or renewal acknowledged, the last grant or renewal sent, the length that the last
  grant or acknowledgement carried -/
  acked : Nat
  sent : Nat
  len : Nat
  /-- the home's life when it granted the lease (R220) -/
  life : BitVec 16
  /-- a renewal, or its answer, is on its way -/
  renewing : Bool
  deriving DecidableEq, Repr

/-- A request offered to its die's order network: the cycle, the core, and the request's number (R206). -/
structure Offered where
  cycle : Nat
  core : Nat
  req : Nat
  deriving DecidableEq, Repr

/-- The state of a C-die (R14). -/
structure Die where
  cycle : Nat
  /-- it has reset and its broadcast has not gone out (R39) -/
  resetting : Bool
  dph : BitVec 16
  phcomp : List (BitVec 16)
  idle : BitVec 16
  corr : Word
  uncorr : BitVec 16
  damaged : List Nat
  /-- lines whose data cannot be corrected, not in the damaged-line table (R177, R178) -/
  failing : List Nat
  lapses : BitVec 16
  evict : BitVec 16
  merges : BitVec 16
  splits : BitVec 16
  roundLost : BitVec 16
  early : BitVec 16
  defer : BitVec 16
  gfail : BitVec 16
  leaseLog2 : Nat
  ceil : Word
  rate : Word
  credited : Nat
  /-- requests that wait for a slot of the order network, by cycle and core (R206), and the slots taken so far -/
  notices : List Offered
  slots : Nat
  cores : List CoreSt
  deriving DecidableEq, Repr

/-- The router of a socket: its life number and counters (R13, R38), its copies of the other sockets' lives (R39) and the
link state it has applied (R36). -/
structure Router where
  life : BitVec 16
  stale : Word
  refused : Nat
  fenced : Bool
  powered : Bool
  inReset : Bool
  known : List (Nat × BitVec 16)
  epoch : BitVec 16
  down : List (Nat × Nat)
  prevDown : List (Nat × Nat)
  settled : BitVec 16
  /-- the cycles of the base's clock that its router has counted (R10, R33) -/
  clock : Nat
  deriving DecidableEq, Repr

/-- Sequence numbers of one source, destination and channel class (R34), and the numbers of packets that will not come, which the
destination passes over. -/
structure SeqSt where
  src : Nat
  dst : Nat
  chan : Nat
  next : BitVec 12
  expect : BitVec 12
  gone : List (BitVec 12)
  deriving DecidableEq, Repr

/-- What a packet carries. -/
inductive Payload where
  | mem (reqs : List Nat)
  | reply (reqs : List Nat)
  | mail (m : Message)
  /-- a message returned by a full mailbox (R67), with the sequence number of the packet that carried it -/
  | busy (m : Message)
  /-- a home's invalidation, recall, downgrade or forward for a transaction, its answer, and a grant (R208) -/
  | snoop (txn : Nat)
  | ack (txn : Nat)
  | grant (txn : Nat)
  /-- a write-back and its acknowledgement (R214) -/
  | wb (id : Nat)
  | wbAck (id : Nat)
  /-- a renewal of a lease, and its acknowledgement with the length it carries, none for a refusal (R217, R220) -/
  | renew
  | renewed (len : Option Nat)
  deriving DecidableEq, Repr

/-- A packet on the base mesh (R30 to R36): `chan` is its class, 0 request, 1 response, 2 forward/snoop; `place` is the router whose
buffer holds it, and `port` the router that it came from (its own router for the socket's port); `since` is the cycle at which it came
to the head of that buffer. -/
structure Packet where
  id : Nat
  src : Nat
  dst : Nat
  chan : Nat
  seq : BitVec 12
  reqLife : BitVec 16
  tgtLife : BitVec 16
  place : Nat
  port : Nat
  /-- in the escape channel; on the spanning tree from there on (R32, R33) -/
  escape : Bool
  tree : Bool
  since : Option Nat
  /-- on its way back to its source as a NACK; back at its source, which has not resent it (R34, R35); held at the source behind such
  packets -/
  nack : Bool
  returned : Bool
  held : Bool
  epoch : BitVec 16
  load : Payload
  deriving DecidableEq, Repr

/-- A link-state change being settled (R36): the link, whether it came up, and the routers that have acknowledged. -/
structure Notice where
  epoch : BitVec 16
  a : Nat
  b : Nat
  up : Bool
  applied : List Nat
  acked : List Nat
  settled : Bool
  deriving DecidableEq, Repr

/-! ## Command complex, jobs, contexts -/

/-- A mailbox (R64): die, sender core, receiver core, messages oldest first. -/
structure Mailbox where
  die : Nat
  src : Nat
  dst : Nat
  msgs : List Message
  deriving DecidableEq, Repr

/-- The next sequence number that a core gives its messages to a mailbox of a die (R65). -/
structure MailSeq where
  srcDie : Nat
  srcCore : Nat
  dstDie : Nat
  dstCore : Nat
  next : BitVec 16
  deriving DecidableEq, Repr

/-- What a command-complex core last took, and what it last received or was told (R64, R66, R67). -/
structure CcCore where
  die : Nat
  core : Nat
  last : Nat
  inbox : Option Message
  busy : Bool
  deriving DecidableEq, Repr

/-- A job queue's registers (R72). -/
structure JobQueue where
  base : DWord
  ctx : Nat
  log2 : Nat
  en : Bool
  err : Bool
  code : Byte
  tail : Word
  head : Word
  deriving DecidableEq, Repr

/-- A job's record and the deputy of its device (R69): the record has not been sent; it is on its way; the deputy holds it, and its
acknowledgement is on its way; the leader has that; the job has completed, and the release is on its way. -/
inductive DepSt where
  | none | sent | held | acked | releasing
  deriving DecidableEq, Repr

/-- A job packet that the parser has read (R75, R76). -/
structure Job where
  id : Nat
  part : Nat
  dev : Nat
  q : Nat
  ctx : Nat
  slot : Nat
  type : Nat
  flags : Byte
  tag : Word
  desc : DWord
  sigaddr : DWord
  sigval : DWord
  waddr : DWord
  wval : DWord
  /-- the address of the device's copy of the inline bytes (R130), 0 where it has none -/
  inl : DWord
  started : Bool
  /-- a wait packet that holds its queue (R77) -/
  waiting : Bool
  /-- where the job's record stands with the deputy (R69) -/
  deputy : DepSt
  deriving DecidableEq, Repr

inductive LvlKind where
  | job | step | graph | launch | nodeLaunch
  deriving DecidableEq, Repr

/-- A kernel descriptor as read at admission (R327). -/
structure Kdesc where
  entry : DWord
  allot : Nat
  troupes : Nat
  peak : Nat
  bufs : Nat
  tags : Nat
  bars : Nat
  energy : Nat
  recsize : Nat
  ndepth : Nat
  hold : Nat
  deriving DecidableEq, Repr

/-- A member of a step (R89). -/
structure Member where
  kernel : Bool
  desc : DWord
  x : Nat
  y : Nat
  z : Nat
  args : DWord
  sig : Option (DWord × DWord)
  deriving DecidableEq, Repr

/-- A level (R86 to R88). -/
structure Level where
  id : Nat
  ident : Word
  part : Nat
  dev : Nat
  ctx : Nat
  kind : LvlKind
  up : Option Nat
  job : Nat
  counter : Nat
  total : Nat
  sig : Option (DWord × DWord)
  failed : Bool
  cancelledItem : Bool
  cancel : Bool
  /-- its items may start -/
  admitted : Bool
  /-- a status that a failed check fixes (R90), else 0 -/
  status : Byte
  members : List Member
  next : Nat
  /-- a kernel launch: its descriptor, grid, arguments, the next index to start on each die (R91), pre-empted w's (R93) -/
  kdesc : Option Kdesc
  desc : DWord
  x : Nat
  y : Nat
  z : Nat
  args : DWord
  nextW : List (Nat × Nat)
  preempted : List Nat
  deriving DecidableEq, Repr

/-- A record in a segment (R109): its slot, depth, whether it is takeable (R112) and when it was written (R114). -/
structure GRec where
  slot : Nat
  depth : Nat
  takeable : Bool
  written : Nat
  deriving DecidableEq, Repr

/-- A node's segment on one core of the device (R109); records from the head to the tail. -/
structure Seg where
  node : Nat
  core : Nat
  recs : List GRec
  taken : List Nat
  /-- the taken slots reserved for dependency records (R121) -/
  deps : List Nat
  nextRing : Nat
  blocks : List Nat
  /-- ordered to launch at once by R116 -/
  drain : Bool
  /-- the cycle in which its engine last applied an operation, and that operation's place among those of one cycle (R111) -/
  last : Nat × Nat
  deriving DecidableEq, Repr

structure GNode where
  k : Kdesc
  segrec : Nat
  rank : Nat
  args : DWord
  lvl : Nat
  groups : Nat
  deriving DecidableEq, Repr

/-- An armed dependency object: its location, and the node, core and slot of the record that it reserves (R121). -/
structure DepObj where
  loc : Nat
  node : Nat
  core : Nat
  slot : Nat
  deriving DecidableEq, Repr

/-- A graph instance (R104 to R118); `counter` is the outstanding records plus running groups. -/
structure Graph where
  lvl : Nat
  depthMax : Nat
  reserve : Nat
  vat : DWord
  nodes : List GNode
  counter : Nat
  running : Nat
  segs : List Seg
  freeBlocks : List Nat
  /-- the armed dependency objects, and the locations of those whose records a die's reset has taken (R124) -/
  objs : List DepObj
  deadObjs : List Nat
  deriving DecidableEq, Repr

/-- A record count on its way to the leader (R112). -/
structure CountMsg where
  id : Nat
  lvl : Nat
  node : Nat
  core : Nat
  slots : List Nat
  deriving DecidableEq, Repr

inductive StealStage where
  | asked | moved | refused | placed
  deriving DecidableEq, Repr

/-- A steal under way (R98, R99, R120); cores are numbered within the device. -/
structure Steal where
  id : Nat
  lvl : Nat
  node : Nat
  victim : Nat
  thief : Nat
  stage : StealStage
  recs : List GRec
  bytes : List (List Byte)
  /-- records that the thief could not take -/
  back : List GRec
  deriving DecidableEq, Repr

/-- What a die's scheduler has asked admission for (R62, R92, R115). -/
inductive StartWhat where
  | kernel (lvl w : Nat)
  | node (lvl node core : Nat)
  deriving DecidableEq, Repr

inductive AdmState where
  | asked | granted | refused
  deriving DecidableEq, Repr

/-- A launchable segment that its core's launcher has offered to the die's start queue (R115); its core is numbered within the
device. -/
structure Offer where
  die : Nat
  lvl : Nat
  node : Nat
  core : Nat
  deriving DecidableEq, Repr

/-- An admission request of a die's scheduler. -/
structure Adm where
  die : Nat
  core : Nat
  what : StartWhat
  energy : Nat
  st : AdmState
  deriving DecidableEq, Repr

/-- A peer table entry (R42). -/
structure PeerEntry where
  e : Nat
  pod : Nat
  part : Nat
  ctx : Nat
  deriving DecidableEq, Repr

/-- A triggered or running copy (R413, R421). -/
inductive CopyStage where
  | armed (thr : Word) | waiting | moved | signalled
  deriving DecidableEq, Repr

structure Copy where
  id : Nat
  wg : Nat
  trix : Nat
  ctx : Nat
  die : Nat
  lvlk : Word
  ctl : Word
  gen : Word
  layout : DWord
  coords : List Word
  counter : Nat
  stage : CopyStage
  kind : Nat
  peer : Nat
  sig : Nat
  sigidx : Nat
  sigaddr : DWord
  size : Nat
  status : Byte
  fault : Byte
  bufs : List (Nat × Nat)
  /-- the cycle of its die by which what it has asked of another device must be answered (R44) -/
  due : Option Nat
  deriving DecidableEq, Repr

/-- What switches a context (R262). -/
inductive CtxPhase where
  | onCores | stopping | saving | off
  deriving DecidableEq, Repr

/-- A shard group's running state in one context (R180, R185, R186, R198). -/
structure ShGroup where
  group : Nat
  round : BitVec 16
  dead : List Nat
  heard : List (Nat × Nat)
  renewed : Nat
  lives : List (Nat × BitVec 16)
  /-- CLOSE and DONE messages received: member, round; DONE with its LOST flag -/
  closes : List (Nat × BitVec 16)
  dones : List (Nat × BitVec 16 × Bool)
  deriving DecidableEq, Repr

/-- A context (R20, R81, R159, R179, R222, R246, R258, R416, R419). -/
structure Ctx where
  num : Nat
  part : Nat
  place : DWord
  seed : DWord
  ptb : DWord
  shard : DWord
  trap : DWord
  save : DWord
  comp : DWord
  ncbase : List DWord
  nclim : List DWord
  peers : List PeerEntry
  expVa : DWord
  expLen : Nat
  halten : Bool
  counters : List (Nat × Word)
  seq : Nat
  memberLife : BitVec 16
  groups : List ShGroup
  phase : CtxPhase
  deriving DecidableEq, Repr

/-- A management request that has begun and waits (R81, R170, R171, R175): its slot and context, the number of its first change to
a translation, pages still to be moved with their new places, pages set absent with their old and new entries, pages moved. -/
structure Serving where
  slot : Nat
  ctx : Nat
  change : Nat
  todo : List (Nat × Nat)
  moves : List (Nat × DWord × DWord)
  moved : Nat
  deriving DecidableEq, Repr

/-- A partition (R17, R71, R80, R81): its dies, queues, management queue, energy account and host window. -/
structure Partition where
  dies : List Nat
  queues : List (Nat × JobQueue)
  /-- by leading die: the queue that its parser served last -/
  parsed : List (Nat × Nat)
  busy : BitVec 16
  done : BitVec 16
  slots : List (Nat × List Byte)
  submitted : List Nat
  bal : Int
  held : Nat
  hostCtx : Option Nat
  hostVa : DWord
  hostLen : Nat
  cancels : List (Nat × Nat)
  serving : Option Serving
  deriving DecidableEq, Repr

/-- A frame of kind 0x0 that the memory core has taken for a context, with the life of its home die then (R81, R188); `going` names
the page whose invalidations a freed frame waits for (R170). -/
structure Frame where
  ctx : Nat
  f : Nat
  life : BitVec 16
  going : Option Nat
  deriving DecidableEq, Repr

/-! ## Sharded pages -/

/-- A gather under way (R187): members still to send DATA, members asked again after LIFE. -/
structure Gather where
  ctx : Nat
  page : Nat
  group : Nat
  waiting : List Nat
  again : List Nat
  fail : Bool
  deriving DecidableEq, Repr

/-- A partial page (R192, R193): its frames and round, members whose OPENOK is awaited, members that said BUSY and when; once its
delivery has begun, the members whose DELACK is awaited. `isOpen` says that its frame still takes accesses. -/
structure Part where
  die : Nat
  ctx : Nat
  page : Nat
  group : Nat
  shardFrame : Nat
  partFrame : Nat
  round : BitVec 16
  opening : List Nat
  busy : List (Nat × Nat)
  delivering : Option (List Nat)
  isOpen : Bool
  deriving DecidableEq, Repr

/-- One contributor of a reduction record (R195). -/
structure Contrib where
  member : Nat
  life : BitVec 16
  opened : Nat
  staged : List (List Byte)
  deriving DecidableEq, Repr

inductive RedState where
  /-- contributions arrive; they are being added to the blocks; added, or lost -/
  | collecting | adding | done (lost : Bool)
  deriving DecidableEq, Repr

/-- An owner's reduction record of a page and round (R195). -/
structure Reduction where
  die : Nat
  ctx : Nat
  page : Nat
  group : Nat
  round : BitVec 16
  contribs : List Contrib
  reserved : Nat
  st : RedState
  deriving DecidableEq, Repr

/-- A gather that a save or an addition defers (R188). -/
structure Deferred where
  ctx : Nat
  group : Nat
  member : Nat
  page : Nat
  deriving DecidableEq, Repr

inductive ShKind where
  | gather | data | deferred | life | lost | notshard | opn | openok | busy | deliver | delack | close | done | renew
  deriving DecidableEq, Repr

/-! ## Start-up -/

/-- A step of start-up: stage, unit kind, unit number, path (R53, R56). -/
structure StepId where
  stage : Nat
  kind : Nat
  unit : Nat
  path : Nat
  deriving DecidableEq, Repr

/-- A journal entry without its CHECK (R56); `bytes` holds what the flash holds in its place after a power loss. -/
structure JEntry where
  seq : Nat
  start : BitVec 16
  stage : Nat
  kind : Nat
  unit : Nat
  path : Nat
  outcome : Byte
  reason : BitVec 16
  torn : Option (List Byte)
  deriving DecidableEq, Repr

/-- An image in boot flash (R50, R51): stage that loads it, unit, copy (0 for A, 1 for B), its SHA-512 digest, the SHA-512 digest of the
public key that it comes with, and whether its signature checks under that key. -/
structure Image where
  stage : Nat
  unit : Nat
  copy : Nat
  digest : BitVec 512
  key : BitVec 512
  signed : Bool
  deriving DecidableEq, Repr

/-- The security core, its flash and log (R50 to R60). -/
structure Boot where
  start : BitVec 16
  up : Bool
  /-- a mandatory step has failed in this start; stage 1 failed; a boot-stopped entry was written -/
  restart : Bool
  dead : Bool
  halted : Bool
  seq : Nat
  journal : List JEntry
  measured : List (BitVec 512)
  images : List Image
  /-- the physical condition of the units: the steps that fail when they are tried -/
  broken : List StepId
  idKey : Bool
  plan : List (List Nat)
  /-- the plan that takes effect at the next reset of the dies it moves, and those of them that have reset since (R18) -/
  nextPlan : List (List Nat)
  movedReset : List Nat
  /-- the digest of the signing key in the fuses (R51) -/
  fuse : BitVec 512
  pod : BitVec 8
  podTaken : Bool
  fenced : List (Nat × Nat)
  deriving DecidableEq, Repr

/-! ## What leaves the device -/

/-- The error core's records (R63, R7). -/
inductive ErrRec where
  | lane (wg trix lane : Nat) (code : Byte) (va : DWord)
  | trap (wg trix : Nat) (cause : Byte) (tpc taddr : DWord) (lanes : Mask) (nested : Bool)
  | page (ctx : Nat) (va : DWord) (code : Byte)
  | line (die line : Nat) (code : Byte)
  | batch (wg trix : Nat) (code : Byte) (index : Nat)
  | item (what : Nat) (who : Nat)
  /-- a frame lost with its home die (R27) -/
  | frame (ctx f : Nat)
  deriving DecidableEq, Repr

/-- What the device sends to the outside: notices to the host, Ethernet sends, messages of the fabric, answers of the
management port and of CXL.io reads. -/
inductive Outgoing where
  | msix (part vector : Nat)
  /-- a packet of a network send: its port, and whether it is of a reliable ordered flow (R45) -/
  | send (part queue : Nat) (port : Nat) (ordered : Bool) (bytes : List Byte)
  /-- the reply send of a job: its tag, status, queue and slot (R78) -/
  | jobNote (part : Nat) (tag : Word) (status : Byte) (queue slot : Nat)
  /-- the reply send of a management request: its tag, status, operation and slot (R80) -/
  | mgmtNote (part : Nat) (tag : Word) (status op : Byte) (slot : Nat)
  | shard (peer : Nat) (kind : ShKind) (m : ShardMsg)
  | answer (peer : Nat) (bytes : List Byte) (code : Byte)
  | notSupported (port tag : Nat)
  | hostRead (part : Nat) (bytes : List Byte)
  | health (bytes : List DWord)
  /-- a copy's bytes for a peer's scratchpad: pod, partition, context, workgroup index and launch, address (R414) -/
  | pad (pod part ctx w lvlk addr : Nat) (bytes : List Byte)
  /-- a copy's signal for a peer's receive counter (R415) -/
  | count (pod part ctx idx : Nat)
  deriving DecidableEq, Repr

/-- What a transaction of the scale-up fabric carries (R40): a vendor-defined message, lanes' native reads, writes and atomics, or up
to 256 bytes of a copy for a location of peer memory. -/
inductive FabLoad where
  | note (o : Outgoing)
  | lanes (reqs : List Nat)
  | data (loc : Nat) (bytes : List Byte)
  deriving DecidableEq, Repr

/-- A transaction queued at a fabric port (R43): the pod that it goes to, its number among this device's to that pod, and the copy that
sends it. -/
structure FabMsg where
  port : Nat
  pod : Nat
  seq : BitVec 12
  copy : Option Nat
  load : FabLoad
  deriving DecidableEq, Repr

/-- The sequence numbers of a peer: the next one to be given, and the next one that the peer takes (R43). -/
structure FabSeq where
  pod : Nat
  next : BitVec 12
  expect : BitVec 12
  deriving DecidableEq, Repr

/-! ## Whose turn it is -/

/-- What a unit of the package does that no row of the opcode table names: a packet crosses one link of its route (R32); a rail is
switched (R11); the link core sets the completion timeout (R44), or a port comes back up (R43, R46); the data-link layer of a fabric
port corrects a flit (R40), or the port sends the first transaction of its queue (R43); a copy's timeout ends, and an answer arrives
after one (R44); the host reads a partition's register window (R47, R71); a member has added a round's contributions (R195); the memory
core evicts a gathered page, or delivers a partial one early (R193, R202); a deputy releases a job's record (R69); a remote client writes
a packet into a slot of a queue (R78). -/
inductive UnitTurn where
  | hop (pkt : Nat)
  | rail (socket : Nat) (on : Bool)
  | timeout (k : Nat)
  | ethUp (port : Nat)
  | fabricUp (port : Nat)
  | flitError (port : Nat)
  | fabricSend (port : Nat)
  | copyTimeout (copy : Nat)
  | lateAnswer (die : Nat)
  | hostReg (part ofs n : Nat)
  | addition (ctx page : Nat) (round : BitVec 16)
  | evictPage (ctx page : Nat)
  | early (ctx page : Nat)
  | release (job : Nat)
  | netWrite (part q slot : Nat) (bytes : List Byte)
  deriving DecidableEq, Repr

/-- Which agent moves next: a pipe of a core at its next issue cycle (R97), an event, the passing of cycles on a die, or a
write by an agent outside the device to host, expander or peer memory. -/
inductive Turn where
  | pipe (p : Nat)
  | event (i : Instr)
  | cycles (die n : Nat)
  | outside (loc : Nat) (bytes : List Byte)
  | unit (u : UnitTurn)
  deriving DecidableEq, Repr

/-! ## The state -/

/-- The whole machine. Pipes are numbered 32·die + 4·core + pipe. A memory location is (kind of R23) · 2^48 + an offset:
for kind 0x0 the offset is 2^35 · (home die) + the die-local address of R24, for the other kinds it is PA[47:0]. -/
structure State where
  /-- who moves next, first to last; empty: the default turn -/
  agenda : List Turn
  /-- the troupe whose instruction is being executed: workgroup and index -/
  cur : Nat × Nat
  /-- the model's counters: of free values (R144), and of names for requests, mappings and items -/
  free : Nat
  fresh : Nat
  mem : List Host.Cell
  routers : List Router
  dies : List Die
  linksDown : List (Nat × Nat)
  notices : List Notice
  seqs : List SeqSt
  packets : List Packet
  fabricDown : List Nat
  /-- transactions queued at the fabric ports, oldest first, their numbers, and the corrected link errors of each port (R40, R43) -/
  fabQ : List FabMsg
  fabSeqs : List FabSeq
  flitErrs : List Word
  /-- by die: answers still to come from outside the package to requests whose timeout has ended (R44) -/
  lates : List Nat
  timeoutK : Nat
  ethDown : List Nat
  cxlTraining : List Nat
  boot : Boot
  partitions : List Partition
  ctxs : List Ctx
  frames : List Frame
  mailboxes : List Mailbox
  mailSeqs : List MailSeq
  ccCores : List CcCore
  jobs : List Job
  levels : List Level
  graphs : List Graph
  counts : List CountMsg
  steals : List Steal
  offers : List Offer
  adms : List Adm
  wgs : List Workgroup
  troupes : List Troupe
  pipes : List Pipe
  bufs : List Buf
  reqs : List MemReq
  splits : List Split
  copies : List Copy
  signals : List (Nat × Nat)
  fills : List Fill
  lines : List CLine
  l2 : List L2Line
  regions : List Region
  txns : List Txn
  wbs : List WriteBack
  combines : List Combine
  walks : List Walk
  tlbs : List Tlb
  invals : List Inval
  resolving : List (Nat × Nat)
  /-- those of them that an agent's store waits to have opened (R192) -/
  opens : List (Nat × Nat)
  /-- pages that agents other than lanes wait for, and the code with which their resolver failed -/
  awaited : List (Nat × Nat × Option Byte)
  migrs : List Migr
  banks : List Bank
  leases : List Lease
  gathers : List Gather
  parts : List Part
  reductions : List Reduction
  deferred : List Deferred
  /-- the windows that contexts of other devices export, as those devices answer: pod, partition, context, length (R42) -/
  peerWins : List (Nat × Nat × Nat × Nat)
  errors : List ErrRec
  out : List Outgoing
  deriving DecidableEq, Repr

/-! ## The outcomes of a step -/

/-- Why the machine stops. -/
inductive Fault where
  /-- raised by `step` on a module that a failed ROM stage keeps in reset (R53, stage 1); safe: nothing moves there -/
  | moduleInReset
  /-- raised by `step` on a module halted after a boot-stopped entry (R58); safe: nothing moves there -/
  | moduleHalted
  deriving DecidableEq, Repr

/-- Why an instruction has no meaning. -/
inductive Refusal where
  /-- raised by `exec` for an instruction not modelled yet; safe -/
  | notModelled (mnemonic : String)
  deriving DecidableEq, Repr

/-! ## Reset -/

/-- The stealing state of a core at reset (R98): the LFSR is seeded with 0x8000 or g, g the package-wide core number. -/
def CoreSt.reset (g : Nat) : CoreSt := ⟨0x8000#16 ||| BitVec.ofNat 16 g, 0, 0⟩

/-- A C-die at reset: DPH 0 and every PHCOMP 0xFFFF (R238), HBMPAGE.IDLE 0x0100 (R176), LEASELOG2 22 (R216), ENRATE 0
(R61), counters 0 (R178, R201, R227). -/
def Die.reset (d : Nat) : Die where
  cycle := 0
  resetting := false
  dph := 0
  phcomp := List.replicate 32 0xFFFF#16
  idle := 0x0100#16
  corr := 0
  uncorr := 0
  damaged := []
  failing := []
  lapses := 0
  evict := 0
  merges := 0
  splits := 0
  roundLost := 0
  early := 0
  defer := 0
  gfail := 0
  leaseLog2 := 22
  ceil := 0
  rate := 0
  credited := 0
  notices := []
  slots := 0
  cores := (List.range 8).map fun c => CoreSt.reset (8 * d + c)

/-- The router of a socket at power-on (R38): life 0x0000, STALE 0. -/
def Router.reset (s : Nat) : Router where
  life := 0
  stale := 0
  refused := 0
  fenced := false
  powered := decide (s < 52)
  inReset := true
  known := []
  epoch := 0
  down := []
  prevDown := []
  settled := 0
  clock := 0

/-- A job queue at reset (R72): LOG2SIZE 4, everything else 0. -/
def JobQueue.reset : JobQueue := ⟨0, 0, 4, false, false, 0, 0, 0⟩

def Pipe.reset : Pipe := ⟨[], 0, none, 0, (0, 0), [], [], []⟩

/-- The security core before the boot stages run (R50 to R58). -/
def Boot.reset : Boot where
  start := 0
  up := false
  restart := false
  dead := false
  halted := false
  seq := 0
  journal := []
  measured := []
  images := []
  broken := []
  idKey := true
  plan := [List.range 32]
  nextPlan := [List.range 32]
  movedReset := []
  fuse := 0
  pod := 0
  podTaken := false
  fenced := []

/-- The machine at power-on, before the first boot stage. -/
def State.reset : State where
  agenda := []
  cur := (0, 0)
  free := 0
  fresh := 1
  mem := []
  routers := (List.range 64).map Router.reset
  dies := (List.range 32).map Die.reset
  linksDown := []
  notices := []
  seqs := []
  packets := []
  fabricDown := []
  fabQ := []
  fabSeqs := []
  flitErrs := List.replicate 16 0
  lates := []
  timeoutK := 24
  ethDown := []
  cxlTraining := []
  boot := Boot.reset
  partitions := []
  ctxs := []
  frames := []
  mailboxes := []
  mailSeqs := []
  ccCores := []
  jobs := []
  levels := []
  graphs := []
  counts := []
  steals := []
  offers := []
  adms := []
  wgs := []
  troupes := []
  pipes := List.replicate 1024 Pipe.reset
  bufs := []
  reqs := []
  splits := []
  copies := []
  signals := []
  fills := []
  lines := []
  l2 := []
  regions := []
  txns := []
  wbs := []
  combines := []
  walks := []
  tlbs := []
  invals := []
  resolving := []
  opens := []
  awaited := []
  migrs := []
  banks := []
  leases := []
  gathers := []
  parts := []
  reductions := []
  deferred := []
  peerWins := []
  errors := []
  out := []

end Sys2Proof.Machine
end

