-- ==== Sys2Proof/Machine/Mesh.lean ====
section
/-! DEFINITION. The base mesh as every agent sees it (R9 to R13, R19, R32, R38, R39): its routes, its routers and sockets, and whether a
request from one socket reaches another. -/

namespace Sys2Proof.Machine

/-! ## Routes (R32) -/

def linkOf (a b : Nat) : Nat × Nat := (min a b, max a b)

/-- The routers at the other ends of a router's links: the mesh is 8 columns by 8 rows (R9). -/
def meshNear (r : Nat) : List Nat :=
  (if 8 ≤ r then [r - 8] else []) ++ (if r % 8 = 0 then [] else [r - 1]) ++ (if r % 8 = 7 then [] else [r + 1])
    ++ (if r < 56 then [r + 8] else [])

/-- The routers passed from a to column c of its row, and from a to row k of its column. -/
def alongRow (a c : Nat) : List Nat :=
  if a % 8 ≤ c then (List.range (c - a % 8)).map fun i => a + 1 + i else (List.range (a % 8 - c)).map fun i => a - 1 - i
def alongCol (a k : Nat) : List Nat :=
  if a / 8 ≤ k then (List.range (k - a / 8)).map fun i => a + 8 * (i + 1) else (List.range (a / 8 - k)).map fun i => a - 8 * (i + 1)

/-- X first, then Y; Y first, then X. -/
def xyPath (a b : Nat) : List Nat := let p := alongRow a (b % 8); p ++ alongCol (p.getLastD a) (b / 8)
def yxPath (a b : Nat) : List Nat := let p := alongCol a (b / 8); p ++ alongRow (p.getLastD a) (b % 8)

/-- The links of a path that starts at a router. -/
def pathLinks : Nat → List Nat → List (Nat × Nat)
  | _, [] => []
  | a, b :: r => linkOf a b :: pathLinks b r

/-- A tree of live links grown breadth first, lower routers first: each router with the one it hangs from. -/
def growTree (down : List (Nat × Nat)) : Nat → List (Nat × Nat) → List (Nat × Nat)
  | 0, t => t
  | n + 1, t =>
    growTree down n (t.foldl (fun u x => (meshNear x.1).foldl (fun u y =>
      if down.contains (linkOf x.1 y) || u.any (·.1 == y) then u else u ++ [(y, x.1)]) u) t)

/-- The spanning tree of the live links that reach a router, rooted at the lowest-numbered router of them. -/
def spanTree (down : List (Nat × Nat)) (a : Nat) : List (Nat × Nat) :=
  let root := ((growTree down 63 [(a, a)]).map Prod.fst).foldl min a
  growTree down 63 [(root, root)]

/-- The routers from one up to the root, itself first. -/
def rootPath (t : List (Nat × Nat)) : Nat → Nat → List Nat
  | 0, a => [a]
  | n + 1, a =>
    match t.find? (·.1 == a) with
    | some (_, p) => if p = a then [a] else a :: rootPath t n p
    | none => [a]

/-- The escape route: up and down the tree. -/
def treeRoute (down : List (Nat × Nat)) (a b : Nat) : Option (List Nat) :=
  let t := spanTree down a
  if t.any (·.1 == b) then
    let ua := rootPath t 64 a
    let ub := rootPath t 64 b
    let up := ua.takeWhile fun x => !ub.contains x
    let top := (ua.drop up.length).headD a
    some ((up ++ [top]).drop 1 ++ (ub.takeWhile (· != top)).reverse)
  else none

/-- The route that a router's tables give (R32): whether it is on the tree, and the routers from the next one on. -/
def meshPath (down : List (Nat × Nat)) (tree : Bool) (a b : Nat) : Option (Bool × List Nat) :=
  let live (p : List Nat) : Bool := (pathLinks a p).all fun l => !down.contains l
  if !tree && live (xyPath a b) then some (false, xyPath a b)
  else if !tree && live (yxPath a b) then some (false, yxPath a b)
  else (treeRoute down a b).map fun p => (true, p)

/-! ## Routers and sockets (R11, R13, R38, R39) -/

def State.router (s : State) (r : Nat) : Router := s.routers.getD r (Router.reset r)
def State.modRouter (s : State) (r : Nat) (f : Router → Router) : State := { s with routers := modAt s.routers r f }

/-- A socket that takes requests. -/
def State.socketOn (s : State) (d : Nat) : Bool := (s.router d).powered && !(s.router d).fenced

/-- The partition that a die belongs to. -/
def State.partOfDie (s : State) (d : Nat) : Option Nat := s.partitions.findIdx? fun p => p.dies.contains d

/-- Whether the base delivers requests from a socket to another: between C-dies, only within a partition (R19). -/
def State.sharesPart (s : State) (src dst : Nat) : Bool :=
  src == dst || decide (32 ≤ src) || decide (32 ≤ dst) || s.partOfDie src == s.partOfDie dst

/-- Whether a request from a socket to another leaves its router (R13, R19, R32). -/
def State.reachable (s : State) (src dst : Nat) : Bool :=
  s.socketOn dst && s.sharesPart src dst && (meshPath (s.router src).down false src dst).isSome

def State.modDie (s : State) (d : Nat) (f : Die → Die) : State := { s with dies := modAt s.dies d f }
def State.die (s : State) (d : Nat) : Die := s.dies.getD d (Die.reset d)
def State.clockOf (s : State) (d : Nat) : Nat := (s.die d).cycle

/-- A socket's life number (R38), and another socket's as a router last knew it (R39). -/
def State.lifeOf (s : State) (d : Nat) : BitVec 16 := (s.routers.getD d (Router.reset d)).life
def State.knownLife (s : State) (src dst : Nat) : BitVec 16 :=
  (((s.routers.getD src (Router.reset src)).known.find? fun k => k.1 == dst).map Prod.snd).getD 0

/-- A router learns another socket's life. -/
def State.learnLife (s : State) (r d : Nat) : State :=
  let life := s.lifeOf d
  s.modRouter r fun x => { x with known := (x.known.filter fun k => k.1 != d) ++ [(d, life)] }

/-- How the base answers a request at once (R13, R19, R39): it never leaves its router, or its life is refused. -/
inductive Gap where
  | unreached | life
  deriving DecidableEq, Repr

/-- Why a request from a die to a home would not be taken, if it would not. -/
def State.gap (s : State) (src dst : Nat) : Option Gap :=
  if src = dst then none
  else if !s.reachable src dst || (s.router dst).inReset then some .unreached
  else if s.knownLife src dst ≠ s.lifeOf dst then some .life
  else none

/-- What the routers note of it: a count, or the new life. -/
def State.noteGap (s : State) (src dst : Nat) : State :=
  match s.gap src dst with
  | none => s
  | some .unreached => s.modRouter src fun r => { r with refused := r.refused + 1 }
  | some .life => s.learnLife src dst


end Sys2Proof.Machine
end

