-- ==== Sys2Proof/Machine/Space.lean ====
section
/-! DEFINITION. Memory as a canonical list of cells, where a physical address lives (R20 to R26), the view of a location at its
coherence point, and the page walk (R159 to R165, R181). -/

namespace Sys2Proof.Machine

/-! ## Cells -/

/-- What a byte that nothing has written reads as. The manual gives RAM no reset contents: log entry 2. -/
def emptyByte : Byte := 0

/-- The byte at an address of a list of cells whose addresses rise. -/
def cellGet : List Host.Cell → Nat → Byte
  | [], _ => emptyByte
  | (b, v) :: m, a => if b = a then v else if a < b then emptyByte else cellGet m a

/-- The list of cells with one byte changed, in canonical form. -/
def cellSet : List Host.Cell → Nat → Byte → List Host.Cell
  | [], a, v => if v = emptyByte then [] else [(a, v)]
  | (b, w) :: m, a, v =>
    if b = a then (if v = emptyByte then m else (a, v) :: m)
    else if a < b then (if v = emptyByte then (b, w) :: m else (a, v) :: (b, w) :: m)
    else (b, w) :: cellSet m a v

/-- The canonical form: addresses strictly rising from `lo`, no cell equal to what an unlisted address reads as. -/
def Memory.wfFrom : Nat → List Host.Cell → Bool
  | _, [] => true
  | lo, (a, v) :: m => decide (lo ≤ a) && v != emptyByte && Memory.wfFrom (a + 1) m

/-- The canonical form of a memory. -/
def Memory.wf (m : List Host.Cell) : Bool := Memory.wfFrom 0 m

/-- n bytes from an address up. -/
def cellsGet (m : List Host.Cell) (a : Nat) : Nat → List Byte
  | 0 => []
  | n + 1 => cellGet m a :: cellsGet m (a + 1) n

/-- The bytes written from an address up. -/
def cellsSet (m : List Host.Cell) (a : Nat) : List Byte → List Host.Cell
  | [] => m
  | b :: bs => cellsSet (cellSet m a b) (a + 1) bs

/-! ## Contexts and placement -/

/-- Contexts are numbered per partition; this is the name used for one everywhere in the state. -/
def Ctx.key (c : Ctx) : Nat := 256 * c.part + c.num

def State.ctx? (s : State) (key : Nat) : Option Ctx := s.ctxs.find? fun c => c.key == key

def Ctx.diesMask (c : Ctx) : BitVec 32 := c.place.extractLsb' 0 32
def Ctx.mode (c : Ctx) : Nat := fieldD c.place 35 34
/-- The dies of a context, lowest first. -/
def Ctx.dies (c : Ctx) : List Nat := setBits c.diesMask

/-- m of R22: the number of presented devices. -/
def Ctx.devs (c : Ctx) : Nat :=
  match c.mode with
  | 1 => 2
  | 2 => c.dies.length
  | _ => 1

/-- D_j of R22. -/
def Ctx.devDies (c : Ctx) (j : Nat) : List Nat :=
  match c.mode with
  | 1 => if j = 0 then c.dies.take (c.dies.length / 2) else c.dies.drop (c.dies.length / 2)
  | 2 => (c.dies.drop j).take 1
  | _ => c.dies

/-- The presented device that a die belongs to. -/
def Ctx.devOf (c : Ctx) (die : Nat) : Nat :=
  ((List.range c.devs).find? fun j => (c.devDies j).contains die).getD 0

/-- The die that leads a presented device (R22), and the lowest-numbered die of the context. -/
def Ctx.lead (c : Ctx) (j : Nat) : Nat := (c.devDies j).headD 0
def Ctx.lowDie (c : Ctx) : Nat := c.dies.headD 0

/-- The die-local frames of a die (R15, R25). -/
def dieFrames : Nat := 6291456

/-- The home die and the die-local frame of frame F (R24), none where the home refuses it (R25). -/
def Ctx.homeFrame (c : Ctx) (f : Nat) : Option (Nat × Nat) :=
  let f := f % 2 ^ 40
  let b := f / 2 ^ 20
  let x := Nat.xor f c.seed.toNat
  let h := Nat.xor (Nat.xor (x % 2 ^ 20) (x / 2 ^ 20 % 2 ^ 20)) (Nat.xor (x / 2 ^ 40 % 2 ^ 20) (x / 2 ^ 60))
  let j := b % c.devs
  let d := c.devDies j
  let n := d.length
  if n = 0 then none
  else
    let l := b / c.devs * cdiv (2 ^ 20) n + h / n
    if l < dieFrames then some (d.getD (h % n) 0, l) else none

/-- The offset of a die-local address in the locations of kind 0x0 (see `State.mem`). -/
def dieBase (die : Nat) : Nat := 2 ^ 35 * die

/-- The kind of a physical address (R23). -/
def paKind (pa : Nat) : Nat := pa / 2 ^ 48 % 16

/-- The memory location of a physical address of kinds 0x0, 0x8, 0x9 and 0xA, none where R25 refuses it. -/
def Ctx.locOf (c : Ctx) (pa : Nat) : Option Nat :=
  if paKind pa = 0 then
    (c.homeFrame (pa / 2 ^ 12)).map fun (d, l) => dieBase d + l * 2 ^ 12 + pa % 2 ^ 12
  else some (pa % 2 ^ 52)

/-- The kind of a location, and its home die when it is of kind 0x0. -/
def locKind (loc : Nat) : Nat := loc / 2 ^ 48
def locDie (loc : Nat) : Nat := loc / 2 ^ 35 % 2 ^ 13

/-! ## Where a line stands in its die's memory (R15, R26) -/

/-- Channel of the die, pseudo-channel, bank group, bank, row and column of a line. -/
structure HbmPlace where
  channel : Nat
  pseudo : Nat
  group : Nat
  bank : Nat
  row : Nat
  column : Nat
  deriving DecidableEq, Repr

/-- The split and hash of R26: the row is DA[34:19], the column is DA[18:17] and DA[7:6]. -/
def hbmPlace (ln : Nat) : HbmPlace :=
  let r := ln / 2 ^ 13 % 2 ^ 16
  let f (da w : Nat) (rs : List Nat) : Nat := (rs.map fun k => r / 2 ^ k % 2 ^ w).foldl Nat.xor (64 * ln / 2 ^ da % 2 ^ w)
  ⟨f 8 4 [0, 9], f 12 1 [4, 13], f 13 2 [5, 14], f 15 2 [7], r, 4 * (ln / 2 ^ 11 % 4) + ln % 4⟩

/-- The stack channel of a die's channel (R15, R26). -/
def stackChannel (die channel : Nat) : Nat := 16 * (die % 2) + channel

/-- The banks of a die numbered. -/
def HbmPlace.number (p : HbmPlace) : Nat := 32 * p.channel + 16 * p.pseudo + 4 * p.group + p.bank

/-! ## The view at the coherence point -/

/-- The bytes that a cached line or a write-back holds for its home: its dirty bytes. -/
def CLine.owns (l : CLine) (ln ofs : Nat) : Bool := l.line == ln && l.excl && l.dirty.getLsbD ofs

def WriteBack.owns (w : WriteBack) (ln ofs : Nat) : Bool := w.line == ln && w.owner && w.mask.getLsbD ofs

/-- A migrating frame's entry for a location whose line is not present yet (R172). -/
def State.migrOf? (s : State) (loc : Nat) : Option Migr :=
  s.migrs.find? fun m => m.frame == loc / 4096 && !m.present.getLsbD (loc / 64 % 64)

/-- The byte that an owner, or a write-back on its way, holds for a location (R208). -/
def State.ownedByte (s : State) (loc : Nat) : Option Byte :=
  let ln := loc / 64
  let ofs := loc % 64
  match s.lines.find? (fun l => l.core.isSome && l.owns ln ofs) with
  | some l => some (l.data.getD ofs 0)
  | none =>
    match s.lines.find? (fun l => l.owns ln ofs) with
    | some l => some (l.data.getD ofs 0)
    | none => (s.wbs.find? fun w => w.owns ln ofs).map fun w => w.data.getD ofs 0

/-- The value of a byte that is last in its coherence order (R208): the owner's dirty byte, else a write-back on its way, else
memory, which for a line of a migrating frame that is not present is its old place (R172). -/
def State.viewByte (s : State) (loc : Nat) : Byte :=
  match s.ownedByte loc, s.migrOf? loc with
  | some b, _ => b
  | none, some m =>
    let old := m.old * 4096 + loc % 4096
    (s.ownedByte old).getD (cellGet s.mem old)
  | none, none => cellGet s.mem loc

/-- n bytes of the view. -/
def State.view (s : State) (loc n : Nat) : List Byte := (List.range n).map fun i => s.viewByte (loc + i)

/-- A 64-bit little-endian word of the view. -/
def State.viewD (s : State) (loc : Nat) : DWord := BitVec.ofNat 64 (leNat (s.view loc 8))

/-- Whether a line stands in its home's damaged-line table (R178). -/
def State.isDamaged (s : State) (ln : Nat) : Bool :=
  locKind (64 * ln) == 0 && ((s.dies.getD (locDie (64 * ln)) (Die.reset 0)).damaged.contains ln)

/-- The lines that a range of bytes touches. -/
def linesOf (loc n : Nat) : List Nat :=
  if n = 0 then [] else (List.range ((loc + n - 1) / 64 + 1 - loc / 64)).map fun i => loc / 64 + i

def State.anyDamaged (s : State) (loc n : Nat) : Bool := (linesOf loc n).any s.isDamaged

/-- Whether the L2 of its home holds a line (R150). -/
def State.inL2 (s : State) (ln : Nat) : Bool := s.l2.any fun x => x.line == ln

/-- Whether a read of a line's data cannot be corrected, and no table entry remembers it (R177, R178): memory fails, and the L2 does not
hold the line. -/
def State.isFailing (s : State) (ln : Nat) : Bool := (s.dies.any fun d => d.failing.contains ln) && !s.inL2 ln

/-- The dirty bytes that every copy and write-back of a line holds for its home are merged there, and the tracked copies are
dropped (a recall, R210). Untracked copies stay (R205). -/
def State.recallLine (s : State) (ln : Nat) : State :=
  let bytes := (List.range 64).map fun i => s.viewByte (64 * ln + i)
  let held := s.lines.any (fun l => l.line == ln && l.excl && l.dirty != 0)
    || s.wbs.any (fun w => w.line == ln && w.owner && w.mask != 0)
  { s with
    mem := if held || (s.migrOf? (64 * ln)).isSome then cellsSet s.mem (64 * ln) bytes else s.mem
    lines := s.lines.filter fun l => !(l.line == ln && (l.tracked || l.excl))
    wbs := s.wbs.map fun w => if w.line == ln && w.owner then { w with owner := false } else w
    migrs := s.migrs.map fun m => if m.frame == ln / 64 then { m with present := m.present ||| (1#64 <<< (ln % 64)) } else m
    regions := s.regions.map fun r =>
      if r.base ≤ ln && ln < r.base + 2 ^ r.size && r.size == 0 then { r with st := .i, hold := 0, owner := 0 } else r }

/-- A line's memory has good data again. -/
def State.unfail (s : State) (ln : Nat) : State :=
  { s with dies := s.dies.map fun d => { d with failing := d.failing.filter fun x => x != ln } }

/-- A whole-line write, or a remap, removes the line from the damaged-line table (R178). -/
def State.undamage (s : State) (ln : Nat) : State :=
  let s := s.unfail ln
  if locKind (64 * ln) == 0 then
    { s with dies := modAt s.dies (locDie (64 * ln)) fun d => { d with damaged := d.damaged.filter fun x => x != ln } }
  else s

/-- The slice of the home's L2 that a line lives in (R152): DA[9:6] xor DA[17:14] xor DA[25:22]. -/
def l2Slice (ln : Nat) : Nat := Nat.xor (Nat.xor (ln % 16) (ln / 2 ^ 8 % 16)) (ln / 2 ^ 16 % 16)

/-- The lines of a slice of 3 MiB (R14, R150), of an L1 of 256 KiB and of an RDC of 16 MiB. -/
def sliceLines : Nat := 49152
def l1Lines : Nat := 4096
def rdcLines : Nat := 262144

/-- A line of kind 0x0 is read or written in its home's L2 (R150). Where its slice is full, the line that came first leaves it, to memory
if memory does not have it: which line leaves is not architectural (R151). -/
def State.inSlice (s : State) (ln : Nat) (wr : Bool) : State :=
  if locKind (64 * ln) ≠ 0 then s
  else if s.inL2 ln then { s with l2 := s.l2.map fun x => if x.line == ln then { x with dirty := x.dirty || wr } else x }
  else
    let die := locDie (64 * ln)
    let mine := s.l2.filter fun x => x.die == die && l2Slice x.line == l2Slice ln
    let s := match (if sliceLines ≤ mine.length then mine.head? else none) with
      | some x => (if x.dirty then s.unfail x.line else s)
      | none => s
    let keep := match (if sliceLines ≤ mine.length then mine.head? else none) with
      | some x => s.l2.filter (· != x)
      | none => s.l2
    { s with l2 := keep ++ [⟨die, ln, wr⟩] }

/-- Bytes written at the coherence point by an agent that holds no cache: a command-complex core, a copy agent, a host. -/
def State.viewWrite (s : State) (loc : Nat) (bytes : List Byte) : State :=
  let s := (linesOf loc bytes.length).foldl State.recallLine s
  let s := ((linesOf loc bytes.length).filter fun ln => loc ≤ 64 * ln && 64 * ln + 64 ≤ loc + bytes.length).foldl
    State.undamage s
  let s := (linesOf loc bytes.length).foldl (fun s ln => s.inSlice ln true) s
  { s with mem := cellsSet s.mem loc bytes }

/-! ## The page walk -/

/-- Fault codes (R249). -/
def xlate : Byte := 0x08
def protect : Byte := 0x09
def memerr : Byte := 0x10
def linkerr : Byte := 0x11
def damagedCode : Byte := 0x14
def leaseCode : Byte := 0x12

/-- The code of an access to a line that stands in the damaged-line table, or whose data fails. -/
def State.badLines (s : State) (loc n : Nat) : Option Byte :=
  if (linesOf loc n).any s.isFailing then some memerr else if s.anyDamaged loc n then some damagedCode else none

/-- How a walk ends. -/
inductive WalkEnd where
  | fault (code : Byte)
  /-- an absent state, handed to the memory core (R166) -/
  | absent
  /-- a leaf that the hardware completes or that is sharded: the entry, its level, its location -/
  | leaf (pte : DWord) (level : Nat) (loc : Nat)
  deriving DecidableEq, Repr

def pteShare (p : DWord) : Nat := fieldD p 63 61
def pteGroup (p : DWord) : Nat := fieldD p 60 57
def pteRole (p : DWord) : Bool := p.getLsbD 56
def pteRfmt (p : DWord) : Bool := p.getLsbD 55
def pteTyped (p : DWord) : Bool := p.getLsbD 54
def ptePfn (p : DWord) : Nat := fieldD p 51 12
def pteX (p : DWord) : Bool := p.getLsbD 5
def pteW (p : DWord) : Bool := p.getLsbD 4
def pteR (p : DWord) : Bool := p.getLsbD 3
def pteLeaf (p : DWord) : Bool := p.getLsbD 2
def pteC64 (p : DWord) : Bool := p.getLsbD 1
/-- The kind of the entry's frame: PA[51:48]. -/
def pteKind (p : DWord) : Nat := fieldD p 51 48
/-- Bits that must be 0 (R161). -/
def pteBad (p : DWord) : Bool := fieldD p 53 52 != 0 || p.getLsbD 8 || p.getLsbD 0

/-- The 256 bytes of an entry of the shard group table (R180). -/
def State.groupEntry (s : State) (c : Ctx) (g : Nat) : Option (List Byte) :=
  (c.locOf (fieldD c.shard 51 12 * 4096 + 256 * g)).map fun l => s.view l 256

def geN (e : List Byte) : Nat := leAt e 0 1
def geSelf (e : List Byte) : Nat := leAt e 1 1
def geLease (e : List Byte) : Nat := leAt e 2 1
def geGid (e : List Byte) : Word := BitVec.ofNat 32 (leAt e 4 4)
def geStage (e : List Byte) : Nat := leAt e 8 8
def geStageSize (e : List Byte) : Nat := leAt e 16 8
def gePeer (e : List Byte) (m : Nat) : Nat := leAt e (64 + m) 1

/-- The checks of R181 on a group's entry. -/
def groupOk (c : Ctx) (e : List Byte) : Bool :=
  let n := geN e
  1 ≤ n && n ≤ 64 && geSelf e < n && 16 ≤ geLease e && geLease e ≤ 30 && leAt e 3 1 == 0
    && leAt e 24 40 == 0 && leAt e 128 128 == 0
    && (List.range n).all fun m => m == geSelf e || c.peers.any fun p => p.e == gePeer e m

/-- A leaf's checks by share state (R160, R162, R164, R181). -/
def State.leafEnd (s : State) (c : Ctx) (p : DWord) (level : Nat) (loc va : Nat) : WalkEnd :=
  let pfn := ptePfn p
  if level = 4 then .fault xlate
  else if pfn % 2 ^ (9 * (level - 1)) ≠ 0 then .fault xlate
  else if level = 1 && pteC64 p && pfn % 16 != va / 2 ^ 12 % 16 then .fault xlate
  else
    let kind := pteKind p
    match pteShare p with
    | 0 => .absent
    | 1 => if kind = 0 then .leaf p level loc else .fault xlate
    | 5 => .leaf p level loc
    | 6 => if kind = 8 || kind = 9 || kind = 10 || kind = 15 then .leaf p level loc else .fault xlate
    | 7 => .fault xlate
    | _ =>
      if level ≠ 1 || pteC64 p || pteTyped p || kind ≠ 0 || c.mode ≠ 0 || !c.shard.getLsbD 0 then .fault xlate
      else
        match s.groupEntry c (pteGroup p) with
        | some e => if groupOk c e then .leaf p level loc else .fault xlate
        | none => .fault xlate

/-- The walk of the table at physical address `table`, at `level` (R160, R163). -/
def State.walkFrom (s : State) (c : Ctx) (va : Nat) : Nat → Nat → WalkEnd
  | 0, _ => .fault xlate
  | level + 1, table =>
    match c.locOf (table + 8 * (va / 2 ^ (12 + 9 * level) % 512)) with
    | none => .fault xlate
    | some loc =>
      if s.isDamaged (loc / 64) || s.isFailing (loc / 64) then .fault memerr
      else
        let p := s.viewD loc
        if pteBad p then .fault xlate
        else if pteLeaf p then s.leafEnd c p (level + 1) loc va
        else if pteShare p = 0 then .absent
        else if level = 0 || pteShare p ≠ 1 || pteKind p ≠ 0 then .fault xlate
        else s.walkFrom c va level (ptePfn p * 4096)

/-- The walk of a virtual address (R159). -/
def State.walk (s : State) (c : Ctx) (va : DWord) : WalkEnd :=
  if fieldD va 63 48 ≠ 0 then .fault xlate
  else if !c.ptb.getLsbD 0 then .fault xlate
  else s.walkFrom c va.toNat 4 (fieldD c.ptb 51 12 * 4096)

/-- The physical address that a leaf gives (R160). -/
def leafPa (p : DWord) (level : Nat) (va : DWord) : Nat :=
  let w := 12 + 9 * (level - 1)
  ptePfn p * 4096 / 2 ^ w * 2 ^ w + va.toNat % 2 ^ w

/-- The permission that an access needs (R165). -/
inductive Need where
  | read | write | atom | fetch
  deriving DecidableEq, Repr

def ptePermits (p : DWord) : Need → Bool
  | .read => pteR p
  | .write => pteW p
  | .atom => pteR p && pteW p
  | .fetch => pteX p

/-- Why an access waits for its translation (R162, R166, R187, R192): its page has to be walked, or resolved. -/
inductive ParkWhy where
  | walk | absent | gather | opening
  deriving DecidableEq, Repr

/-- How a translation ends: a fault code, a page to wait for, or a location with its leaf. -/
inductive XlatEnd where
  | fault (code : Byte)
  | park (why : ParkWhy)
  | at (loc : Nat) (pte : DWord)
  deriving DecidableEq, Repr

/-- A cached leaf of a migrating page whose frame has no entry in a migration table is treated as local (R174). -/
def State.settledLeaf (s : State) (t : Tlb) : Tlb :=
  if pteShare t.pte = 5 && !((s.ctx? t.ctx).any fun c => s.migrs.any fun m =>
      some (64 * m.frame) == (c.locOf (ptePfn t.pte * 4096)).map (· / 64)) then
    { t with pte := (t.pte &&& 0x1FFFFFFFFFFFFFFF#64) ||| 0x2000000000000000#64 }
  else t

/-- The leaf that a die holds for a page, if it has one cached (R170). -/
def State.tlb? (s : State) (die key page : Nat) : Option Tlb :=
  (s.tlbs.find? fun t => t.die == die && t.ctx == key && t.page == page).map s.settledLeaf

/-- Whether an access writes. -/
def Need.writes : Need → Bool
  | .write => true
  | .atom => true
  | _ => false

/-- The end of a leaf for an access (R162, R165, R25, R187, R191, R192). -/
def Ctx.leafAt (c : Ctx) (need : Need) (p : DWord) (level : Nat) (va : DWord) : XlatEnd :=
  let shared := pteShare p = 2 ∨ pteShare p = 3
  if !ptePermits p need then .fault protect
  else if shared && need.writes then (if pteRole p then .park .opening else .fault protect)
  else if pteShare p = 2 then .park .gather
  else
    match c.locOf (leafPa p level va) with
    | none => .fault xlate
    | some loc => .at loc p

/-- A translation through a die's cached leaf; a page that the die holds no leaf of must be walked (R166). -/
def State.translate (s : State) (c : Ctx) (die : Nat) (need : Need) (va : DWord) : XlatEnd :=
  if fieldD va 63 48 ≠ 0 then .fault xlate
  else
    match s.tlb? die c.key (va.toNat / 4096) with
    | some t => c.leafAt need t.pte t.level va
    | none => .park .walk

/-- The directory that keeps a location (R208, R221), or the die itself for kinds that are never cached (R151). -/
def Ctx.homeOf (c : Ctx) (die loc : Nat) : Nat :=
  match locKind loc with
  | 0 => locDie loc
  | 8 => c.lowDie
  | 9 => c.lowDie
  | _ => die

/-- The region flagged LLOST that a location lies in (R218). -/
def State.lost? (s : State) (home ln : Nat) : Option Region :=
  s.regions.find? fun r => r.llost && r.die == home && decide (r.base ≤ ln) && decide (ln < r.base + 2 ^ r.size)

/-- The flagged region that bytes of a location lie in, if any. -/
def State.lostIn? (s : State) (c : Ctx) (die loc n : Nat) : Option Region :=
  (linesOf loc n).findSome? fun ln => s.lost? (c.homeOf die loc) ln

/-- The outcome of a read or fetch that is served at once. -/
inductive ReadEnd where
  | fault (code : Byte)
  | park
  | bytes (b : List Byte)
  deriving DecidableEq, Repr

/-- The CXL port behind a kind of memory (R47). -/
def cxlPort (kind : Nat) : Nat := if kind = 9 then 0 else 1

/-- Whether no fabric port takes traffic: each is down, or on an X-die that is not there (R16, R40, R43). -/
def State.fabricCut (s : State) : Bool := (List.range 16).all fun p => s.fabricDown.contains p || !s.socketOn (48 + p / 4)

/-- Whether the CXL link behind a kind of memory takes no requests (R16, R48). -/
def State.cxlCut (s : State) (kind : Nat) : Bool := s.cxlTraining.contains (cxlPort kind) || !s.socketOn 51

/-- The fault of an access to peer memory (R42), none where the peer's window takes it. -/
def State.peerFault (s : State) (c : Ctx) (loc bytes : Nat) : Option Byte :=
  let e := loc / 2 ^ 40 % 2 ^ 8
  let ofs := loc % 2 ^ 40
  match c.peers.find? fun p => p.e == e with
  | none => some xlate
  | some p =>
    if p.pod = s.boot.pod.toNat then some xlate
    else if s.fabricCut then some linkerr
    else
      match s.peerWins.find? fun w => w.1 == p.pod && w.2.1 == p.part && w.2.2.1 == p.ctx with
      | none => some xlate
      | some w => if ofs + bytes ≤ w.2.2.2 then none else some protect

/-- Why an access to memory outside the package fails at once (R42, R43, R48). -/
def State.farFault (s : State) (c : Ctx) (loc n : Nat) : Option Byte :=
  if locKind loc = 10 then s.peerFault c loc n
  else if (locKind loc = 8 || locKind loc = 9) && s.cxlCut (locKind loc) then some linkerr
  else none

/-- Whether bytes of a location lie on a line of a migrating frame that is not present (R172). -/
def State.notPresent (s : State) (loc n : Nat) : Bool := (linesOf loc n).any fun ln => (s.migrOf? (64 * ln)).isSome

/-- n bytes read by address for an access that is served at once, page by page (`fuel` bounds the pages). It ends with LINKERR where the
request would not reach the home or its life is refused (R13, R39), and waits for lines of a migrating frame (R172). -/
def State.readVa (s : State) (c : Ctx) (die : Nat) (need : Need) (fuel : Nat) (va : DWord) (n : Nat) : ReadEnd :=
  match fuel with
  | 0 => .bytes []
  | fuel + 1 =>
    if n = 0 then .bytes []
    else
      let k := min n (4096 - va.toNat % 4096)
      match s.translate c die need va with
      | .fault e => .fault e
      | .park _ => .park
      | .at loc _ =>
        if locKind loc = 15 then .fault protect
        else if (s.gap die (c.homeOf die loc)).isSome then .fault linkerr
        else if (s.farFault c loc k).isSome then .fault ((s.farFault c loc k).getD 0)
        else if (s.lostIn? c die loc k).isSome then .fault leaseCode
        else if s.notPresent loc k then .park
        else if (s.badLines loc k).isSome then .fault ((s.badLines loc k).getD 0)
        else
          match s.readVa c die need fuel (va + BitVec.ofNat 64 k) (n - k) with
          | .bytes b => .bytes (s.view loc k ++ b)
          | e => e

end Sys2Proof.Machine
end

