-- ==== Sys2Proof/Machine/Ops.lean ====
section
/-! DEFINITION. The named operations on the state: finding and storing a troupe, its registers, renaming (R132 to R138), free
values (R144), taking a trap and returning from one (R245 to R253), and the end of a troupe (R102, R345). -/

namespace Sys2Proof.Machine

/-! ## Finding and storing -/

def State.troupe? (s : State) (wg trix : Nat) : Option Troupe := s.troupes.find? fun t => t.wg == wg && t.trix == trix

/-- The troupe whose instruction is being executed. -/
def State.cur? (s : State) : Option Troupe := s.troupe? s.cur.1 s.cur.2

/-- A troupe stored back under its workgroup and index. -/
def State.setTroupe (s : State) (t : Troupe) : State :=
  { s with troupes := s.troupes.map fun u => if u.wg == t.wg && u.trix == t.trix then t else u }

def State.wg? (s : State) (id : Nat) : Option Workgroup := s.wgs.find? fun w => w.id == id
def State.modWg (s : State) (id : Nat) (f : Workgroup → Workgroup) : State :=
  { s with wgs := modWhere s.wgs (fun w => w.id == id) f }
/-- Bytes that a workgroup has moved are metered (R62). -/
def State.moveBytes (s : State) (wg n : Nat) : State := s.modWg wg fun w => { w with used := w.used + Config.energyPerByte * n }
def State.modTroupe (s : State) (wg trix : Nat) (f : Troupe → Troupe) : State :=
  { s with troupes := modWhere s.troupes (fun t => t.wg == wg && t.trix == trix) f }
def State.modCtx (s : State) (key : Nat) (f : Ctx → Ctx) : State :=
  { s with ctxs := modWhere s.ctxs (fun c => c.key == key) f }
def State.pipe (s : State) (p : Nat) : Pipe := s.pipes.getD p Pipe.reset
def State.modPipe (s : State) (p : Nat) (f : Pipe → Pipe) : State := { s with pipes := modAt s.pipes p f }
def State.level? (s : State) (id : Nat) : Option Level := s.levels.find? fun l => l.id == id
def State.modLevel (s : State) (id : Nat) (f : Level → Level) : State :=
  { s with levels := modWhere s.levels (fun l => l.id == id) f }
def State.graph? (s : State) (lvl : Nat) : Option Graph := s.graphs.find? fun g => g.lvl == lvl
def State.modGraph (s : State) (lvl : Nat) (f : Graph → Graph) : State :=
  { s with graphs := modWhere s.graphs (fun g => g.lvl == lvl) f }
/-- A partition of the plan; one left without a die is omitted (R54). -/
def State.part (s : State) (p : Nat) : Option Partition := s.partitions[p]?.filter fun p => p.dies != []
def State.modPart (s : State) (p : Nat) (f : Partition → Partition) : State := { s with partitions := modAt s.partitions p f }
def State.req? (s : State) (id : Nat) : Option MemReq := s.reqs.find? fun r => r.id == id
def State.modReq (s : State) (id : Nat) (f : MemReq → MemReq) : State :=
  { s with reqs := modWhere s.reqs (fun r => r.id == id) f }
def State.split? (s : State) (id : Nat) : Option Split := s.splits.find? fun p => p.id == id

/-- A fresh name. -/
def State.bump (s : State) : State := { s with fresh := s.fresh + 1 }

/-- Records for the error core (R63). -/
def State.report (s : State) (es : List ErrRec) : State := { s with errors := s.errors ++ es }

/-- Where a pipe stands (R14). -/
def pipeDie (p : Nat) : Nat := p / 32
def pipeCore (p : Nat) : Nat := p / 4 % 8
def pipeLocal (p : Nat) : Nat := p % 4

def Troupe.die (t : Troupe) : Nat := pipeDie t.pipe
def Troupe.core (t : Troupe) : Nat := pipeCore t.pipe

/-- The workgroup of a troupe, and its context. -/
def State.wgOf (s : State) (t : Troupe) : Option Workgroup := s.wg? t.wg
def State.ctxOf (s : State) (t : Troupe) : Option Ctx := (s.wgOf t).bind fun w => s.ctx? w.ctx
def State.now (s : State) (t : Troupe) : Nat := (s.die t.die).cycle

/-! ## Masks of a troupe (R126, R127) -/

/-- The activity mask: s61, s62 and s63. -/
def Troupe.am (t : Troupe) : Mask := t.sregs.getD 63 0 ++ (t.sregs.getD 62 0 ++ t.sregs.getD 61 0)

/-- A predicate; p7 reads as all ones (R129). -/
def Troupe.pred (t : Troupe) (n : Nat) : Mask := if n < 7 then t.preds.getD n 0 else BitVec.allOnes 96

def Troupe.guardMask (t : Troupe) (c : Ctl) : Mask :=
  if c.neg then ~~~(t.pred c.guard.toNat) else t.pred c.guard.toNat

/-- The effective lanes of an instruction. -/
def Troupe.eff (t : Troupe) (c : Ctl) : Mask := t.am &&& t.guardMask c

/-- Whether an instruction that ignores the activity mask takes effect (R127). -/
def Troupe.takes (t : Troupe) (c : Ctl) : Bool := t.guardMask c != 0

/-- The number of beats that are not skipped (R126). -/
def beats (m : Mask) : Nat :=
  (if m.extractLsb' 0 32 = 0 then 0 else 1) + (if m.extractLsb' 32 32 = 0 then 0 else 1)
    + (if m.extractLsb' 64 32 = 0 then 0 else 1)

/-! ## Scalar registers, predicates, identity values (R129, R130) -/

def Troupe.setS (t : Troupe) (n : Nat) (v : Word) : Troupe :=
  if n < 64 then { t with sregs := t.sregs.set n v } else t

def Troupe.setSs (t : Troupe) (ws : List (Nat × Word)) : Troupe := ws.foldl (fun t w => t.setS w.1 w.2) t

/-- A write to p7 is discarded (R129). -/
def Troupe.setP (t : Troupe) (n : Nat) (m : Mask) : Troupe :=
  if n < 7 then { t with preds := t.preds.set n m } else t

/-- The level identifier of the nearest enclosing level of a kind, itself included. -/
def State.levelUp (s : State) (kinds : List LvlKind) : Nat → Option Nat → Option Level
  | 0, _ => none
  | fuel + 1, some l =>
    match s.level? l with
    | some v => if kinds.contains v.kind then some v else s.levelUp kinds fuel v.up
    | none => none
  | _, none => none

def noLevel : Word := 0xFFFFFFFF#32

/-- The identity value of an operand number (R130). -/
def State.ident (s : State) (t : Troupe) (n : Nat) : Word :=
  let nw (x : Nat) : Word := BitVec.ofNat 32 x
  match s.wgOf t with
  | none => 0
  | some w =>
    let lv (ks : List LvlKind) : Word := match s.levelUp ks 5 (some w.lvl) with | some l => l.ident | none => noLevel
    let grid (f : Level → Nat) : Word :=
      if w.node.isSome then 0 else match s.level? w.lvl with | some l => nw (f l) | none => 0
    match n with
    | 64 => 96
    | 65 => nw t.trix
    | 66 => nw w.troupes
    | 67 => if w.node.isSome then 0 else nw w.x
    | 68 => if w.node.isSome then 0 else nw w.y
    | 69 => if w.node.isSome then 0 else nw w.z
    | 70 => nw w.w
    | 71 => grid (·.x)
    | 72 => grid (·.y)
    | 73 => grid (·.z)
    | 74 => lv [.launch, .nodeLaunch]
    | 75 => lv [.graph]
    | 76 => lv [.step]
    | 77 => lv [.job]
    | 78 => nw t.die
    | 79 => nw t.idCore
    | 80 => nw (pipeLocal t.pipe)
    | 81 => nw t.idSlot
    | 82 => nw s.boot.pod.toNat
    | 83 => match s.ctx? w.ctx with | some c => nw (c.devOf t.die) | none => 0
    | 84 => nw t.allot
    | 85 => nw w.allot
    | 86 => match w.node with | some (_, n) => nw n | none => noLevel
    | 87 => nw (w.ctx % 256)
    | 88 => loW w.args
    | 89 => hiW w.args
    | 90 => loW w.inl
    | 91 => hiW w.inl
    | _ => 0

/-- The value of a scalar operand number, without the hazards of R144. -/
def State.sval (s : State) (t : Troupe) (n : Nat) : Word := if n < 64 then t.sregs.getD n 0 else s.ident t n

/-! ## Vector names (R132 to R138) -/

def Troupe.vreg? (t : Troupe) (n : Nat) : Option VReg := t.regs.find? fun r => r.name == n
def Troupe.mapped (t : Troupe) (n : Nat) : Bool := t.regs.any fun r => r.name == n

/-- The contents of a name; v255 reads zero in every lane (R129). -/
def Troupe.vval (t : Troupe) (n : Nat) : Lanes := match t.vreg? n with | some r => r.val | none => []

/-- The names n to n+w-1. -/
def window (n w : Nat) : List Nat := (List.range w).map fun i => n + i

/-- The physical registers in use on a pipe: those of its resident troupes and those that an outstanding load still holds. -/
def State.physUsed (s : State) (p : Nat) : List Nat :=
  (s.troupes.filter fun t => t.pipe == p).flatMap (fun t => t.regs.map VReg.phys) ++ (s.pipe p).zombies.map Prod.fst

/-- The physical register that a first write takes (R136), from those in use. -/
def allocPhys (used : List Nat) (name : Nat) : Option Nat :=
  (List.range 8).findSome? fun k =>
    let bank := (name + k) % 8
    (List.range 64).findSome? fun i => if used.contains (8 * i + bank) then none else some (8 * i + bank)

/-- The names mapped, in order, each to a free register of the pipe with lanes that read 0; none when the pool is exhausted
(R137). `tok` names the mappings. -/
def mapNames (used : List Nat) (tok : Nat) : List Nat → Option (List VReg)
  | [] => some []
  | n :: ns =>
    match allocPhys used n with
    | none => none
    | some p => (mapNames (p :: used) (tok + 1) ns).map fun rs => ⟨n, p, tok, lanesOf fun _ => 0, false⟩ :: rs

/-- The mapped names of the workgroup's troupes on one pipe. -/
def State.wgHeld (s : State) (wg p : Nat) : Nat :=
  ((s.troupes.filter fun t => t.wg == wg && t.pipe == p).map fun t => t.regs.length).foldl (· + ·) 0

/-- Whether a load or a variable-latency result of the troupe will still write to a mapping (R133). -/
def State.outstanding (s : State) (t : Troupe) (tok : Nat) : Bool :=
  (s.splits.any fun p => p.wg == t.wg && p.trix == t.trix &&
    match p.landing with
    | .vec ns => ns.any fun n => n.2 == tok
    | .vp _ ns => ns.any fun n => n.2 == tok
    | _ => false)
  || t.pend.any fun p =>
    match p.act with
    | .vregs ws _ _ => ws.any fun w => w.2 == tok
    | .emit _ _ _ _ tk _ _ _ => tk == tok
    | .deq _ _ ws _ => ws.any fun w => w.2 == tok
    | _ => false

/-- Whether an incomplete batch uses a name (R149). -/
def Batch.uses (b : Batch) (n : Nat) : Bool := (b.left != 0 || !b.closed) && (b.outs.any (·.1 == n) || b.ins.any (·.1 == n))

/-- A batch keeps the mappings of names that it uses and that are released before its end (R452). -/
def Batch.keep (b : Batch) (gone : List VReg) : Batch :=
  { b with holds := b.holds ++ (gone.filter fun r => b.uses r.name).map VReg.token }

/-- Names released (R133): unmapped at once; the register of an outstanding load, or one that an incomplete batch uses, returns to
the pool when that has ended. -/
def State.release (s : State) (t : Troupe) (names : List Nat) : State × Troupe :=
  let gone := t.regs.filter fun r => names.contains r.name
  let held := gone.filter fun r => s.outstanding t r.token || (t.openBatch :: t.batches).any fun b => b.uses r.name
  let t' := { t with
    regs := t.regs.filter fun r => !names.contains r.name
    hazards := t.hazards.filter fun h => match h.reg with | .v n => !names.contains n | _ => true
    openBatch := t.openBatch.keep gone, batches := t.batches.map (Batch.keep · gone) }
  (s.modPipe t.pipe fun p => { p with zombies := p.zombies ++ held.map fun r => (r.phys, r.token) }, t')

/-- A register's lanes written; the write to an unmapped name or to v255 is discarded. -/
def Troupe.setV (t : Troupe) (n : Nat) (m : Mask) (v : Lanes) : Troupe :=
  { t with regs := modWhere t.regs (fun r => r.name == n) fun r => { r with val := mergeLanes m r.val v } }

def Troupe.setVs (t : Troupe) (m : Mask) (ws : List (Nat × Lanes)) : Troupe := ws.foldl (fun t w => t.setV w.1 m w.2) t

/-- A result that lands later: it is discarded when its mapping has been released (R133). -/
def Troupe.landV (t : Troupe) (n tok : Nat) (m : Mask) (v : Lanes) : Troupe :=
  { t with regs := modWhere t.regs (fun r => r.name == n && r.token == tok) fun r => { r with val := mergeLanes m r.val v } }

/-! ## Reports of failed lanes (R250) -/

def faultEntry (code : Byte) (ac : Nat) (va : DWord) : DWord :=
  (1#1 ++ (0#1 ++ (code ++ (BitVec.ofNat 4 ac ++ (0#2 ++ va.extractLsb' 0 48)))))

def feValid (e : DWord) : Bool := e.getLsbD 63
def feCode (e : DWord) : Byte := e.extractLsb' 54 8
def feAddr (e : DWord) : DWord := (e.extractLsb' 0 48).setWidth 64

/-- An error arrival of a lane, counted on arrival counter k. -/
def Troupe.errorArrival (t : Troupe) (lane : Nat) (k : Nat) (code : Byte) (va : DWord) : Troupe :=
  { t with
    errpend := t.errpend ||| (1#16 <<< k)
    faults := modAt t.faults lane fun e => if feValid e then e ||| (1#64 <<< 62) else faultEntry code k va }

/-- The next access to a line of a flagged region: the flag is cleared and the region recorded. -/
def State.takeLost (s : State) (r : Region) : State :=
  let rs := modWhere s.regions (fun x => x.die == r.die && x.base == r.base) fun x => { x with llost := false }
  { s with regions := rs }.report [.line r.die r.base leaseCode]

/-- A line whose data fails is entered in the home's damaged-line table, if it has room; else its data goes on failing (R177, R178). The
error core is told. -/
def State.enterDamaged (s : State) (home ln : Nat) : State :=
  let s := s.modDie home fun d => { d with uncorr := satInc d.uncorr }
  let s := s.report [.line home ln memerr]
  if locKind (64 * ln) = 0 && (s.die home).damaged.length < 256 then
    s.modDie home fun d => { d with damaged := d.damaged.filter (· != ln) ++ [ln], failing := d.failing.filter (· != ln) }
  else s.modDie home fun d => { d with failing := d.failing.filter (· != ln) ++ [ln] }

/-- The lines whose data failed an access (R177). -/
def State.meetError (s : State) (home loc n : Nat) : State :=
  ((linesOf loc n).filter s.isFailing).foldl (fun s ln => s.enterDamaged home ln) s

/-- The lines of migrating frames that an access waits for go into fetch (R172). -/
def State.fetchLines (s : State) (loc n : Nat) : State :=
  let mark (ln : Nat) (m : Migr) : Migr :=
    if m.frame == ln / 64 && !m.present.getLsbD (ln % 64) then { m with fetching := m.fetching ||| (1#64 <<< (ln % 64)) } else m
  { s with migrs := s.migrs.map fun m => (linesOf loc n).foldl (fun m ln => mark ln m) m }

/-- What an access that ended with a fault code leaves behind: the flags of the regions that it met are cleared (R218), its router notes
that the home was not reached (R13, R39), and failing lines are entered (R177). -/
def State.clearLost (s : State) (c : Ctx) (die : Nat) (need : Need) (fuel : Nat) (va : DWord) (n : Nat) : State :=
  match fuel with
  | 0 => s
  | fuel + 1 =>
    let k := min n (4096 - va.toNat % 4096)
    if n = 0 then s
    else
      match s.translate c die need va with
      | .at loc _ =>
        let home := c.homeOf die loc
        if (s.gap die home).isSome then s.noteGap die home
        else
          match s.lostIn? c die loc k with
          | some r => s.takeLost r
          | none =>
            if (linesOf loc k).any s.isFailing then s.meetError home loc k
            else s.clearLost c die need fuel (va + BitVec.ofNat 64 k) (n - k)
      | _ => s

/-- A page goes to its resolver (R166). -/
def State.resolve (s : State) (key page : Nat) : State :=
  if s.resolving.contains (key, page) then s else { s with resolving := s.resolving ++ [(key, page)] }

/-- A page that an agent's store waits to have opened (R192). -/
def State.asksOpen (s : State) (key page : Nat) : State :=
  if s.opens.contains (key, page) then s else { s with opens := s.opens ++ [(key, page)] }

/-- The walkers of a die (R166). -/
def walkers : Nat := 96

/-- A miss takes a free walker of its die, joins its page's walk, or waits. -/
def State.startWalk (s : State) (die key page : Nat) : State :=
  if s.walks.any fun w => w.die == die && w.ctx == key && w.page == page then s
  else
    let busy := (s.walks.filter fun w => w.die == die && w.running).length
    { s with walks := s.walks ++ [⟨s.fresh, die, key, page, decide (busy < walkers)⟩], fresh := s.fresh + 1 }

/-- The pages of a read that must be walked or resolved, and its lines that must be fetched, are asked for (R166, R172). A page that is
with its resolver is not walked again: the resolver's end tells all that wait for it (R167, R169). -/
def State.parkRead (s : State) (c : Ctx) (die : Nat) (need : Need) (va : DWord) (n : Nat) : State :=
  ((List.range ((va.toNat % 4096 + n + 4095) / 4096)).map fun i => va.toNat / 4096 + i).foldl (fun s p =>
    match s.translate c die need (BitVec.ofNat 64 (4096 * p)) with
    | .park .walk => if s.resolving.contains (c.key, p) then s else s.startWalk die c.key p
    | .park .opening => (s.resolve c.key p).asksOpen c.key p
    | .park _ => s.resolve c.key p
    | .at loc _ =>
      let lo := max va.toNat (4096 * p)
      let hi := min (va.toNat + n) (4096 * p + 4096)
      s.fetchLines (loc + (lo - 4096 * p)) (hi - lo)
    | .fault _ => s) s

/-! ## The end of a troupe (R102, R345, R405) -/

/-- A generation of a barrier completes when every troupe that has not exited has arrived (R405). -/
def settleBarrier (alive : List Nat) (b : Barrier) : Barrier :=
  if b.arrived ≠ [] ∧ alive.all b.arrived.contains then ⟨b.gen + 1, []⟩ else b

def State.alive (s : State) (wg : Nat) : List Nat := (s.troupes.filter fun t => t.wg == wg && !t.exited).map Troupe.trix

/-- A troupe taken out of its pipe's ring (R97). -/
def ringRemove (p : Pipe) (wg trix : Nat) : Pipe :=
  match p.ring.findIdx? fun x => x == (wg, trix) with
  | none => p
  | some i =>
    let ring := p.ring.eraseIdx i
    { p with ring := ring, ptr := (if i < p.ptr then p.ptr - 1 else p.ptr) % (max ring.length 1) }

/-- The failures that an ending troupe still holds: its valid fault entries and its batches in their error phase. -/
def Troupe.leftovers (t : Troupe) : List ErrRec :=
  (((List.range 96).filter fun l => feValid (t.faults.getD l 0)).map fun l =>
      .lane t.wg t.trix l (feCode (t.faults.getD l 0)) (feAddr (t.faults.getD l 0)))
  ++ ((t.openBatch :: t.batches).filterMap Batch.err).map fun e => .batch t.wg t.trix e.1 e.2

/-- A troupe ends: its failures go to the error core, its registers and slot are freed, it leaves every barrier's count, and the
workgroup drains when it was the last (R102). -/
def State.exitTroupe (s : State) (t : Troupe) : State :=
  let es := t.leftovers
  let bad := es ≠ [] ∨ t.errpend ≠ 0
  let (s, t) := s.release t (t.regs.map VReg.name)
  let s := s.setTroupe { t with exited := true, wait := .none }
  let s := s.modPipe t.pipe fun p => ringRemove p t.wg t.trix
  let alive := s.alive t.wg
  let s := s.modWg t.wg fun w => { w with
    bars := w.bars.map fun b => settleBarrier alive { b with arrived := b.arrived.filter fun x => x != t.trix }
    failed := w.failed || decide bad
    status := if alive = [] then .draining else w.status }
  s.report es

/-- The workgroup ends (R253): every troupe exits, the error core records why, the workgroup drains and retires. -/
def State.endWorkgroup (s : State) (wg : Nat) (cancelled : Bool) (rec : ErrRec) : State :=
  let s := (s.alive wg).foldl (fun s i => match s.troupe? wg i with | some t => s.exitTroupe t | none => s) s
  let s := s.modWg wg fun w =>
    { w with cancelled := w.cancelled || cancelled, failed := if cancelled then w.failed else true }
  s.report [rec]

/-! ## Traps (R245 to R253) -/

/-- What a trap reports (R249). -/
structure TrapInfo where
  cause : Byte
  taddr : DWord
  lanes : Mask
  deriving DecidableEq, Repr

def illinst : Byte := 0x01
def illopnd : Byte := 0x02
def deadreg : Byte := 0x03
def uniformC : Byte := 0x04
def misalign : Byte := 0x05
def scrown : Byte := 0x0A
def typefmt : Byte := 0x0B
def shardfail : Byte := 0x13
def precexhC : Byte := 0x18
def precwinC : Byte := 0x19
def fpexcC : Byte := 0x1A
def barstale : Byte := 0x20
def graphdepth : Byte := 0x21
def cancelledC : Byte := 0x23
def matfault : Byte := 0x28
def bkptC : Byte := 0x30
def swtrapC : Byte := 0x31

def trapOf (cause : Byte) : TrapInfo := ⟨cause, 0, 0⟩

/-- A handler address, a return address, a branch target: bits [1:0] are cleared (R287). -/
def alignPc (a : DWord) : DWord := a &&& ~~~3#64

/-- Where a cause's handler address stands in the trap table (R246). -/
def handlerVa (c : Ctx) (cause : Byte) : DWord := BitVec.ofNat 64 (fieldD c.trap 47 11 * 2048 + 8 * cause.toNat)

/-- The read of the trap table (R247, step 2). -/
def State.handler (s : State) (t : Troupe) (cause : Byte) : ReadEnd :=
  match s.ctxOf t with
  | none => .fault xlate
  | some c =>
    if c.trap.getLsbD 0 then
      s.readVa c t.die .read 3 (handlerVa c cause) 8
    else .fault xlate

/-- Whether a trap ends the workgroup (R247, steps 1 and 2). -/
def State.unhandled (s : State) (t : Troupe) (cause : Byte) : Bool :=
  t.intrap || match s.handler t cause with
    | .bytes b => leNat b == 0
    | .fault _ => true
    | .park => false

/-- The troupe at its handler's first instruction (R247, steps 3 and 4). -/
def Troupe.enter (t : Troupe) (i : TrapInfo) (tpc handler : DWord) (now : Nat) : Troupe :=
  { t with
    intrap := true, cause := i.cause, taddr := i.taddr, tpc := alignPc tpc, tlanes := i.lanes, pc := alignPc handler,
    wait := .none, lastIssue := some now, freeAt := now + 1, branched := false, atYield := false, arrived := false, atJoint := none }

/-- Trap entry. `tpc` is the address that `tret` returns to. A table page that parks holds the troupe until it is there, and
the trap is taken then. -/
def State.takeTrap (s : State) (t : Troupe) (i : TrapInfo) (tpc : DWord) : State :=
  if s.unhandled t i.cause then
    { s with free := s.free + 1 }.endWorkgroup t.wg (i.cause == cancelledC) (.trap t.wg t.trix i.cause tpc i.taddr i.lanes t.intrap)
  else
    match s.handler t i.cause with
    | .bytes b =>
      { s with free := s.free + 1 }.setTroupe (t.enter i tpc (BitVec.ofNat 64 (leNat b)) (s.now t))
    | _ =>
      match s.ctxOf t with
      | none => s
      | some c =>
        let va := handlerVa c i.cause
        (s.setTroupe { t with wait := .table (va.toNat / 4096) i.cause i.taddr i.lanes tpc }).parkRead c t.die .read va 8

/-- The troupe after `tret` (R253). -/
def Troupe.leave (t : Troupe) : Troupe := { t with intrap := false, pc := t.tpc }

/-- TSTAT as a program reads it (R248). -/
def Troupe.tstat (t : Troupe) : DWord :=
  0#16 ++ (t.errpend ++ (0#15 ++ (BitVec.ofBool t.stfail ++ (0#7 ++ (BitVec.ofBool t.intrap ++ t.cause)))))

end Sys2Proof.Machine
end

