-- ==== Sys2Proof/Machine/Flags.lean ====
section
/-! DEFINITION. Hints, completion flags and hazards (R139, R142 to R145), and what issuing an instruction does to its troupe:
the skeleton that every instruction's meaning is built on. -/

namespace Sys2Proof

/-- The flag that an instruction names (R142). -/
def Ctl.flag (c : Ctl) : Option Nat := if c.sflag.toNat < 12 then some c.sflag.toNat else none

end Sys2Proof

namespace Sys2Proof.Machine

/-! ## Hints -/

def flagSet (fl : BitVec 12) (f : Nat) : Bool := fl.getLsbD f

/-- Whether a scalar register from s61 to s63 still waits for a result (R128, R342). -/
def State.maskPending (s : State) (t : Troupe) : Bool :=
  (s.splits.any fun p => p.wg == t.wg && p.trix == t.trix &&
    match p.landing with | .scalar n pair => n ≥ 61 || (pair && n + 1 ≥ 61) | _ => false)
  || t.pend.any fun p => match p.act with | .sregs ws => ws.any fun w => w.1 ≥ 61 | _ => false

/-- Whether the troupe may run at all (R96, R257): it is resident, not stopped, not draining, and waits in nothing. -/
def State.runnable (s : State) (t : Troupe) : Bool :=
  !t.exited && !t.stopped && t.wait == .none &&
    match s.wgOf t with | some w => w.status == .running || w.status == .stopping | none => false

/-- The earliest cycle at which an instruction with these hints may issue (R139, R142, R145). -/
def Troupe.earliest (t : Troupe) (c : Ctl) : Nat := max t.freeAt (t.lastIssue.elim 0 (· + max 1 c.dist.toNat))

/-- Whether the hints let the instruction issue now (R139, R142). -/
def State.ready (s : State) (t : Troupe) (c : Ctl) : Bool :=
  s.runnable t && decide (t.earliest c ≤ s.now t) && (t.flags &&& c.wmask == 0)
    && (match c.flag with | some f => !flagSet t.flags f | none => true) && !s.maskPending t

/-! ## Hazards (R144) -/

/-- Whether the result is in its register at a cycle. -/
def HazOrd.past (o : HazOrd) (now : Nat) : Bool := match o with | .cycle n _ => decide (n ≤ now) | _ => false

/-- Whether the end of the instruction under way `k` writes the result. -/
def HazOrd.ends (o : HazOrd) (k : Nat) : Bool := match o with | .cycle _ j => j == some k | .pend j => j == k | _ => false

/-- The troupe at a cycle of its die: results of fixed latency whose cycle has come are in their registers. -/
def Troupe.tick (t : Troupe) (now : Nat) : Troupe := { t with hazards := t.hazards.filter fun h => !h.order.past now }

def Troupe.hazardous (t : Troupe) (r : RegId) : Bool := t.hazards.any fun h => h.reg == r
def Troupe.hazardAt (t : Troupe) (r : RegId) (l : Nat) : Bool := t.hazards.any fun h => h.reg == r && h.lanes.getLsbD l

/-- The contents of a vector name as operand k reads them: unspecified in the lanes that a producer has not
written yet. -/
def State.rdV (s : State) (t : Troupe) (k n : Nat) : Lanes :=
  if t.hazardous (.v n) then
    lanesOf fun l => if t.hazardAt (.v n) l then Config.freeWord s.free (k * 2 ^ 16 + n * 128 + l) else lane (t.vval n) l
  else t.vval n

/-- The value of a scalar operand number as operand k reads it. -/
def State.rdS (s : State) (t : Troupe) (k n : Nat) : Word :=
  if t.hazardous (.s n) then Config.freeWord s.free (2 ^ 20 + k * 256 + n) else s.sval t n

/-- A predicate as operand k reads it. -/
def State.rdP (s : State) (t : Troupe) (k n : Nat) : Mask :=
  if t.hazardous (.p n) then
    maskOf fun l =>
      if t.hazardAt (.p n) l then (Config.freeWord s.free (2 ^ 21 + k * 64 + n * 4 + l / 32)).getLsbD (l % 32)
      else (t.pred n).getLsbD l
  else t.pred n

/-- The guard as the instruction reads it. -/
def State.guardOf (s : State) (t : Troupe) (c : Ctl) : Mask :=
  if c.neg then ~~~(s.rdP t 3 c.guard.toNat) else s.rdP t 3 c.guard.toNat

/-- The effective lanes (R126). -/
def State.effOf (s : State) (t : Troupe) (c : Ctl) : Mask := t.am &&& s.guardOf t c

/-- Whether an instruction that ignores the activity mask takes effect (R127). -/
def State.takesOf (s : State) (t : Troupe) (c : Ctl) : Bool := s.guardOf t c != 0

/-! ## Issue -/

/-- What an instruction's issue sets in its troupe: the flag, the program counter, the issue times. -/
def Troupe.issued (t : Troupe) (c : Ctl) (now bts : Nat) : Troupe :=
  { t with
    pc := t.pc + 12
    flags := match c.flag with | some f => t.flags ||| (1#12 <<< f) | none => t.flags
    lastIssue := some now
    freeAt := now + max 1 bts
    branched := false
    atYield := false
    arrived := false }

/-- A taken transfer (R145, R287, R300). -/
def Troupe.jump (t : Troupe) (target : DWord) : Troupe :=
  { t with pc := alignPc target, branched := true, freeAt := t.lastIssue.getD 0 + 4 }

/-- The instruction's flag clears by a later event; `act` is what that event does besides. -/
def State.addPend (s : State) (t : Troupe) (c : Ctl) (act : PendAct) (holds : Bool) : State × Troupe :=
  (s.bump, { t with pend := t.pend ++ [⟨s.fresh, c.flag, act, holds⟩] })

/-- An instruction with nothing left to do: its flag, if it names one, clears by `VARIABLE_RESULT_WRITE`. -/
def State.clearLater (s : State) (t : Troupe) (c : Ctl) : State × Troupe :=
  match c.flag with
  | some _ => s.addPend t c .done false
  | none => (s, t)

/-- Whether an earlier result of fixed latency reaches the register after cycle e, or in it. -/
def Troupe.lands (t : Troupe) (p : Nat → Bool) (r : RegId) (l : Nat) : Bool :=
  t.hazards.any fun h => h.reg == r && h.lanes.getLsbD l && match h.order with | .cycle n _ => p n | _ => false

def Troupe.after (t : Troupe) (r : RegId) (e l : Nat) : Bool := t.lands (fun n => decide (e < n)) r l

/-- Whether the register keeps what an earlier unordered write leaves in a lane, against a write that lands at cycle e: the value of
the write that lands later stays (R144). `w` decides for two that land in one cycle. -/
def Troupe.keeps (t : Troupe) (r : RegId) (e l : Nat) (w : Word) : Bool :=
  t.after r e l || (t.lands (· == e) r l && w.getLsbD (l % 32))

/-- The lanes of a write, where an unordered earlier one may be the last to land. -/
def State.settleV (s : State) (t : Troupe) (n e : Nat) (v : Lanes) : Lanes :=
  if t.hazardous (.v n) then
    lanesOf fun l => if t.keeps (.v n) e l (Config.freeWord s.free (2 ^ 22 + n * 4 + l / 32)) then lane (t.vval n) l else lane v l
  else v

def State.settleS (s : State) (t : Troupe) (n e : Nat) (v : Word) : Word :=
  if t.keeps (.s n) e 0 (Config.freeWord s.free (2 ^ 23 + n)) then t.sregs.getD n 0 else v

def State.settleP (s : State) (t : Troupe) (n e : Nat) (v : Mask) : Mask :=
  if t.hazardous (.p n) then
    maskOf fun l => if t.keeps (.p n) e l (Config.freeWord s.free (2 ^ 23 + 64 + n * 4 + l / 32)) then (t.pred n).getLsbD l else v.getLsbD l
  else v

/-- A result of variable latency reaches a scalar register at a cycle. -/
def Troupe.lateS (t : Troupe) (now n : Nat) (v : Word) : Troupe := if t.after (.s n) now 0 then t else t.setS n v

/-- A result of variable latency reaches lanes of a vector name at a cycle. -/
def Troupe.lateV (t : Troupe) (now n tok : Nat) (m : Mask) (v : Lanes) : Troupe :=
  t.landV n tok (maskOf fun l => m.getLsbD l && !t.after (.v n) now l) v

def allLanes : Mask := BitVec.allOnes 96

/-- The hazards of written scalar registers; the activity mask is interlocked (R128) and has none. -/
def sHazards (ns : List Nat) (o : HazOrd) : List Hazard := (ns.filter (· < 61)).map fun n => ⟨.s n, allLanes, o⟩

/-- An instruction that ends with no result of its own. -/
def State.commit (s : State) (t : Troupe) (c : Ctl) : State :=
  let (s, t) := s.clearLater t c
  s.setTroupe t

/-- Registers whose producer has not finished writing them. -/
def Troupe.addHazards (t : Troupe) (h : List Hazard) : Troupe := { t with hazards := t.hazards ++ h }

/-- The next instruction waits until a write of the activity mask has landed (R128). -/
def Troupe.awaitMask (t : Troupe) (ns : List Nat) (e : Nat) : Troupe :=
  if ns.any (61 ≤ ·) then { t with freeAt := max t.freeAt e } else t

/-- Scalar results of a fixed latency (R145). -/
def State.commitS (s : State) (t : Troupe) (c : Ctl) (lat : Nat) (ws : List (Nat × Word)) : State :=
  let e := s.now t + lat
  s.commit (((t.setSs (ws.map fun w => (w.1, s.settleS t w.1 e w.2))).addHazards
    (sHazards (ws.map Prod.fst) (.cycle e (c.flag.map fun _ => s.fresh)))).awaitMask (ws.map Prod.fst) e) c

/-- Scalar results of a variable latency: `VARIABLE_RESULT_WRITE` writes them. -/
def State.commitSLater (s : State) (t : Troupe) (c : Ctl) (ws : List (Nat × Word)) : State :=
  let (s, t) := s.addPend (t.addHazards (sHazards (ws.map Prod.fst) (.pend s.fresh))) c (.sregs ws) false
  s.setTroupe t

/-- A predicate result in the lanes of `m`. -/
def State.commitP (s : State) (t : Troupe) (c : Ctl) (lat : Nat) (n : Nat) (m v : Mask) : State :=
  let e := s.now t + lat
  s.commit ((t.setP n (((t.pred n) &&& ~~~m) ||| (s.settleP t n e v &&& m))).addHazards
    (if n < 7 then [⟨.p n, m, .cycle e (c.flag.map fun _ => s.fresh)⟩] else [])) c

/-- Names that an instruction is about to write, with what they hold (R436). -/
def Troupe.wrote (t : Troupe) (names : List Nat) : Troupe :=
  { t with unready := t.unready ++ (names.filter (· != 255)).map fun n => (n, t.vval n) }

/-- Vector results of a fixed latency, in the lanes of `m`. -/
def State.commitV (s : State) (t : Troupe) (c : Ctl) (lat : Nat) (m : Mask) (ws : List (Nat × Lanes)) : State :=
  let e := s.now t + lat
  s.commit (((t.wrote (ws.map Prod.fst)).setVs m (ws.map fun w => (w.1, s.settleV t w.1 e w.2))).addHazards
    ((ws.filter fun w => w.1 != 255).map fun w => ⟨.v w.1, m, .cycle e (c.flag.map fun _ => s.fresh)⟩)) c

/-- The mapping that a name has now. -/
def Troupe.token (t : Troupe) (n : Nat) : Nat := match t.vreg? n with | some r => r.token | none => 0

/-- Vector results of a variable latency. -/
def State.commitVLater (s : State) (t : Troupe) (c : Ctl) (m : Mask) (ws : List (Nat × Lanes)) : State :=
  let t := (t.wrote (ws.map Prod.fst)).addHazards
    ((ws.filter fun w => w.1 != 255).map fun w => ⟨.v w.1, m, .pend s.fresh⟩)
  let (s, t) := s.addPend t c (.vregs (ws.map fun w => (w.1, t.token w.1)) m (ws.map Prod.snd)) false
  s.setTroupe t

/-! ## The skeleton of a meaning -/

/-- What an instruction that may issue does. -/
inductive Plan where
  /-- it traps, and `tret` returns to `tpc` -/
  | trap (i : TrapInfo) (tpc : DWord)
  /-- it waits before issue, or it has its effect -/
  | go (s : State)

/-- An instruction of the current troupe: it waits for its hints (R142, R303), then does what `body` says. `body` is given the
troupe as its operands stand at issue. -/
def State.run (s : State) (c : Ctl) (body : State → Troupe → Plan) : Host.Outcome State Fault Refusal :=
  match s.cur? with
  | none => .next s
  | some t =>
    if s.ready t c then
      match body s (t.tick (s.now t)) with
      | .trap i tpc => .next (s.takeTrap t i tpc)
      | .go s' => .next s'
    else .next s

/-! ## What the memory-group instructions wait for (R168, R388, R466) -/

/-- The park table of a die holds 4,096 lane requests (R166). -/
def parkSize : Nat := 4096
def State.parked (s : State) (die : Nat) : Nat := (s.reqs.filter fun r => r.die == die && r.stage == .parked).length

/-- Whether an earlier acquire, fence or phase step, or a full park table, holds memory-group instructions back. -/
def State.memHeld (s : State) (t : Troupe) : Bool :=
  t.pend.any Pend.holds || (s.splits.any fun p => p.wg == t.wg && p.trix == t.trix && p.acquire.isSome)
    || decide (parkSize ≤ s.parked t.die)

end Sys2Proof.Machine
end

