-- ==== Sys2Proof/Machine/Operands.lean ====
section
/-! DEFINITION. Every operand form: what a field may hold (R291 to R295, R336, R348), the checks of R302 steps 3 to 6, the
crossbar (R141), reading an operand, and releasing and mapping names (R132 to R138). -/

namespace Sys2Proof.Machine

/-! ## What a field may hold -/

/-- One way in which a field may be used. -/
inductive Acc where
  /-- a window of w vector names that is only written; `vp` says that it is a window of R134 even for w = 1 -/
  | vw (w : Nat) (vp : Bool)
  /-- a window that is read and then written: no pattern, last-read allowed -/
  | vd (w : Nat) (vp : Bool)
  /-- a pair whose first name is read and then written and whose second is only written (R351) -/
  | vc
  /-- a window of w names that is read and whose first k names are then written (R400, R445) -/
  | vx (w k : Nat)
  /-- a window that is read, with any pattern -/
  | vr (w : Nat) (vp : Bool)
  /-- w scalar registers that are written, none above `hi` -/
  | sw (w hi : Nat)
  /-- w scalar registers that are read and then written, none above `hi` -/
  | sd (w hi : Nat)
  /-- w scalar operand numbers that are read, wholly within 0 to `hi` or wholly within 64 to 127 (R293) -/
  | sr (w hi : Nat)
  | imm
  /-- an immediate within a range -/
  | immIn (lo hi : Int)
  /-- a special index within a range -/
  | sp (lo hi : Nat)
  /-- an unused field (R294) -/
  | unused
  deriving DecidableEq, Repr

/-- "Vw", "Vd", "V", "Sw", "Sr" or "S", "I" and "P" of R336 and R348. -/
def accVw : Acc := .vw 1 false
def accVd : Acc := .vd 1 false
def accV : Acc := .vr 1 false
def accSw : Acc := .sw 1 63
def accS : Acc := .sr 1 63
def accPair : Acc := .sr 2 60
def accP : Acc := .sp 0 7

/-- "V, S or I" and "S or I". -/
def accVSI : List Acc := [accV, accS, .imm]
def accSI : List Acc := [accS, .imm]
/-- The address pair of R383. -/
def accAddr : List Acc := [.vr 2 false, accPair]

/-- Whether a window of names lies below the allotment (R134, R135); v255 never traps on its own. -/
def Troupe.nameOk (t : Troupe) (n w : Nat) (vp : Bool) : Bool :=
  if w = 0 then true
  else if w = 1 && !vp then n == 255 || decide (n < t.allot) else decide (n + w ≤ 255) && decide (n + w ≤ t.allot)

/-- Patterns and parameters in range (R141). -/
def patOk (pat : BitVec 3) (par : BitVec 6) : Bool :=
  match pat.toNat with
  | 0 => par.toNat == 0
  | 1 => true
  | 2 => true
  | 3 => true
  | 4 => decide (par.toNat ≤ 31)
  | 5 => decide (1 ≤ par.toNat) && decide (par.toNat ≤ 31)
  | 6 => decide (1 ≤ par.toNat) && decide (par.toNat ≤ 6)
  | _ => false

/-- Whether an operand may be used in a way (R302, step 3). -/
def Troupe.accOk (t : Troupe) (o : Operand) (a : Acc) : Bool :=
  match a, o with
  | .vw w vp, .vec n last pat par => !last && pat == 0 && par == 0 && t.nameOk n.toNat w vp
  | .vd w vp, .vec n _ pat par => pat == 0 && par == 0 && t.nameOk n.toNat w vp
  | .vx w _, .vec n _ pat par => pat == 0 && par == 0 && t.nameOk n.toNat w false
  | .vc, .vec n _ pat par => pat == 0 && par == 0 && t.nameOk n.toNat 2 false
  | .vr w vp, .vec n _ pat par => patOk pat par && t.nameOk n.toNat w vp
  | .sw w hi, .scal n => decide (n.toNat + w ≤ hi + 1)
  | .sd w hi, .scal n => decide (n.toNat + w ≤ hi + 1)
  | .sr w hi, .scal n => decide (n.toNat + w ≤ hi + 1) || (decide (64 ≤ n.toNat) && decide (n.toNat + w ≤ 128))
  | .imm, .imm _ => true
  | .immIn lo hi, .imm v => decide (lo ≤ v.toInt) && decide (v.toInt ≤ hi)
  | .sp lo hi, .special i => decide (lo ≤ i.toNat) && decide (i.toNat ≤ hi)
  | .unused, .imm v => v == 0
  | _, _ => false

/-- The operands of a format-O, X or M instruction and what each may hold. In format M and X the third list is empty: the field
is no operand. -/
structure Shape where
  d : List Acc
  a : List Acc
  b : List Acc
  deriving DecidableEq, Repr

/-- The use that applies to an operand. -/
def Troupe.use (t : Troupe) (o : Operand) (l : List Acc) : Option Acc := l.find? (t.accOk o)

/-- Whether a use reads, releases or writes vector names, and which. -/
def vecNames (o : Operand) (w : Nat) : List Nat :=
  match o with
  | .vec n _ _ _ => (window n.toNat w).filter (· != 255)
  | _ => []

def isLast : Operand → Bool
  | .vec _ last _ _ => last
  | _ => false

def srcNames (o : Operand) : Option Acc → List Nat
  | some (.vd w _) => vecNames o w
  | some (.vx w _) => vecNames o w
  | some .vc => vecNames o 1
  | some (.vr w _) => vecNames o w
  | _ => []

def dstNames (o : Operand) : Option Acc → List Nat
  | some (.vw w _) => vecNames o w
  | some (.vd w _) => vecNames o w
  | some (.vx _ k) => vecNames o k
  | some .vc => vecNames o 2
  | _ => []

/-- A last-read bit on a window releases every name of it (R134, R348). -/
def lastNames (o : Operand) (u : Option Acc) : List Nat :=
  if isLast o then srcNames o u ++ (if u = some .vc then vecNames o 2 else []) else []

/-- The scalar registers that a use reads. -/
def srcScalars (o : Operand) (u : Option Acc) : List Nat :=
  match o, u with
  | .scal n, some (.sd w _) => window n.toNat w
  | .scal n, some (.sr w _) => window n.toNat w
  | _, _ => []

/-! ## The checks of R302, steps 3 to 5 -/

/-- The fields of an instruction with their uses. -/
structure Opnds where
  d : Operand
  a : Operand
  b : Operand
  sh : Shape

def Opnds.ud (o : Opnds) (t : Troupe) : Option Acc := t.use o.d o.sh.d
def Opnds.ua (o : Opnds) (t : Troupe) : Option Acc := t.use o.a o.sh.a
def Opnds.ub (o : Opnds) (t : Troupe) : Option Acc := if o.sh.b = [] then some .unused else t.use o.b o.sh.b

/-- Step 3: every field is used in some way that it allows. -/
def Opnds.ok (o : Opnds) (t : Troupe) : Bool := (o.ud t).isSome && (o.ua t).isSome && (o.ub t).isSome

def Opnds.src (o : Opnds) (t : Troupe) : List Nat :=
  srcNames o.d (o.ud t) ++ srcNames o.a (o.ua t) ++ srcNames o.b (o.ub t)

def Opnds.dst (o : Opnds) (t : Troupe) : List Nat := dstNames o.d (o.ud t)

def Opnds.rel (o : Opnds) (t : Troupe) : List Nat :=
  lastNames o.d (o.ud t) ++ lastNames o.a (o.ua t) ++ lastNames o.b (o.ub t)

def Opnds.scalars (o : Opnds) (t : Troupe) : List Nat :=
  srcScalars o.d (o.ud t) ++ srcScalars o.a (o.ua t) ++ srcScalars o.b (o.ub t)

/-- The names of a destination that are not mapped once the releases have taken effect. -/
def Opnds.fresh (o : Opnds) (t : Troupe) : List Nat :=
  (o.dst t).filter fun n => !t.mapped n || (o.rel t).contains n

/-- Whether a first write would take the workgroup above its declared peak on the pipe (R138). -/
def State.overPeak (s : State) (t : Troupe) (rel fresh : List Nat) : Bool :=
  match s.wgOf t with
  | none => false
  | some w =>
    fresh ≠ [] &&
      decide (w.peak < s.wgHeld t.wg t.pipe - (t.regs.filter fun r => rel.contains r.name).length + fresh.length)

/-- Steps 3 to 5 of R302. -/
def State.check (s : State) (t : Troupe) (o : Opnds) (mod : Bool) : Option TrapInfo :=
  if !o.ok t || !mod || s.overPeak t (o.rel t) ((o.fresh t).filter fun n => t.mapped n || !(o.src t).contains n) then some (trapOf illopnd)
  else
    match (o.src t).find? fun n => !t.mapped n with
    | some n => some ⟨deadreg, BitVec.ofNat 64 n, 0⟩
    | none =>
      if (t.regs.any fun r => r.damaged && (o.src t).contains r.name) || (o.scalars t).any t.badS.contains
      then some (trapOf memerr)
      else none

/-! ## The crossbar and reading (R141, R291) -/

/-- The source lane of lane i (R141). -/
def srcLane (pat : BitVec 3) (par : BitVec 6) (i : Nat) : Nat :=
  let n := par.toNat
  match pat.toNat with
  | 1 => (i + n) % 96
  | 2 => (i + 96 - n) % 96
  | 3 => n
  | 4 => 64 + n
  | 5 => 32 * (i / 32) + Nat.xor (i % 32) n
  | 6 => if n ≤ 5 then 2 ^ n * (i / 2 ^ n) + (2 ^ n - 1 - i % 2 ^ n) else 95 - i
  | _ => i

def crossbar (pat : BitVec 3) (par : BitVec 6) (v : Lanes) : Lanes :=
  if pat = 0 then v else lanesOf fun i => lane v (srcLane pat par i)

/-- Register j of an operand as operand k reads it, one value per lane. An immediate is sign-extended to the width read. -/
def State.rdLanes (s : State) (t : Troupe) (k : Nat) (o : Operand) (j : Nat) : Lanes :=
  match o with
  | .vec n _ pat par => crossbar pat par (s.rdV t k (n.toNat + j))
  | .scal n => let v := s.rdS t k (n.toNat + j); lanesOf fun _ => v
  | .imm v => let x : Word := if j = 0 then v.signExtend 32 else (v.signExtend 64).extractLsb' 32 32; lanesOf fun _ => x
  | _ => []

/-- Register j of a scalar or immediate operand. -/
def State.rdWord (s : State) (t : Troupe) (k : Nat) (o : Operand) (j : Nat) : Word :=
  match o with
  | .scal n => s.rdS t k (n.toNat + j)
  | .imm v => if j = 0 then v.signExtend 32 else (v.signExtend 64).extractLsb' 32 32
  | _ => 0

/-- The number in a scalar operand field, and the index in a special one. -/
def numOf : Operand → Nat
  | .vec n _ _ _ => n.toNat
  | .scal n => n.toNat
  | .special i => i.toNat
  | _ => 0

def isVec : Operand → Bool
  | .vec _ _ _ _ => true
  | _ => false

def isScal : Operand → Bool
  | .scal _ => true
  | _ => false

def isImm : Operand → Bool
  | .imm _ => true
  | _ => false

def isSpecial : Operand → Bool
  | .special _ => true
  | _ => false

/-- The 18 bits of an X modifier (R299); none when the field is not kind 10, which traps with ILLOPND (R296). -/
def modifier : Operand → Option (BitVec 18)
  | .imm v => some v
  | _ => none

/-- A field [hi:lo] of a modifier. -/
def modField (m : BitVec 18) (hi lo : Nat) : Nat := m.toNat / 2 ^ lo % 2 ^ (hi + 1 - lo)

/-! ## Uniform operands (R295) -/

/-- The lanes whose value differs from the lowest effective lane's, over the w registers of a vector operand. -/
def State.differing (s : State) (t : Troupe) (k : Nat) (o : Operand) (w : Nat) (eff : Mask) : Mask :=
  match lowest eff with
  | none => 0
  | some l0 =>
    if isVec o then
      let vs := (List.range w).map fun j => s.rdLanes t k o j
      maskOf fun l => eff.getLsbD l && vs.any fun v => lane v l != lane v l0
    else 0

/-- The value of a uniform or leader-lane operand: register j in the lowest effective lane. -/
def State.rdLeader (s : State) (t : Troupe) (k : Nat) (o : Operand) (j : Nat) (eff : Mask) : Word :=
  if isVec o then lane (s.rdLanes t k o j) ((lowest eff).getD 0) else s.rdWord t k o j

/-! ## Starting an instruction: releases, mapping, issue -/

/-- A candidate that physical exhaustion takes (R137): the workgroup on the pipe that started last and is not yet being taken. -/
def State.exhaustVictim (s : State) (p : Nat) : Option Nat :=
  let on := s.wgs.filter fun w => w.status == .running && s.troupes.any fun t => t.wg == w.id && t.pipe == p && !t.exited
  (on.foldl (fun best w => match best with | none => some w | some b => if b.startSeq < w.startSeq then some w else some b)
    none).map Workgroup.id

/-- The instruction does not issue: a workgroup is asked to stop, unless one is on its way already (R137). -/
def State.exhausted (s : State) (t : Troupe) : State :=
  if s.wgs.any fun w => w.status == .stopping && s.troupes.any fun u => u.wg == w.id && u.pipe == t.pipe then s
  else
    match s.exhaustVictim t.pipe with
    | some w => s.modWg w fun g => { g with status := .stopping }
    | none => s

/-- The instruction issues: releases take effect, then first writes map their names (R133, R136), then the troupe goes on. None
when too few physical registers are free. -/
def State.start (s : State) (t : Troupe) (c : Ctl) (bts : Nat) (rel fresh : List Nat) : Option (State × Troupe) :=
  let (s, t) := if rel = [] then (s, t) else s.release t rel
  match mapNames (if fresh = [] then [] else (s.setTroupe t).physUsed t.pipe) s.fresh fresh with
  | none => none
  | some rs =>
    some ({ s with fresh := s.fresh + fresh.length, free := s.free + 1 },
      { t.issued c (s.now t) bts with regs := t.regs ++ rs })

/-- Names read or written while a batch that uses them has not been waited for (R149). -/
def Batch.touch (b : Batch) (names : List Nat) : Batch :=
  let hit := names.filter fun n => b.outs.any (·.1 == n) || b.ins.any (·.1 == n)
  if hit = [] then b else { b with spoilt := b.spoilt ++ hit.filter fun n => !b.spoilt.contains n }

def Troupe.touch (t : Troupe) (names : List Nat) : Troupe :=
  { t with openBatch := t.openBatch.touch names, batches := t.batches.map (Batch.touch · names) }

/-- The issued troupe `t'` after the reads and writes of an instruction; one without effective lanes makes none (R126). -/
def State.touched (s : State) (t : Troupe) (c : Ctl) (t' : Troupe) (names : List Nat) : Troupe :=
  if s.effOf t c = 0 then t' else t'.touch names

/-- Steps 3 to 5, then what follows them: `late` makes the later checks, `act` has the effect once the instruction has issued.
Both are given the state and troupe whose operands the instruction reads. -/
def State.operateS (s : State) (c : Ctl) (bts : State → Troupe → Nat) (o : State → Troupe → Opnds) (mod : Troupe → Bool)
    (late : State → Troupe → Option TrapInfo) (hold : State → Troupe → Bool)
    (act : State → Troupe → State → Troupe → State) : Host.Outcome State Fault Refusal :=
  s.run c fun s t =>
    let o := o s t
    match s.check t o (mod t) with
    | some i => .trap i t.pc
    | none =>
      match late s t with
      | some i => .trap i t.pc
      | none =>
        if hold s t then .go s
        else
          match s.start t c (bts s t) (o.rel t) (o.fresh t) with
          | none => .go (s.exhausted t)
          | some (s', t') => .go (act s t s' (s.touched t c t' (o.src t ++ o.dst t)))

/-- The same, where the operand forms do not depend on the state. -/
def State.operate (s : State) (c : Ctl) (bts : State → Troupe → Nat) (o : Troupe → Opnds) (mod : Troupe → Bool)
    (late : State → Troupe → Option TrapInfo) (hold : State → Troupe → Bool)
    (act : State → Troupe → State → Troupe → State) : Host.Outcome State Fault Refusal :=
  s.operateS c bts (fun _ => o) mod late hold act

def noLate : State → Troupe → Option TrapInfo := fun _ _ => none
def noHold : State → Troupe → Bool := fun _ _ => false
def oneBeat : State → Troupe → Nat := fun _ _ => 1

/-- The beats of a vector instruction. -/
def vecBeats (c : Ctl) : State → Troupe → Nat := fun s t => beats (s.effOf t c)

end Sys2Proof.Machine
end

