-- ==== Sys2Proof/Machine/Request.lean ====
section
/-! DEFINITION. Lane requests: how they are made, translated (R159 to R170), ordered within their troupe (R167, R233) and how
their replies land (R143, R250, R254). -/

namespace Sys2Proof.Machine

/-! ## Making requests -/

/-- The permission an operation needs (R165, R407, R445). -/
def memNeed : MemOp → Need
  | .load _ => .read
  | .store => .write
  | .tload => .read
  | .tstore _ => .write
  | .vpload _ _ _ => .read
  | .vpstore _ _ _ => .write
  | .prefetch => .read
  | _ => .atom

/-- Operations of typed blocks (R282). -/
def memTyped : MemOp → Bool
  | .tload => true
  | .tstore _ => true
  | _ => false

/-- Operations that the home L2 slice performs as one atomic update (R152, R204, R283). -/
def memAtHome : MemOp → Bool
  | .atom _ => true
  | .fatom _ _ => true
  | .tstore _ => true
  | .bosig => true
  | .barinit => true
  | .barinval => true
  | .depinit _ _ _ => true
  | .depdec => true
  | .chunk => true
  | _ => false

def memLoads : MemOp → Bool
  | .load _ => true
  | .tload => true
  | .vpload _ _ _ => true
  | _ => false

/-- Everything that changes its location. -/
def memWrites (o : MemOp) : Bool := !memLoads o && o != .prefetch

/-- What the lanes of one instruction share. -/
structure ReqSpec where
  pol : Policy
  scope : Scope
  ord : MemOrd

/-- One lane of an instruction on its way: the operation, the address, the operand's bytes and a second operand. -/
structure LaneReq where
  lane : Nat
  op : MemOp
  va : DWord
  bytes : Nat
  val : List Byte
  val2 : List Byte

/-- A request as it leaves its lane. Its phase is that of its die at issue (R238); `placed` keeps it only for an access of
kind 0x0 homed on another die. -/
def mkReq (s : State) (t : Troupe) (key split id : Nat) (sp : ReqSpec) (l : LaneReq) (held : Bool) : MemReq where
  id := id
  split := split
  wg := t.wg
  trix := t.trix
  ctx := key
  die := t.die
  core := t.core
  lane := l.lane
  op := l.op
  va := l.va
  bytes := l.bytes
  pol := sp.pol
  scope := sp.scope
  ord := sp.ord
  stage := if held then .held else .untranslated false
  wasParked := false
  loc := 0
  kind := 0
  home := 0
  typed := false
  migrating := false
  win := none
  val := l.val
  val2 := l.val2
  result := []
  fault := none
  phase := if held then some t.sph else if memWrites l.op then some (s.die t.die).dph else none
  reqLife := (s.routers.getD t.die (Router.reset 0)).life
  tgtLife := 0
  arrival := 0
  deadline := none
  slot := 0
  lease := none

/-! ## Ends of a request -/

/-- A prefetch ends with nothing (R398). -/
def State.dropReq (s : State) (id : Nat) : State := { s with reqs := s.reqs.filter fun r => r.id != id }

/-- It has been performed or has failed. -/
def MemReq.over (r : MemReq) : Bool := r.stage == .answered || r.stage == .returning

/-- Whether a request carries a store phase of die d that home h must still count (R238): it is not performed and has not
failed, and it goes to h or may still go there. -/
def MemReq.owes (r : MemReq) (d h : Nat) : Bool :=
  r.die == d && r.phase.isSome &&
    match r.stage with
    | .answered => false
    | .returning => false
    | .held => false
    | .untranslated _ => true
    | .parked => true
    | _ => r.home == h && r.kind == 0

/-- PHCOMP_h[d]: the largest phase all of whose accesses have been performed or have failed, given DPH_d (R238). -/
def State.phaseDone (s : State) (d h : Nat) : BitVec 16 :=
  let dph := (s.die d).dph
  let lag := maxOf ((s.reqs.filter fun r => r.owes d h).map fun r => (dph - r.phase.getD dph).toNat)
  dph - 1 - BitVec.ofNat 16 lag

/-- Every home publishes its counter for die d. -/
def State.publish (s : State) (d : Nat) : State :=
  { s with dies := (List.range s.dies.length).map fun h =>
      let x := s.die h
      { x with phcomp := x.phcomp.set d (s.phaseDone d h) } }

/-- A phased access has been performed or has failed. -/
def State.phaseEnded (s : State) (r : MemReq) : State := if r.phase.isSome then s.publish r.die else s

/-- A request has failed with a code: its lane will report it. A prefetch is dropped (R398). -/
def State.failReq (s : State) (id : Nat) (code : Byte) : State :=
  match s.req? id with
  | none => s
  | some r =>
    if r.op = .prefetch then s.dropReq id
    else (s.modReq id fun r => { r with stage := .answered, fault := some code }).phaseEnded r

/-! ## Order within a troupe (R167, R208, R233) -/

/-- Whether two requests touch a common byte; before translation the pages decide. -/
def MemReq.overlaps (a b : MemReq) : Bool :=
  decide (a.va.toNat < b.va.toNat + max 1 b.bytes) && decide (b.va.toNat < a.va.toNat + max 1 a.bytes)

/-- An earlier access `a` that has no translation yet may name any location that several pages can map, those of kinds 0x8 to 0xA. -/
def MemReq.touches (a b : MemReq) : Bool :=
  a.overlaps b || (decide (a.loc < b.loc + max 1 b.bytes) && decide (b.loc < a.loc + max 1 a.bytes) && a.loc != 0)
    || ((match a.stage with | .untranslated _ => true | _ => false) && decide (8 ≤ b.kind ∧ b.kind ≤ 10)
      && (memWrites a.op || memWrites b.op))

/-- Whether an earlier access of the same troupe to a common location, of another instruction, is not performed yet. -/
def State.blockedReq (s : State) (r : MemReq) : Bool :=
  s.reqs.any fun q => q.wg == r.wg && q.trix == r.trix && decide (q.id < r.id) && q.split != r.split
    && !q.over && q.touches r && q.op != .prefetch

/-- Whether the troupe has an earlier request parked to the page (R167). -/
def State.parksBehind (s : State) (r : MemReq) : Bool :=
  s.reqs.any fun q => q.wg == r.wg && q.trix == r.trix && decide (q.id < r.id) && q.stage == .parked
    && q.ctx == r.ctx && q.va.toNat / 4096 == r.va.toNat / 4096

/-! ## Windows, permissions, place -/

/-- The non-coherent window that an access falls in (R222, R223): its CL and whether it is read-only. -/
def Ctx.windowOf (c : Ctx) (pte : DWord) (va : DWord) : Option (WinCl × Bool) :=
  if pteShare pte = 1 ∨ (pteShare pte = 6 ∧ pteKind pte = 8) then
    (List.range 16).findSome? fun n =>
      let b := c.ncbase.getD n 0
      let l := c.nclim.getD n 0
      let page := va.toNat / 4096
      if b.getLsbD 0 && fieldD b 3 2 != 3 && decide (fieldD b 47 12 ≤ page) && decide (page ≤ fieldD l 47 12) then
        some ((match fieldD b 3 2 with | 0 => .both | 1 => .rdcOnly | _ => .uncached), b.getLsbD 1)
      else none
  else none

/-- An access to a register window (R385): plain loads and stores of 4 or 8 bytes only. -/
def windowAccess (o : MemOp) (bytes : Nat) : Bool :=
  (bytes == 4 || bytes == 8) && match o with | .load _ => true | .store => true | _ => false

/-- The line of a location. -/
def MemReq.line (r : MemReq) : Nat := r.loc / 64

/-- Offers to an order network stand by cycle, and within a cycle by core number (R206). -/
def insertOffer (o : Offered) : List Offered → List Offered
  | [] => [o]
  | x :: l => if x.cycle < o.cycle ∨ (x.cycle = o.cycle ∧ x.core ≤ o.core) then x :: insertOffer o l else o :: x :: l

/-- A request that waits for its order-network slot (R206) has its number in the die's list; the lanes of one instruction that
name one line go together, behind the lowest of them. -/
def State.enqueue (s : State) (r : MemReq) : State :=
  let led := s.reqs.any fun q => q.split == r.split && q.stage == .ready && q.line == r.line && q.id != r.id
  let s := s.modReq r.id fun _ => { r with stage := .ready }
  if led then s else s.modDie r.die fun d => { d with notices := insertOffer ⟨d.cycle, r.core, r.id⟩ d.notices }

/-- An atomic OR into a page table entry (R161). -/
def State.orPte (s : State) (loc : Nat) (bits : DWord) : State :=
  if s.viewD loc &&& bits = bits then s
  else s.viewWrite loc (natLe 8 (s.viewD loc ||| bits).toNat)

/-- The D bit of the entry behind a store or atomic (R161). -/
def State.markDirty (s : State) (c : Ctx) (va : DWord) : State :=
  match s.walk c va with
  | .leaf _ _ loc => s.orPte loc 0x80#64
  | _ => s

/-- One line's part of a packed variable-precision element: its bytes from `ofs` on. -/
def MemReq.partOf (r : MemReq) (id ofs n : Nat) (op : MemOp) : MemReq :=
  { r with id := id, va := r.va + BitVec.ofNat 64 ofs, bytes := n, op := op, val := (r.val.drop ofs).take n
           stage := .untranslated false }

/-- The parts of an element of n bytes by line, as offset and length (R386). -/
def lineParts (a : Nat) : Nat → Nat → List (Nat × Nat)
  | 0, _ => []
  | _ + 1, 0 => []
  | fuel + 1, n + 1 =>
    let k := min (n + 1) (64 - a % 64)
    (0, k) :: (lineParts (a + k) fuel (n + 1 - k)).map fun p => (p.1 + k, p.2)

/-- A packed element's request replaced by one per line (R386). -/
def State.splitPacked (s : State) (r : MemReq) (op : MemOp) : State × List Nat :=
  let parts := lineParts r.va.toNat 4 r.bytes
  let ids := r.id :: (List.range (parts.length - 1)).map fun i => s.fresh + i
  let new := (ids.zip parts).map fun p => r.partOf p.1 p.2.1 p.2.2 op
  ({ s with reqs := s.reqs.filter (fun q => q.id != r.id) ++ new, fresh := s.fresh + parts.length }, ids)

/-- A translated request takes its place: permission has been checked (`translate`), the kind, the windows and the typed forms
decide the rest. -/
def State.placed (s : State) (c : Ctx) (r : MemReq) (loc : Nat) (pte : DWord) : State :=
  let kind := locKind loc
  let win := c.windowOf pte r.va
  let need := memNeed r.op
  if kind = 15 && !windowAccess r.op r.bytes then s.failReq r.id protect
  else if win.any (·.2) && need.writes then s.failReq r.id protect
  else if (match r.op with | .depinit _ _ _ => true | .depdec => true | .chunk => true | _ => false) && kind != 0 then
    s.failReq r.id protect
  else if memTyped r.op && !pteTyped pte then s.failReq r.id typefmt
  else if r.op = .prefetch && pteShare pte = 5 then s.dropReq r.id
  else
    match (if kind = 10 then s.peerFault c loc r.bytes else none) with
    | some e => s.failReq r.id e
    | none =>
      let home := c.homeOf r.die loc
      let phase := if kind = 0 && home != r.die then r.phase else none
      let s := if need.writes then s.markDirty c r.va else s
      let s := if phase.isSome then s.modTroupe r.wg r.trix fun t => { t with sent := t.sent ||| (1#32 <<< home) } else s
      s.enqueue { r with
        loc := loc, kind := kind, home := home, typed := pteTyped pte, migrating := decide (pteShare pte = 5)
        win := win.map (·.1), phase := phase
        tgtLife := s.knownLife r.die home }

/-- A request enters the die's park table, or waits for room there (R166); a prefetch never parks (R398). -/
def State.parkReq (s : State) (r : MemReq) : State :=
  if r.op = .prefetch then s.dropReq r.id
  else if parkSize ≤ s.parked r.die then s.modReq r.id fun q => { q with stage := .untranslated false }
  else
    ((s.modReq r.id fun q => { q with stage := .parked, wasParked := true, arrival := s.fresh }).bump).resolve r.ctx
      (r.va.toNat / 4096)

/-- A request translated through a leaf: refused, parked or placed. The packed and typed forms of `vpld` and `vpst` part
here. -/
def State.leafReq (s : State) (c : Ctx) (r : MemReq) (pte : DWord) (level : Nat) : State :=
  match c.leafAt (memNeed r.op) pte level r.va with
  | .fault e => s.failReq r.id e
  | .park _ => s.parkReq r
  | .at loc p =>
    match r.op with
    | .vpload w len false =>
      if pteTyped p then s.placed c { r with op := .vpload w len true, bytes := 1 } loc p
      else
        let (s, ids) := s.splitPacked r (.vpload w len true)
        match s.req? (ids.headD 0) with
        | some q => s.placed c q loc p
        | none => s
    | .vpstore w len false =>
      if pteTyped p then s.placed c { r with op := .vpstore w len true, bytes := 1 } loc p
      else
        let (s, ids) := s.splitPacked r (.vpstore w len true)
        match s.req? (ids.headD 0) with
        | some q => s.placed c q loc p
        | none => s
    | _ => s.placed c r loc p

/-- A request tries the die's cached translations (R166, R170). -/
def State.tryTranslate (s : State) (r : MemReq) : State :=
  if fieldD r.va 63 48 ≠ 0 then s.failReq r.id xlate
  else if s.parksBehind r then s.parkReq r
  else
    match s.ctx? r.ctx, s.tlb? r.die r.ctx (r.va.toNat / 4096) with
    | some c, some e => s.leafReq c r e.pte e.level
    | some _, none => s.modReq r.id fun q => { q with stage := .untranslated false }
    | none, _ => s.failReq r.id xlate

/-- New requests join the state, each trying its translation at once. -/
def State.addReqs (s : State) (rs : List MemReq) : State :=
  rs.foldl (fun s r =>
    let s := { s with reqs := s.reqs ++ [r] }
    if r.stage = .held then s else s.tryTranslate r) s

/-! ## Untracked copies and acquires (R205, R388) -/

/-- What an acquire at a scope drops. -/
def CLine.dropped (l : CLine) (die core : Nat) (sc : Scope) : Bool :=
  !l.tracked && !l.excl && !l.window && l.die == die &&
    match sc with
    | .tr => false
    | .wg => false
    | .cl => l.core == some core
    | .die => l.core == some core
    | _ => l.core == some core || l.core == none

def State.acquire (s : State) (die core : Nat) (sc : Scope) : State :=
  { s with lines := s.lines.filter fun l => !l.dropped die core sc }

/-- Untracked copies of a line in the core's L1 and the die's remote-data cache are refreshed by a read at the coherence point
(R205, R467, R468). -/
def State.refresh (s : State) (die core ln : Nat) : State :=
  let bytes := s.view (64 * ln) 64
  { s with
    lines := s.lines.map fun l =>
      if l.line == ln && l.die == die && !l.tracked && !l.excl && !l.window && (l.core == some core || l.core == none)
      then { l with data := bytes } else l }

/-! ## Landing (R143, R250, R342) -/

/-- The value of a load's bytes as its size code states (R298): the registers, low half first. -/
def loadWords (size : BitVec 3) (b : List Byte) : List Word :=
  let n := leNat b
  match size.toNat with
  | 0 => [BitVec.ofNat 32 (n % 2 ^ 8)]
  | 1 => [(BitVec.ofNat 8 n).signExtend 32]
  | 2 => [BitVec.ofNat 32 (n % 2 ^ 16)]
  | 3 => [(BitVec.ofNat 16 n).signExtend 32]
  | 4 => [BitVec.ofNat 32 n]
  | _ => [BitVec.ofNat 32 n, BitVec.ofNat 32 (n / 2 ^ 32)]

def words4 (b : List Byte) : List Word :=
  (List.range ((b.length + 3) / 4)).map fun i => BitVec.ofNat 32 (leAt b (4 * i) 4)

/-- One lane's registers written by its reply, at a cycle of its die. -/
def Troupe.landLane (t : Troupe) (now : Nat) (names : List (Nat × Nat)) (l : Nat) (ws : List Word) : Troupe :=
  (names.zip ws).foldl (fun t p => t.lateV now p.1.1 p.1.2 (1#96 <<< l) (lanesOf fun _ => p.2)) t

/-- The reply of a lane written to its destination. -/
def Troupe.land (t : Troupe) (now : Nat) (p : Split) (l : Nat) (res : List Byte) : Troupe :=
  match p.landing with
  | .vec names => t.landLane now names l (loadWords p.size res)
  | .vp _ names => t.landLane now names l (words4 res)
  | .scalar n pair =>
    let ws := loadWords p.size res
    let t := t.lateS now n (ws.getD 0 0)
    if pair then t.lateS now (n + 1) (ws.getD 1 0) else t
  | .status n => t.lateS now n ((loadWords 4 res).getD 0 0)
  | .nothing => t

/-- A lane of split-phase instruction `id` has landed or failed: nothing more is written there (R144). -/
def Troupe.reached (t : Troupe) (id l : Nat) : Troupe :=
  let step (h : Hazard) : Option Hazard :=
    if h.order ≠ .split id then some h
    else
      match h.reg with
      | .v _ => if h.lanes &&& ~~~(1#96 <<< l) = 0 then none else some { h with lanes := h.lanes &&& ~~~(1#96 <<< l) }
      | _ => none
  { t with hazards := t.hazards.filterMap step }

def Split.tokens (p : Split) : List Nat :=
  match p.landing with
  | .vec ns => ns.map Prod.snd
  | .vp _ ns => ns.map Prod.snd
  | _ => []

/-- Physical registers that only a finished load still held return to the pool (R133). -/
def State.freeZombies (s : State) (toks : List Nat) : State :=
  { s with pipes := s.pipes.map fun p => { p with zombies := p.zombies.filter fun z => !toks.contains z.2 } }

def decAt (l : List Nat) (k : Nat) : List Nat := modAt l k fun n => n - 1

/-- Every lane of an instruction has landed or failed: its counter falls, its flag clears, its acquire acts (R143, R388). -/
def State.endSplit (s : State) (p : Split) : State :=
  let s := { s with splits := s.splits.filter fun q => q.id != p.id }
  let s := s.modTroupe p.wg p.trix fun t => { t with
    acs := match p.ac with | some k => decAt t.acs k | none => t.acs
    flags := match p.flag with | some f => t.flags &&& ~~~(1#12 <<< f) | none => t.flags }
  let s := s.freeZombies p.tokens
  match p.acquire, s.troupe? p.wg p.trix with
  | some sc, some t => s.acquire t.die t.core sc
  | _, _ => s

/-- One lane of an instruction ends. -/
def State.laneDone (s : State) (split : Nat) : State :=
  match s.split? split with
  | none => s
  | some p =>
    if p.left ≤ 1 then s.endSplit p
    else { s with splits := modWhere s.splits (fun q => q.id == split) fun q => { q with left := q.left - 1 } }

/-- The requests of one lane of an instruction. -/
def State.laneReqs (s : State) (r : MemReq) : List MemReq :=
  s.reqs.filter fun q => q.split == r.split && q.lane == r.lane

/-- The failed part at the lowest address (R382). -/
def lowestFault (rs : List MemReq) : Option (Byte × DWord) :=
  rs.foldl (fun b r =>
    match r.fault, b with
    | some e, none => some (e, r.va)
    | some e, some (e', v) => if r.va.toNat < v.toNat then some (e, r.va) else some (e', v)
    | none, b => b) none

end Sys2Proof.Machine
end

