-- ==== Sys2Proof/Machine/Net.lean ====
section
/-! DEFINITION. Traffic on the base mesh (R30 to R39): packets, sequence numbers, returned packets, link-state changes, mailboxes, and
what becomes of a request that cannot be delivered. -/

namespace Sys2Proof.Machine

/-! ## The command-complex cores (R64) -/

def CcCore.reset (d c : Nat) : CcCore := ⟨d, c, 7, none, false⟩
def State.ccCore (s : State) (d c : Nat) : CcCore := (s.ccCores.find? fun x => x.die == d && x.core == c).getD (CcCore.reset d c)
def State.setCc (s : State) (x : CcCore) : State :=
  { s with ccCores := (s.ccCores.filter fun y => !(y.die == x.die && y.core == x.core)) ++ [x] }

/-- A message that comes back to its sender. -/
def State.mailBack (s : State) (m : Message) (stat : Byte) : State :=
  let c := s.ccCore m.srcDie m.srcCore
  s.setCc { c with inbox := some { m with stat := stat } }

/-! ## Failures -/

/-- A request that fails on the way to its home, or at it. -/
def State.failMany (s : State) (ids : List Nat) (code : Byte) : State := ids.foldl (fun s i => s.failReq i code) s

/-- A write-back leaves its buffer: the cache-range instruction that waits for it goes on (R214, R225). -/
def State.endWb (s : State) (id : Nat) : State :=
  let drop (p : Pend) : Pend := match p.act with
    | .range ws => { p with act := .range (ws.filter (· != id)) }
    | _ => p
  { s with wbs := s.wbs.filter fun w => w.id != id
           troupes := s.troupes.map fun t => { t with pend := t.pend.map drop } }

/-- A write-back that cannot reach its home: its bytes are lost, and the error core is told (R7). -/
def State.loseWb (s : State) (id : Nat) : State :=
  match s.wbs.find? fun w => w.id == id with
  | none => s
  | some w => ((if w.taken then s else s.report [.line w.home w.line linkerr])).endWb id

/-- A transaction's grant that cannot reach its requester: the requests fail, and the transaction ends. -/
def State.loseGrant (s : State) (txn : Nat) : State :=
  match s.txns.find? fun t => t.id == txn with
  | none => s
  | some t => { s.failMany t.reqs linkerr with txns := s.txns.filter fun x => x.id != txn }

/-- A holder's copies of a home's lines go, dirty data with them (R219); window lines are no leases (R224). -/
def State.dropHome (s : State) (die home : Nat) : State :=
  { s with lines := s.lines.filter fun l => !(l.die == die && !l.window && l.home == home) }

def State.lease? (s : State) (home die : Nat) : Option Lease := s.leases.find? fun l => l.home == home && l.die == die
def State.modLease (s : State) (home die : Nat) (f : Lease → Lease) : State :=
  { s with leases := modWhere s.leases (fun l => l.home == home && l.die == die) f }

/-- A grant reaches its holder, with the length and the home's life that it carries (R216). Copies held from an earlier life of the home
go first (R220). -/
def State.holdLease (s : State) (home die len : Nat) (life : BitVec 16) : State :=
  let now := s.clockOf die
  match s.lease? home die with
  | none => { s with leases := s.leases ++ [⟨home, die, s.clockOf home, now, now, len, life, false⟩] }
  | some l =>
    (if l.life = life then s else s.dropHome die home).modLease home die fun l => { l with acked := now, len := len, life := life }

/-- The answer to a renewal, or the renewal itself, will not come. -/
def State.endRenewal (s : State) (home die : Nat) : State :=
  { s with leases := modWhere s.leases (fun l => l.home == home && l.die == die) fun l => { l with renewing := false } }

/-- The outcome of R13 for what a packet carries: the router that finds it counts it. -/
def State.unreached (s : State) (at_ src dst : Nat) (load : Payload) : State :=
  let s := s.modRouter at_ fun r => { r with refused := r.refused + 1 }
  match load with
  | .mem ids => s.failMany ids linkerr
  | .mail m => s.mailBack m 1
  | .busy m => s.mailBack m 1
  | .reply ids => ids.foldl (fun s i => s.modReq i fun r => { r with stage := .answered, fault := some (r.fault.getD linkerr) }) s
  | .snoop _ => s
  | .ack _ => s
  | .grant t => s.loseGrant t
  | .wb id => s.loseWb id
  | .wbAck id => s.endWb id
  | .renew => s.endRenewal dst src
  | .renewed _ => s.endRenewal src dst

/-! ## Packets (R30, R31, R34) -/

def SeqSt.reset (a b c : Nat) : SeqSt := ⟨a, b, c, 0, 0, []⟩
def State.seqOf (s : State) (a b c : Nat) : SeqSt :=
  (s.seqs.find? fun q => q.src == a && q.dst == b && q.chan == c).getD (SeqSt.reset a b c)
def State.setSeq (s : State) (q : SeqSt) : State :=
  { s with seqs := (s.seqs.filter fun x => !(x.src == q.src && x.dst == q.dst && x.chan == q.chan)) ++ [q] }

/-- The next number that is still to come: numbers of packets that the mesh has given up are passed over (log entry 76). -/
def wantFrom (gone : List (BitVec 12)) : Nat → BitVec 12 → BitVec 12
  | 0, e => e
  | n + 1, e => if gone.contains e then wantFrom gone n (e + 1) else e

def SeqSt.want (q : SeqSt) : BitVec 12 := wantFrom q.gone q.gone.length q.expect

/-- The destination takes a number; those passed over before it are forgotten. -/
def SeqSt.take (q : SeqSt) : SeqSt :=
  let e := q.want
  { q with expect := e + 1, gone := q.gone.filter fun n => decide ((e - n).toNat ≥ 2 ^ 11) }

def State.countSeq (s : State) (p : Packet) : State := if p.chan = 1 then s else s.setSeq (s.seqOf p.src p.dst p.chan).take

/-- A packet that is given up: its number will not come. -/
def State.giveUp (s : State) (p : Packet) : State :=
  if p.chan = 1 then s
  else
    let q := s.seqOf p.src p.dst p.chan
    s.setSeq { q with gone := q.gone ++ [p.seq] }

/-- Whether a packet is on the mesh. -/
def Packet.moving (p : Packet) : Bool := !p.returned && !p.held

/-- The virtual channel that a packet is in (R31): a NACK travels on the response channel. -/
def Packet.vc (p : Packet) : Nat := if p.nack then 1 else if p.escape then 3 else p.chan
/-- Where it goes: a NACK to its source. -/
def Packet.goal (p : Packet) : Nat := if p.nack then p.src else p.dst

/-- The packets that come to the head of their buffers, marked with the cycle (R33). -/
def State.markFrom (s : State) : List (Nat × Nat × Nat) → List Packet → List Packet
  | _, [] => []
  | seen, p :: ps =>
    if !p.moving then p :: s.markFrom seen ps
    else
      let b := (p.place, p.port, p.vc)
      if seen.contains b then p :: s.markFrom seen ps
      else { p with since := some (p.since.getD (s.router p.place).clock) } :: s.markFrom (b :: seen) ps

def State.markHeads (s : State) : State := { s with packets := s.markFrom [] s.packets }

/-- Packets of a source that wait to be resent to a destination, on every channel class. -/
def State.returnedOf (s : State) (a b : Nat) : List Packet := s.packets.filter fun p => p.src == a && p.dst == b && p.returned

/-- The channel of a packet as it leaves: the escape channel where its route is on the tree, or differs from that of the previous epoch
and is not settled (R32, R36). -/
def State.escapes (s : State) (a b : Nat) : Bool × Bool :=
  let r := s.router a
  match meshPath r.down false a b with
  | none => (true, true)
  | some (tree, p) => (tree || (r.settled != r.epoch && (meshPath r.prevDown false a b).map Prod.snd != some p), tree)

/-- A packet leaves its source; with no way to the destination it has the outcome of R13. Packets are numbered but for
responses, and stay behind returned ones. `life` is the destination's as the packet carries it. -/
def State.sendWith (s : State) (life : BitVec 16) (src dst chan : Nat) (load : Payload) : State :=
  if !(if chan = 1 then s.socketOn dst && (meshPath (s.router src).down false src dst).isSome else s.reachable src dst) then
    s.unreached src src dst load
  else
    let q := s.seqOf src dst chan
    let (esc, tree) := s.escapes src dst
    let p : Packet := ⟨s.fresh, src, dst, chan, q.next, s.lifeOf src, life, src, src, esc, tree, none,
      false, false, s.returnedOf src dst != [], (s.router src).epoch, load⟩
    let s := if chan = 1 then s else s.setSeq { q with next := q.next + 1 }
    { s with packets := s.packets ++ [p], fresh := s.fresh + 1 }.markHeads

def State.send (s : State) (src dst chan : Nat) (load : Payload) : State := s.sendWith (s.knownLife src dst) src dst chan load

def State.packet? (s : State) (id : Nat) : Option Packet := s.packets.find? fun p => p.id == id
def State.dropPacket (s : State) (id : Nat) : State := { s with packets := s.packets.filter fun p => p.id != id }.markHeads
def State.modPacket (s : State) (id : Nat) (f : Packet → Packet) : State :=
  { s with packets := modWhere s.packets (fun p => p.id == id) f }.markHeads

/-- A message of a transaction or a write-back that is no more: nobody takes it. -/
def State.orphaned (s : State) (p : Packet) : Bool :=
  match p.load with
  | .snoop t => !(s.txns.any fun x => x.id == t)
  | .ack t => !(s.txns.any fun x => x.id == t)
  | .grant t => !(s.txns.any fun x => x.id == t)
  | .wb id => !(s.wbs.any fun x => x.id == id)
  | .wbAck id => !(s.wbs.any fun x => x.id == id)
  | _ => false

/-- Messages that nobody takes leave the mesh, and their numbers are passed over (log entry 76). -/
def State.sweep (s : State) : State := (s.packets.filter s.orphaned).foldl (fun s p => (s.giveUp p).dropPacket p.id) s

/-- The bytes of data that a request takes to its home, and that its answer brings back. -/
def MemReq.outBytes (r : MemReq) : Nat :=
  r.val.length + r.val2.length + match r.op with | .depinit _ rec _ => rec.length | _ => 0
def MemReq.backBytes (r : MemReq) : Nat := r.result.length

/-- Lanes put into packets of at most 256 bytes of data (R30), in order. -/
def packLanes (size : MemReq → Nat) : List MemReq → List (List MemReq)
  | [] => []
  | r :: rs =>
    match packLanes size rs with
    | [] => [[r]]
    | g :: gs => if size r + (g.map size).foldl (· + ·) 0 ≤ 256 then (r :: g) :: gs else [r] :: g :: gs

/-- Lanes leave for their home. -/
def State.sendLanesTo (s : State) (src dst : Nat) (rs : List MemReq) : State :=
  (packLanes MemReq.outBytes rs).foldl (fun s g => s.send src dst 0 (.mem (g.map MemReq.id))) s

/-- The flits of a packet (R30): one of header, then its data. -/
def State.flits (s : State) (p : Packet) : Nat :=
  let bytes (size : MemReq → Nat) (ids : List Nat) : Nat := ((ids.filterMap s.req?).map size).foldl (· + ·) 0
  1 + cdiv (match p.load with
    | .mem ids => bytes MemReq.outBytes ids
    | .reply ids => bytes MemReq.backBytes ids
    | .mail _ => 64
    | .busy _ => 64
    | .ack _ => 64
    | .grant _ => 64
    | .wb _ => 64
    | _ => 0) 32

/-! ## Crossing the mesh (R31 to R33) -/

/-- The next router of a packet's route by the tables of the router where it is, and whether it is on the tree from here on. -/
def State.nextHop (s : State) (p : Packet) : Option (Nat × Bool) :=
  (meshPath (s.router p.place).down p.tree p.place p.goal).bind fun x => x.2.head?.map fun n => (n, x.1)

/-- Whether the buffer at the other end of a link takes a packet: an empty one does, and one with slots free; the last two slots of an
escape channel only a packet on the tree (R31). The number of slots is the implementation's (log entry 77). -/
def State.bufferTakes (s : State) (p : Packet) (n : Nat) (tree : Bool) : Bool :=
  let vc := if tree && !p.nack then 3 else p.vc
  let there := s.packets.filter fun q => q.moving && q.place == n && q.port == p.place && q.vc == vc
  there == [] ||
    decide ((there.map s.flits).foldl (· + ·) 0 + s.flits p ≤ if vc = 3 && !tree then Config.bufferFlits - 2 else Config.bufferFlits)

/-- Whether a packet is at the head of its buffer. -/
def Packet.atHead (p : Packet) : Bool := p.moving && p.since.isSome

/-- A packet crosses one link; where its router knows no way, it has the outcome of R13. None where it cannot move. -/
def State.hop (s : State) (pkt : Nat) : Option State :=
  match s.packet? pkt with
  | none => none
  | some p =>
    if !p.atHead || p.place == p.goal then none
    else
      match s.nextHop p with
      | none => some (((s.giveUp p).dropPacket pkt).unreached p.place p.src p.dst p.load)
      | some (n, tree) =>
        if s.bufferTakes p n tree then
          let p' := { p with place := n, port := p.place, tree := p.tree || tree, escape := p.escape || tree, since := none }
          some { s with packets := (s.packets.filter fun (q : Packet) => q.id != pkt) ++ [p'] }.markHeads
        else none

/-- A packet goes as far as it can; `fuel` bounds the links. -/
def State.travel (s : State) (pkt : Nat) : Nat → State
  | 0 => s
  | n + 1 => match s.hop pkt with | some s => s.travel pkt n | none => s

/-! ## Arrival (R34, R39) -/

/-- How a request or forward packet meets its destination (R34, R39, R13). -/
inductive Arrival where
  | nack | offline | life | accept
  deriving DecidableEq, Repr

def State.meets (s : State) (p : Packet) : Arrival :=
  if (s.seqOf p.src p.dst p.chan).want ≠ p.seq then .nack
  else if !s.socketOn p.dst || (s.router p.dst).inReset || !s.sharesPart p.src p.dst then .offline
  else if p.tgtLife ≠ s.lifeOf p.dst then .life
  else .accept

/-- The outcome of a life mismatch (R39, R220): the source learns the new life. A holder that has reset holds nothing. -/
def State.lifeRefused (s : State) (src dst : Nat) (load : Payload) : State :=
  let s := s.learnLife src dst
  match load with
  | .mem ids => s.failMany ids linkerr
  | .mail m => s.mailBack m 2
  | .snoop t => { s with txns := modWhere s.txns (fun x => x.id == t) fun x =>
      { x with targets := x.targets.filter (·.1 != dst), acks := x.acks ++ [dst] } }
  | .wb id => s.loseWb id
  | .renew => s.send dst src 1 (.renewed none)
  | _ => s

/-- A response of an old life (R39): nothing on the requester's side observes it. -/
def State.staleResponse (s : State) (p : Packet) : State :=
  let s := s.modRouter p.dst fun r => { r with stale := if r.stale = 0xFFFFFFFF#32 then r.stale else r.stale + 1 }
  match p.load with
  | .reply ids => { s with reqs := s.reqs.filter fun r => !ids.contains r.id }
  | .grant t => { s with txns := s.txns.filter fun x => x.id != t }
  | .wbAck id => s.endWb id
  | _ => s

/-- A packet crosses the mesh to its destination, as far as it can. The destination takes it, or answers it itself: the packet taken, if
any. -/
def State.bring (s : State) (pkt : Nat) : State × Option Packet :=
  match s.packet? pkt with
  | none => (s, none)
  | some p =>
    if !p.moving || p.nack then (s, none)
    else
      let s := s.travel pkt 128
      match s.packet? pkt with
      | none => (s, none)
      | some p =>
        if !p.atHead || p.place != p.dst then (s, none)
        else if p.chan = 1 then
          let s := s.dropPacket pkt
          if p.tgtLife ≠ s.lifeOf p.dst then (s.staleResponse p, none) else (s, some p)
        else
          match s.meets p with
          | .nack => (s.modPacket pkt fun p => { p with nack := true, since := none }, none)
          | .offline => (((s.countSeq p).dropPacket pkt).unreached p.dst p.src p.dst p.load, none)
          | .life => (((s.countSeq p).dropPacket pkt).lifeRefused p.src p.dst p.load, none)
          | .accept => ((s.countSeq p).dropPacket pkt, some p)

/-- The packet of a kind from a socket to another. -/
def State.packetIf (s : State) (src dst : Nat) (is : Payload → Bool) : Option Nat :=
  (s.packets.find? fun p => p.src == src && p.dst == dst && is p.load).map Packet.id

/-- A message of a kind arrives from another die: its packet, or none while it is on its way or where there is none. -/
def State.bringIf (s : State) (src dst : Nat) (is : Payload → Bool) : State × Option Packet :=
  match s.packetIf src dst is with
  | none => (s, none)
  | some id => s.bring id

/-- The same for a message that is known. -/
def State.bringLoad (s : State) (src dst : Nat) (load : Payload) : State × Bool :=
  let (s, p) := s.bringIf src dst (· == load)
  (s, p.isSome)

/-- A NACK goes back to its source, which resends the packet later (R34, R35). -/
def State.bringNack (s : State) (pkt : Nat) : State :=
  let s := s.travel pkt 128
  match s.packet? pkt with
  | some p =>
    if p.nack && p.atHead && p.place == p.src then
      s.modPacket pkt fun p => { p with
        nack := false, returned := true, since := none
        load := match p.load with | .busy m => .mail m | l => l }
    else s
  | none => s

/-- The next slot of a die's order network (R206). -/
def State.takeSlot (s : State) (die : Nat) : State := s.modDie die fun d => { d with slots := d.slots + 1 }

/-- The lanes of a message take their place at the home in arrival order, which is the order of the slots that they take there
(R206, R208). -/
def State.joinHome (s : State) (ids : List Nat) : State :=
  (ids.foldl (fun s i => s.modReq i fun r => if r.over then r else { r with stage := .atHome, arrival := s.fresh }) s).bump

/-! ## Events -/

/-- A request packet at its destination: the lanes take a slot of the home's order network. Write-backs, snoops, renewals and mail have
events of their own. -/
def execPacketArrival (pkt : Nat) (s : State) : Host.Outcome State Fault Refusal :=
  match s.packet? pkt with
  | none => .next s
  | some p =>
    match p.load with
    | .mem ids =>
      match s.bring pkt with
      | (s, some p) => .next ((s.takeSlot p.dst).joinHome ids)
      | (s, none) => .next s
    | _ => .next s

/-- A response at its requester's router (R39, R44): the requests that it answers, if they are still waiting, have their
replies, and a write-back leaves its buffer. A NACK comes back to its source. -/
def execResponseArrival (pkt : Nat) (s : State) : Host.Outcome State Fault Refusal :=
  match s.packet? pkt with
  | none => .next s
  | some p =>
    if p.nack then .next (s.bringNack pkt)
    else
      match p.load with
      | .reply ids =>
        match s.bring pkt with
        | (s, none) => .next s
        | (s, some p) =>
          let late := ids.any fun i => ((s.req? i).map (·.stage)) != some Stage.returning
          let s := if late then
              s.modRouter p.dst fun r => { r with stale := if r.stale = 0xFFFFFFFF#32 then r.stale else r.stale + 1 }
            else s
          let hold (s : State) (r : MemReq) : State := match r.lease with
            | some n => s.holdLease p.src p.dst n p.reqLife
            | none => s
          let s := (ids.filterMap s.req?).foldl hold s
          .next (ids.foldl (fun s i => s.modReq i fun r =>
            if r.stage = .returning then { r with stage := .answered } else r) s)
      | .wbAck id =>
        match s.bring pkt with
        | (s, none) => .next s
        | (s, some _) => .next (s.endWb id)
      | _ => .next s

/-- A packet before another by its sequence number, counted from the number that its destination waits for. -/
def State.insertSeq (s : State) (p : Packet) : List Packet → List Packet
  | [] => [p]
  | q :: l =>
    let place (x : Packet) : Nat := (x.seq - (s.seqOf x.src x.dst x.chan).want).toNat
    if place q ≤ place p then q :: s.insertSeq p l else p :: q :: l

/-- Every returned packet of a source for a destination leaves again in sequence order, or has the outcome of R13 (R37); those that
stood behind them follow. -/
def execNackResend (src dst : Nat) (s : State) : Host.Outcome State Fault Refusal :=
  if s.returnedOf src dst = [] then .next s
  else
    let mine (p : Packet) : Bool := p.src == src && p.dst == dst && (p.returned || p.held)
    let all := (s.packets.filter mine).foldl (fun l p => s.insertSeq p l) []
    if s.reachable src dst then
      let (esc, tree) := s.escapes src dst
      let ep := (s.router src).epoch
      let again (p : Packet) : Packet := { p with
        returned := false, held := false, place := src, port := src, escape := p.escape || esc, tree := p.tree || tree
        since := none, epoch := ep }
      .next { s with packets := (s.packets.filter fun p => !mine p) ++ all.map again }.markHeads
    else .next (all.foldl (fun s p => ((s.giveUp p).dropPacket p.id).unreached src src dst p.load) s)

/-- A packet that has waited 64 cycles at the head of its buffer moves to the escape channel, and to the tree (R33). -/
def execEscapeMove (pkt : Nat) (s : State) : Host.Outcome State Fault Refusal :=
  match s.packet? pkt with
  | none => .next s
  | some p =>
    let waited := p.since.any fun c => decide (c + 64 ≤ (s.router p.place).clock)
    if p.moving && !p.nack && !p.escape && waited then
      .next (s.modPacket pkt fun p => { p with escape := true, tree := true, since := none })
    else .next s

/-! ## Link state (R35, R36) -/

/-- A link of the mesh. -/
def isLink (a b : Nat) : Bool := a < 64 && b < 64 && (meshNear a).contains b

/-- A router applies a change to its tables. -/
def Router.apply (r : Router) (l : Nat × Nat) (up : Bool) (epoch : BitVec 16) : Router :=
  { r with prevDown := r.down, epoch := epoch
           down := if up then r.down.filter (· != l) else if r.down.contains l then r.down else r.down ++ [l] }

/-- A new route epoch. -/
def State.newEpoch (s : State) : BitVec 16 := BitVec.ofNat 16 (1 + maxOf (s.routers.map fun r => r.epoch.toNat))

/-- A link changes: its end routers act at once, and the lower one floods a notice. -/
def State.linkChange (s : State) (l : Nat × Nat) (up : Bool) : State :=
  let e := s.newEpoch
  let s1 := (s.modRouter l.1 fun r => r.apply l up e).modRouter l.2 fun r => r.apply l up e
  { s1 with
    linksDown := if up then s.linksDown.filter (· != l) else s.linksDown ++ [l]
    notices := s.notices ++ [⟨e, l.1, l.2, up, [l.1, l.2], [], false⟩] }

/-- Whether a packet is queued for a link: it is in a buffer at one end, and its next router is the other. -/
def State.queuedFor (s : State) (p : Packet) (l : Nat × Nat) : Bool :=
  p.moving && p.place != p.goal && (s.nextHop p).any fun n => linkOf p.place n.1 == l

/-- The packets queued for the failed link go back to their sources as NACKs on the response channel, and free every slot that they
held. -/
def execLinkFailure (a b : Nat) (s : State) : Host.Outcome State Fault Refusal :=
  let l := linkOf a b
  if !isLink a b || s.linksDown.contains l then .next s
  else
    let back (p : Packet) : Packet := if s.queuedFor p l && !p.nack then { p with nack := true, since := none } else p
    .next ({ s with packets := s.packets.map back }.markHeads.linkChange l false)

def execLinkUp (a b : Nat) (s : State) : Host.Outcome State Fault Refusal :=
  let l := linkOf a b
  if isLink a b && s.linksDown.contains l then .next (s.linkChange l true) else .next s

def State.modNotice (s : State) (epoch : BitVec 16) (f : Notice → Notice) : State :=
  { s with notices := modWhere s.notices (fun n => n.epoch == epoch) f }

/-- A router applies a notice. -/
def execLinkStateNotice (router : Nat) (epoch : BitVec 16) (s : State) : Host.Outcome State Fault Refusal :=
  match s.notices.find? fun n => n.epoch == epoch && !n.applied.contains router with
  | none => .next s
  | some n =>
    if router < 64 then
      .next ((s.modRouter router fun r => r.apply (n.a, n.b) n.up epoch).modNotice epoch fun n => { n with applied := n.applied ++ [router] })
    else .next s

/-- The lower-numbered end router takes an acknowledgement; with the last one it floods the settled notice. -/
def execLinkStateAck (router : Nat) (epoch : BitVec 16) (s : State) : Host.Outcome State Fault Refusal :=
  .next (s.modNotice epoch fun n =>
    if n.applied.contains router && !n.acked.contains router then
      let acked := n.acked ++ [router]
      { n with acked := acked, settled := decide (64 ≤ acked.length) }
    else n)

def execSettledNotice (router : Nat) (epoch : BitVec 16) (s : State) : Host.Outcome State Fault Refusal :=
  if s.notices.any fun n => n.epoch == epoch && n.settled then .next (s.modRouter router fun r => { r with settled := epoch })
  else .next s

/-! ## Mailboxes (R64 to R67) -/

def mailDepth : Nat := 16

def State.mailbox (s : State) (d i j : Nat) : Mailbox :=
  (s.mailboxes.find? fun m => m.die == d && m.src == i && m.dst == j).getD ⟨d, i, j, []⟩
def State.setMailbox (s : State) (m : Mailbox) : State :=
  { s with mailboxes := (s.mailboxes.filter fun x => !(x.die == m.die && x.src == m.src && x.dst == m.dst)) ++ [m] }

/-- A message appended to a mailbox of a die, if it has room. -/
def State.putMail (s : State) (d : Nat) (m : Message) : Option State :=
  let b := s.mailbox d m.srcCore m.dstCore
  if mailDepth ≤ b.msgs.length then none else some (s.setMailbox { b with msgs := b.msgs ++ [m] })

def State.setBusy (s : State) (d c : Nat) (b : Bool) : State := s.setCc { s.ccCore d c with busy := b }

/-- Whether a sender's count is that of a message's mailbox (R65). -/
def MailSeq.counts (q : MailSeq) (m : Message) : Bool :=
  q.srcDie == m.srcDie && q.srcCore == m.srcCore && q.dstDie == m.dstDie && q.dstCore == m.dstCore

def State.mailSeq (s : State) (m : Message) : BitVec 16 := ((s.mailSeqs.find? (·.counts m)).map MailSeq.next).getD 0

/-- The sequence number of the mailbox that a sender's message goes to; the sender's count moves on. -/
def State.stampMail (s : State) (m : Message) : State × Message :=
  let n := s.mailSeq m
  ({ s with mailSeqs := (s.mailSeqs.filter fun q => !q.counts m) ++ [⟨m.srcDie, m.srcCore, m.dstDie, m.dstCore, n + 1⟩] },
    { m with seq := n })

/-- A core sends a message: to its own die's mailbox, or over the mesh. Only dies of its own partition are reached (R19). -/
def execMailboxSend (die core : Nat) (m : Message) (s : State) : Host.Outcome State Fault Refusal :=
  if die ≥ 32 || core ≥ 8 || m.dstCore ≥ 8 then .next s
  else
    let m := { m with srcDie := die, srcCore := core, stat := 0, life := s.knownLife die m.dstDie }
    if m.dstDie = die then
      match s.putMail die m with
      | none => .next (s.setBusy die core true)
      | some _ =>
        let (s, m) := s.stampMail m
        .next (((s.putMail die m).getD s).setBusy die core false)
    else
      let (s, m) := s.stampMail m
      let s := s.setBusy die core false
      if s.partOfDie die = none ∨ s.partOfDie die ≠ s.partOfDie m.dstDie then .next (s.unreached die die m.dstDie (.mail m))
      else .next (s.send die m.dstDie 0 (.mail m))

/-- A core takes the next message in rotation. -/
def execMailboxReceive (die core : Nat) (s : State) : Host.Outcome State Fault Refusal :=
  let c := s.ccCore die core
  match ((List.range 8).map fun i => (c.last + 1 + i) % 8).find? fun i => (s.mailbox die i core).msgs != [] with
  | none => .next s
  | some i =>
    let b := s.mailbox die i core
    .next ((s.setMailbox { b with msgs := b.msgs.drop 1 }).setCc { c with last := i, inbox := b.msgs.head? })

/-- A message that has crossed the mesh: into its mailbox, or back to its sender with busy status, as a NACK of its packet. The sender
resends it under the same number, so no later message of the pair passes it (R34, R67). -/
def execMailboxRemoteDeliver (pkt : Nat) (s : State) : Host.Outcome State Fault Refusal :=
  match s.packet? pkt with
  | none => .next s
  | some p =>
    if p.nack then .next (s.bringNack pkt)
    else
      match p.load with
      | .mail m =>
        let full := decide (mailDepth ≤ (s.mailbox p.dst m.srcCore m.dstCore).msgs.length)
        let s1 := s.travel pkt 128
        let there := (s1.packet? pkt).any fun q => q.atHead && q.place == q.dst && s1.meets q == .accept
        if full && there then .next (s1.modPacket pkt fun p => { p with nack := true, since := none, load := .busy m })
        else
          match s.bring pkt with
          | (s, none) => .next s
          | (s, some p) => .next ((s.putMail p.dst m).getD s)
      | _ => .next s

/-! ## Turns of the base (R10, R32) -/

/-- A router's count of the clock goes on. -/
def State.tickRouter (s : State) (r n : Nat) : State := s.modRouter r fun x => { x with clock := x.clock + n }

end Sys2Proof.Machine
end

