-- ==== Sys2Proof/Machine/Fabric.lean ====
section
/-! DEFINITION. The scale-up fabric as this device sends on it (R40 to R44): its ports, the sequence numbers of each peer, the queues of
the ports, and what becomes of transactions that no port can carry. -/

namespace Sys2Proof.Machine

/-! ## Ports -/

/-- The kind of item in the error core's records that stands for a message of the fabric. -/
def itemMessage : Nat := 3

/-- The ports that take traffic: up, and on an X-die that is there (R16, R40). -/
def State.livePorts (s : State) : List Nat := (List.range 16).filter fun p => !s.fabricDown.contains p && s.socketOn (48 + p / 4)

def State.fabSeq (s : State) (pod : Nat) : FabSeq := (s.fabSeqs.find? fun q => q.pod == pod).getD ⟨pod, 0, 0⟩
def State.setFabSeq (s : State) (q : FabSeq) : State := { s with fabSeqs := (s.fabSeqs.filter fun x => x.pod != q.pod) ++ [q] }

/-! ## Transactions -/

/-- What a copy has asked of another device fails (R44): it ends with LINKERR. -/
def State.failCopy (s : State) (id : Nat) (code : Byte) : State :=
  let fail (x : Copy) : Copy :=
    match x.stage with
    | .moved => { x with stage := .signalled, status := 1, fault := code, due := none }
    | .signalled => if x.status = 0 then { x with status := 1, fault := code, due := none } else x
    | _ => x
  { s with copies := modWhere s.copies (fun x => x.id == id) fail }

/-- A transaction that no port can carry (R7, R43): its lanes or its copy fail with LINKERR, and another message goes to the error core.
What waits for a shard engine's message ends by the lease of R186 (R184). -/
def State.loseFab (s : State) (m : FabMsg) : State :=
  match m.load, m.copy with
  | .lanes ids, _ => s.failMany ids linkerr
  | .note (.shard _ _ _), _ => s
  | _, some id => s.failCopy id linkerr
  | _, none => s.report [.item itemMessage m.pod]

/-- The port that a transaction takes: those to one peer are spread over every port that takes traffic (R43). -/
def spread (ports : List Nat) (seq : BitVec 12) : Option Nat := ports[seq.toNat % max 1 ports.length]?

/-- A transaction joins the queue of a port, numbered among those of its peer. -/
def State.sendFab (s : State) (pod : Nat) (copy : Option Nat) (load : FabLoad) : State :=
  let q := s.fabSeq pod
  match spread s.livePorts q.next with
  | none => s.loseFab ⟨0, pod, q.next, copy, load⟩
  | some port => { s.setFabSeq { q with next := q.next + 1 } with fabQ := s.fabQ ++ [⟨port, pod, q.next, copy, load⟩] }

/-- Lanes of one line leave for a peer. -/
def State.sendPeer (s : State) (rs : List MemReq) : State :=
  match rs.head? with
  | none => s
  | some r =>
    match (s.ctx? r.ctx).bind fun c => c.peers.find? fun p => p.e == r.loc / 2 ^ 40 % 2 ^ 8 with
    | none => s.failMany (rs.map MemReq.id) xlate
    | some p => s.sendFab p.pod none (.lanes (rs.map MemReq.id))

/-- A peer takes a transaction. -/
def State.fabTaken (s : State) (m : FabMsg) : State :=
  match m.load with
  | .note o => { s with out := s.out ++ [o] }
  | .lanes ids => s.joinHome ids
  | .data loc b => { s with mem := cellsSet s.mem loc b }

/-- A port sends the oldest transaction of its queue. A peer takes the number that it waits for alone; any other stays to be resent, as on
the mesh (R34, R43). -/
def State.fabricSend (s : State) (port : Nat) : State :=
  match s.fabQ.find? fun m => m.port == port with
  | none => s
  | some m =>
    let q := s.fabSeq m.pod
    if m.seq = q.expect then
      ({ s with fabQ := s.fabQ.filter (· != m) }.setFabSeq { q with expect := q.expect + 1 }).fabTaken m
    else s

/-- The transactions of a port that has failed go to the ports that are left, or fail where there is none (R43). -/
def State.rehome (s : State) (port : Nat) : State :=
  match s.livePorts with
  | [] => s.fabQ.foldl State.loseFab { s with fabQ := [], fabSeqs := [] }
  | p :: ps =>
    let move (m : FabMsg) : FabMsg := if m.port = port then { m with port := (spread (p :: ps) m.seq).getD p } else m
    { s with fabQ := s.fabQ.map move }

/-- A port comes back up. -/
def State.fabricUp (s : State) (port : Nat) : State := { s with fabricDown := s.fabricDown.filter (· != port) }

/-- A port's data-link layer corrects a flit: a corrected link error is counted, and no program sees it (R40). -/
def State.flitError (s : State) (port : Nat) : State :=
  { s with flitErrs := modAt s.flitErrs port fun n => if n = 0xFFFFFFFF#32 then n else n + 1 }

/-- Whether a copy still has transactions in the ports' queues. -/
def State.copyQueued (s : State) (id : Nat) : Bool := s.fabQ.any fun m => m.copy == some id

/-! ## Timeouts of copies, and late answers (R44) -/

/-- An answer is still to come to a request of a die that has been given up. -/
def State.expectLate (s : State) (die : Nat) : State := { s with lates := s.lates ++ [die] }

/-- A response after its timeout is dropped and counted in STALE. -/
def State.lateAnswer (s : State) (die : Nat) : State :=
  if s.lates.contains die then
    { s with lates := s.lates.erase die }.modRouter die fun r => { r with stale := if r.stale = 0xFFFFFFFF#32 then r.stale else r.stale + 1 }
  else s

/-- A copy whose transactions are not answered in time fails with LINKERR. -/
def State.copyTimeout (s : State) (id : Nat) : State :=
  match s.copies.find? fun x => x.id == id with
  | none => s
  | some x =>
    if x.due.any (fun d => decide (d ≤ s.clockOf x.die)) && s.copyQueued id then
      let off (m : FabMsg) : FabMsg := if m.copy == some id then { m with copy := none } else m
      let s := { s with fabQ := s.fabQ.map off }
      (s.failCopy id linkerr).expectLate x.die
    else s

end Sys2Proof.Machine
end

