-- ==== Sys2Proof/Machine/Access.lean ====
section
/-! DEFINITION. Writes by address of agents other than lanes: the queue engines, copies, signal words, records (R110, R414, R416). -/

namespace Sys2Proof.Machine

/-- The outcome of a write by address: a write that faults or waits writes nothing. -/
inductive WriteEnd where
  | fault (code : Byte) (s : State)
  | park (s : State)
  | done (s : State)

/-- The pages that bytes touch. -/
def pagesOf (va : DWord) (n : Nat) : List Nat :=
  if n = 0 then [] else (List.range ((va.toNat % 4096 + n - 1) / 4096 + 1)).map (va.toNat / 4096 + ·)

/-- Whether a page must be walked or resolved before an access to it. -/
def State.parksAt (s : State) (c : Ctx) (die : Nat) (need : Need) (page : Nat) : Bool :=
  match s.translate c die need (BitVec.ofNat 64 (4096 * page)) with
  | .park _ => true
  | _ => false

/-- The pages of an access by an agent that must be walked or resolved, and the lines of migrating frames that it must wait for: the
agent waits for them, or has the code with which a walk or a resolver failed. -/
def State.agentPark (s : State) (c : Ctx) (die : Nat) (need : Need) (va : DWord) (n : Nat) : Except (Byte × State) State :=
  let pages := (pagesOf va n).filter (s.parksAt c die need)
  let mine (a : Nat × Nat × Option Byte) : Bool := a.1 == c.key && pages.contains a.2.1
  match (s.awaited.filter mine).findSome? fun a => a.2.2 with
  | some code => .error (code, { s with awaited := s.awaited.filter fun a => !mine a })
  | none =>
    let new := pages.filter fun p => !(s.awaited.any fun a => a.1 == c.key && a.2.1 == p)
    .ok ({ s with awaited := s.awaited ++ new.map fun p => (c.key, p, none) }.parkRead c die need va n)

/-- A listed line that a write does not cover whole ends with DAMAGED (R178). -/
def State.partDamaged (s : State) (loc n : Nat) : Bool :=
  (linesOf loc n).any fun ln => s.isDamaged ln && !(decide (loc ≤ 64 * ln) && decide (64 * ln + 64 ≤ loc + n))

/-- Whether a write must wait for lines of a migrating frame (R172): one that it does not cover whole, or one in fetch. -/
def State.awaitsLines (s : State) (loc n : Nat) : Bool :=
  (linesOf loc n).any fun ln => (s.migrOf? (64 * ln)).any fun m =>
    m.fetching.getLsbD (ln % 64) || !(decide (loc ≤ 64 * ln) && decide (64 * ln + 64 ≤ loc + n))

/-- Whether an agent's atomic at a location may be performed: a fault with what it leaves behind, a wait for lines of a migrating frame, or
neither (R13, R48, R172, R177, R178, R218). -/
inductive AtomEnd where
  | fault (code : Byte) (s : State)
  | wait
  | go

def State.atomEnd (s : State) (c : Ctx) (die loc n : Nat) : AtomEnd :=
  let home := c.homeOf die loc
  if (s.gap die home).isSome then .fault linkerr (s.noteGap die home)
  else
    match s.farFault c loc n, s.lostIn? c die loc n with
    | some e, _ => .fault e s
    | none, some r => .fault leaseCode (s.takeLost r)
    | none, none =>
      if s.notPresent loc n then .wait
      else
        match s.badLines loc n with
        | some e => .fault e (s.meetError home loc n)
        | none => .go

/-- The write of bytes within one page. -/
def State.writePage (s : State) (c : Ctx) (die : Nat) (va : DWord) (bs : List Byte) : WriteEnd :=
  match s.translate c die .write va with
  | .fault e => .fault e s
  | .park _ => .park s
  | .at loc pte =>
    if locKind loc = 15 then .fault protect s
    else if (c.windowOf pte va).any (·.2) then .fault protect s
    else if (s.gap die (c.homeOf die loc)).isSome then .fault linkerr (s.noteGap die (c.homeOf die loc))
    else
      match s.farFault c loc bs.length, s.lostIn? c die loc bs.length with
      | some e, _ => .fault e s
      | none, some r => .fault leaseCode (s.takeLost r)
      | none, none =>
        if s.awaitsLines loc bs.length then .park (s.fetchLines loc bs.length)
        else if (linesOf loc bs.length).any s.isFailing && !decide (64 ≤ bs.length) then
          .fault memerr (s.meetError (c.homeOf die loc) loc bs.length)
        else if s.partDamaged loc bs.length then .fault damagedCode s
        else .done ((s.viewWrite loc bs).markDirty c va)

/-- The parts of a write by page: `fuel` bounds the pages. -/
def pageParts : Nat → DWord → List Byte → List (DWord × List Byte)
  | 0, _, _ => []
  | fuel + 1, va, bs =>
    if bs = [] then []
    else
      let k := 4096 - va.toNat % 4096
      (va, bs.take k) :: pageParts fuel (va + BitVec.ofNat 64 k) (bs.drop k)

/-- One page's part of a write, after those before it. -/
def WriteEnd.andThen (c : Ctx) (die : Nat) (e : WriteEnd) (p : DWord × List Byte) : WriteEnd :=
  match e with
  | .done s => s.writePage c die p.1 p.2
  | e => e

/-- The end of a write of one page that does not write it, none where it would. -/
def State.refusesPart (s : State) (c : Ctx) (die : Nat) (p : DWord × List Byte) : Option WriteEnd :=
  match s.writePage c die p.1 p.2 with
  | .done _ => none
  | e => some e

/-- Bytes written page by page. Where one page faults or must wait, no page is written (R110). -/
def State.writePages (s : State) (c : Ctx) (die fuel : Nat) (va : DWord) (bs : List Byte) : WriteEnd :=
  let parts := pageParts fuel va bs
  match parts.findSome? (s.refusesPart c die) with
  | some e => e
  | none => parts.foldl (WriteEnd.andThen c die) (.done s)

/-- Bytes written by address: a page to be resolved holds the whole write back. -/
def State.writeVa (s : State) (c : Ctx) (die : Nat) (va : DWord) (bs : List Byte) : WriteEnd :=
  if (pagesOf va bs.length).any (s.parksAt c die .write) then
    match s.agentPark c die .write va bs.length with
    | .ok s => .park s
    | .error (e, s) => .fault e s
  else s.writePages c die (bs.length / 4096 + 2) va bs

/-- Whether a write must wait: for a page that has to be walked or resolved, none of its pages having failed, or for a line of a
migrating frame. -/
def State.writeWaits (s : State) (c : Ctx) (die : Nat) (va : DWord) (n : Nat) : Bool :=
  let pages := pagesOf va n
  let failed := s.awaited.any fun a => a.1 == c.key && pages.contains a.2.1 && a.2.2.isSome
  let lines (p : Nat) : Bool :=
    let lo := max va.toNat (4096 * p)
    match s.translate c die .write (BitVec.ofNat 64 lo) with
    | .at loc _ => s.awaitsLines loc (min (va.toNat + n) (4096 * p + 4096) - lo)
    | _ => false
  if pages.any (s.parksAt c die .write) then !failed else pages.any lines

/-- What several writes wait for is asked of the walkers, the resolvers and the migration engine. -/
def State.parkWrites (s : State) (c : Ctx) (die : Nat) (vas : List DWord) (n : Nat) : State :=
  vas.foldl (fun s va => match s.agentPark c die .write va n with
    | .ok s => s
    | .error e => e.2) s

end Sys2Proof.Machine
end

