-- ==== Sys2Proof/Machine/Num.lean ====
section
/-! DEFINITION. Number formats and rounding (R263 to R273): exact values, the function `round`, and the exact operations that the
floating-point, variable-precision, atomic and matrix instructions share. -/

namespace Sys2Proof.Machine

/-! ## Exact values -/

/-- A value: (-1)^neg · m · 2^e, an infinity or a NaN. Zero keeps its sign. -/
inductive FNum where
  | nan
  | inf (neg : Bool)
  | fin (neg : Bool) (m : Nat) (e : Int)
  deriving DecidableEq, Repr

def FNum.isNan : FNum → Bool | .nan => true | _ => false
def FNum.isInf : FNum → Bool | .inf _ => true | _ => false
def FNum.isZero : FNum → Bool | .fin _ m _ => m == 0 | _ => false
def FNum.isFin : FNum → Bool | .fin _ _ _ => true | _ => false
def FNum.sign : FNum → Bool | .nan => false | .inf n => n | .fin n _ _ => n
def FNum.neg : FNum → FNum | .nan => .nan | .inf n => .inf (!n) | .fin n m e => .fin (!n) m e
def FNum.abs : FNum → FNum | .nan => .nan | .inf _ => .inf false | .fin _ m e => .fin false m e
def FNum.zero (neg : Bool) : FNum := .fin neg 0 0
def FNum.ofInt (x : Int) : FNum := .fin (decide (x < 0)) x.natAbs 0

/-- The signed significand of a finite value at a smaller exponent `f`. -/
def alignAt (neg : Bool) (m : Nat) (e f : Int) : Int :=
  let k := m * 2 ^ (e - f).toNat
  if neg then -(k : Int) else k

/-- a + b, exactly; an exact zero sum is -0 only when both addends are negative zeros (R364). -/
def FNum.add : FNum → FNum → FNum
  | .nan, _ => .nan
  | _, .nan => .nan
  | .inf a, .inf b => if a == b then .inf a else .nan
  | .inf a, _ => .inf a
  | _, .inf b => .inf b
  | .fin n m e, .fin n' m' e' =>
    let f := min e e'
    let k := alignAt n m e f + alignAt n' m' e' f
    if k = 0 then .fin (n && n' && m == 0 && m' == 0) 0 0 else .fin (decide (k < 0)) k.natAbs f

def FNum.sub (a b : FNum) : FNum := a.add b.neg

/-- a × b, exactly. -/
def FNum.mul : FNum → FNum → FNum
  | .nan, _ => .nan
  | _, .nan => .nan
  | .inf a, .inf b => .inf (a != b)
  | .inf a, .fin n m _ => if m = 0 then .nan else .inf (a != n)
  | .fin n m _, .inf b => if m = 0 then .nan else .inf (n != b)
  | .fin n m e, .fin n' m' e' => .fin (n != n') (m * m') (e + e')

/-- a × 2^k. -/
def FNum.scale (k : Int) : FNum → FNum
  | .fin n m e => .fin n m (e + k)
  | x => x

/-- a < b, a = b on values that are no NaN; -0 equals +0. -/
def FNum.lt : FNum → FNum → Bool
  | .inf a, .inf b => a && !b
  | .inf a, .fin _ _ _ => a
  | .fin _ _ _, .inf b => !b
  | .fin n m e, .fin n' m' e' => let f := min e e'; decide (alignAt n m e f < alignAt n' m' e' f)
  | _, _ => false

def FNum.eq : FNum → FNum → Bool
  | .inf a, .inf b => a == b
  | .fin n m e, .fin n' m' e' => let f := min e e'; alignAt n m e f == alignAt n' m' e' f
  | _, _ => false

/-- floor(log2 |x|) of a finite non-zero value. -/
def FNum.exp : FNum → Int
  | .fin _ m e => (Nat.log2 m : Int) + e
  | _ => 0

/-! ## Formats (R263, R273) -/

/-- What the codes with the highest exponent field stand for. -/
inductive Special where
  | ieee | e4m3 | finite
  deriving DecidableEq, Repr

/-- A floating-point format: fraction and exponent widths, bias, whether it has a sign bit, its special codes. -/
structure Fmt where
  p : Nat
  ew : Nat
  bias : Nat
  signed : Bool
  sp : Special
  deriving DecidableEq, Repr

def fp32 : Fmt := ⟨23, 8, 127, true, .ieee⟩
def fp16 : Fmt := ⟨10, 5, 15, true, .ieee⟩
def bf16 : Fmt := ⟨7, 8, 127, true, .ieee⟩
def e5m2 : Fmt := ⟨2, 5, 15, true, .ieee⟩
def e4m3 : Fmt := ⟨3, 4, 7, true, .e4m3⟩
def e2m1 : Fmt := ⟨1, 2, 1, true, .finite⟩
def e3m5 : Fmt := ⟨5, 3, 3, false, .finite⟩
/-- VP(L) (R268, R273). -/
def vpFmt (l : Nat) : Fmt := ⟨l, 15, 16383, true, .ieee⟩

def Fmt.emin (f : Fmt) : Int := 1 - (f.bias : Int)
/-- Whether the format has a NaN. -/
def Fmt.hasNan (f : Fmt) : Bool := f.sp != .finite

/-- The largest finite value. -/
def Fmt.maxFin (f : Fmt) : FNum :=
  match f.sp with
  | .ieee => .fin false (2 ^ (f.p + 1) - 1) ((f.bias : Int) - f.p)
  | .e4m3 => .fin false (2 ^ (f.p + 1) - 2) ((2 ^ f.ew : Nat) - 1 - (f.bias : Int) - f.p)
  | .finite => .fin false (2 ^ (f.p + 1) - 1) ((2 ^ f.ew : Nat) - 1 - (f.bias : Int) - f.p)

/-- The canonical NaN's code (R266); for VP the fraction's first bit is set. -/
def Fmt.nanCode (f : Fmt) : Nat :=
  match f.sp with
  | .ieee => (2 ^ f.ew - 1) * 2 ^ f.p + 2 ^ (f.p - 1)
  | .e4m3 => (2 ^ f.ew - 1) * 2 ^ f.p + (2 ^ f.p - 1)
  | .finite => 0

/-- The value of a code (R263). -/
def Fmt.value (f : Fmt) (code : Nat) : FNum :=
  let m := code % 2 ^ f.p
  let e := code / 2 ^ f.p % 2 ^ f.ew
  let s := f.signed && code / 2 ^ (f.p + f.ew) % 2 == 1
  let num : FNum :=
    if e = 0 then .fin s m (f.emin - f.p) else .fin s (2 ^ f.p + m) ((e : Int) - f.bias - f.p)
  match f.sp with
  | .ieee => if e = 2 ^ f.ew - 1 then (if m = 0 then .inf s else .nan) else num
  | .e4m3 => if e = 2 ^ f.ew - 1 ∧ m = 2 ^ f.p - 1 then .nan else num
  | .finite => num

/-- m · 2^k for k of either sign; the bits shifted out are zero where it is used. -/
def shiftZ (m : Nat) (k : Int) : Nat := if k < 0 then m / 2 ^ k.natAbs else m * 2 ^ k.toNat

/-- The code of a value that the format holds. -/
def Fmt.code (f : Fmt) : FNum → Nat
  | .nan => f.nanCode
  | .inf n => (if n then 2 ^ (f.p + f.ew) else 0) + (2 ^ f.ew - 1) * 2 ^ f.p
  | .fin n m e =>
    let s := if n && f.signed then 2 ^ (f.p + f.ew) else 0
    if m = 0 then s
    else
      let x := (Nat.log2 m : Int) + e
      if x < f.emin then s + shiftZ m (e - (f.emin - f.p))
      else s + ((x + f.bias).toNat * 2 ^ f.p + (shiftZ m (e - (x - f.p)) - 2 ^ f.p))

/-! ## Rounding (R267 to R270) -/

inductive Rm where
  | rne | rtz | rup | rdn | ref
  deriving DecidableEq, Repr

/-- The mode of a code; 101 to 111 are reserved. -/
def rmOf : Nat → Option Rm
  | 0 => some .rne
  | 1 => some .rtz
  | 2 => some .rup
  | 3 => some .rdn
  | 4 => some .ref
  | _ => none

/-- |x| / 2^q rounded to an integer, where |x| = m · 2^e, or lies strictly between m · 2^e and (m + 1) · 2^e when `sticky`. -/
def roundInt (mode : Rm) (neg : Bool) (m : Nat) (e : Int) (sticky : Bool) (q : Int) : Nat :=
  if q ≤ e then m * 2 ^ (e - q).toNat
  else
    let k := (q - e).toNat
    let lo := m / 2 ^ k
    let r := m % 2 ^ k
    let exact := r == 0 && !sticky
    let up :=
      match mode with
      | .rtz => false
      | .rup => !neg && !exact
      | .rdn => neg && !exact
      | _ => decide (2 ^ k < 2 * r) || (2 * r == 2 ^ k && (sticky || lo % 2 == 1))
    if up then lo + 1 else lo

/-- What a result beyond the range becomes (R269). -/
def Fmt.overflow (f : Fmt) (neg : Bool) (mode : Rm) : FNum :=
  let mx := f.maxFin
  match f.sp with
  | .ieee =>
    match mode with
    | .rtz => if neg then mx.neg else mx
    | .rup => if neg then mx.neg else .inf false
    | .rdn => if neg then .inf true else mx
    | _ => .inf neg
  | _ => if neg && !f.signed then .zero false else if neg then mx.neg else mx

/-- `round` of a finite value that may be known only up to `sticky`. -/
def Fmt.roundFin (f : Fmt) (mode : Rm) (neg : Bool) (m : Nat) (e : Int) (sticky : Bool) : FNum :=
  if m = 0 ∧ !sticky then .fin (neg && f.signed) 0 0
  else
    let q := max ((Nat.log2 m : Int) + e) f.emin - f.p
    let k := roundInt mode neg m e sticky q
    if neg && !f.signed then .zero false
    else if f.maxFin.lt (.fin false k q) then f.overflow neg mode
    else .fin neg k q

/-- round(x, fmt, mode) for a floating-point format. -/
def Fmt.round (f : Fmt) (mode : Rm) : FNum → FNum
  | .nan => if f.hasNan then .nan else .zero false
  | .inf n => match f.sp with | .ieee => .inf n | _ => f.overflow n mode
  | .fin n m e => f.roundFin mode n m e false

/-- round(x, fmt, mode) for an integer format from `lo` to `hi`. -/
def roundToInt (lo hi : Int) (mode : Rm) : FNum → Int
  | .nan => 0
  | .inf n => if n then lo else hi
  | .fin n m e =>
    let k := roundInt mode n m e false 0
    let x : Int := if n then -(k : Int) else k
    if x < lo then lo else if hi < x then hi else x

/-! ## Quotients, roots and special functions, to the bit below which only `sticky` counts -/

/-- A result known as an interval: the value is m · 2^e, or lies strictly between it and (m + 1) · 2^e. -/
structure Approx where
  m : Nat
  e : Int
  sticky : Bool
  deriving DecidableEq, Repr

/-- More bits than any format needs. -/
def workBits : Nat := 130

/-- |a| / |b| for non-zero significands. -/
def quot (m : Nat) (e : Int) (m' : Nat) (e' : Int) : Approx :=
  let k := workBits + Nat.log2 m' - Nat.log2 m
  let n := m * 2 ^ k
  ⟨n / m', e - e' - k, n % m' != 0⟩

/-- The integer square root, bit by bit. -/
def isqrtBits (n r : Nat) : Nat → Nat
  | 0 => r
  | k + 1 => let r' := r + 2 ^ k; isqrtBits n (if r' * r' ≤ n then r' else r) k

def isqrt (n : Nat) : Nat := isqrtBits n 0 (Nat.log2 n / 2 + 1)

/-- √(m · 2^e). -/
def root (m : Nat) (e : Int) : Approx :=
  let k := 2 * workBits + (e % 2).toNat
  let n := m * 2 ^ k
  let r := isqrt n
  ⟨r, (e - k) / 2, r * r != n⟩

/-- 1 / √(m · 2^e). -/
def rroot (m : Nat) (e : Int) : Approx :=
  let o := (e % 2).toNat
  let m := m * 2 ^ o
  let e := e - o
  let k := 2 * (workBits + Nat.log2 m)
  let n := 2 ^ k / m
  let r := isqrt n
  ⟨r, -((k : Int) / 2) - e / 2, r * r * m != 2 ^ k⟩

/-- Fixed-point numbers with this many fraction bits serve the special functions. Log entry 13. -/
def fixBits : Nat := 320
def fixOne : Nat := 2 ^ fixBits
/-- floor(π · 2^320) and floor(ln 2 · 2^320). -/
def fixPi : Nat := 0x3243f6a8885a308d313198a2e03707344a4093822299f31d0082efa98ec4e6c89452821e638d01377
def fixLn2 : Nat := 0xb17217f7d1cf79abc9e3b39803f2f6af40f343267298b62d8a0d175b8baafa2be7b876206debac98

def fixMul (a b : Int) : Int := a * b / fixOne

/-- The sum of x^k / k! for k from `k` up, `t` being the term before. -/
def expTerms (x t : Int) (k : Nat) : Nat → Int
  | 0 => 0
  | n + 1 => let t' := fixMul t x / k; t' + expTerms x t' (k + 1) n

/-- 2^f for f in [0, 1), in fixed point. -/
def fixExp2 (f : Int) : Int := fixOne + expTerms (fixMul f fixLn2) fixOne 1 80

/-- The sum of z^(2k+1) / (2k+1). -/
def atanhTerms (z2 p : Int) (k : Nat) : Nat → Int
  | 0 => 0
  | n + 1 => p / (2 * k + 1 : Nat) + atanhTerms z2 (fixMul p z2) (k + 1) n

/-- log2 y for y in [1, 2), in fixed point. -/
def fixLog2 (y : Int) : Int :=
  let z := (y - fixOne) * fixOne / (y + fixOne)
  2 * atanhTerms (fixMul z z) z 0 110 * fixOne / fixLn2

/-- The alternating sum of x^(2k+j) / (2k+j)!. -/
def sinTerms (x2 t : Int) (k : Nat) : Nat → Int
  | 0 => 0
  | n + 1 => t + sinTerms x2 (-(fixMul t x2 / ((k + 1) * (k + 2) : Nat))) (k + 2) n

/-- sin(π r) and cos(π r) for r in [0, 1/2], in fixed point. -/
def fixSin (r : Int) : Int := let x := fixMul r fixPi; sinTerms (fixMul x x) x 1 60
def fixCos (r : Int) : Int := let x := fixMul r fixPi; sinTerms (fixMul x x) fixOne 0 60

def approxFix (x : Int) : Approx := ⟨x.toNat, -(fixBits : Int), true⟩

end Sys2Proof.Machine
end

