-- ==== Sys2Proof/Machine/Scalar.lean ====
section
/-! DEFINITION. Scalar, mask and control instructions that touch no memory (R336 to R347). -/

namespace Sys2Proof.Machine

/-! ## Arithmetic (R337, R338) -/

def shl32 (a b : Word) : Word := if b.toNat < 32 then a <<< b.toNat else 0
def shr32 (a b : Word) : Word := if b.toNat < 32 then a >>> b.toNat else 0
def sra32 (a b : Word) : Word :=
  if b.toNat < 32 then a.sshiftRight b.toNat else if a.toInt < 0 then 0xFFFFFFFF#32 else 0

/-- The high 32 bits of the 64-bit product, as signed or unsigned values. -/
def mulh (u : Bool) (a b : Word) : Word :=
  if u then BitVec.ofNat 32 (a.toNat * b.toNat / 2 ^ 32) else BitVec.ofInt 32 (a.toInt * b.toInt / 2 ^ 32)

def min32 (u : Bool) (a b : Word) : Word :=
  if u then (if a.toNat ≤ b.toNat then a else b) else (if a.toInt ≤ b.toInt then a else b)
def max32 (u : Bool) (a b : Word) : Word :=
  if u then (if a.toNat ≤ b.toNat then b else a) else (if a.toInt ≤ b.toInt then b else a)

/-- Quotient and remainder, with the borderline cases (R338). -/
def divRem (u : Bool) (a b : Word) : Word × Word :=
  if b = 0 then (0xFFFFFFFF#32, a)
  else if u then (BitVec.ofNat 32 (a.toNat / b.toNat), BitVec.ofNat 32 (a.toNat % b.toNat))
  else if a = 0x80000000#32 ∧ b = 0xFFFFFFFF#32 then (0x80000000#32, 0)
  else (BitVec.ofInt 32 (a.toInt.tdiv b.toInt), BitVec.ofInt 32 (a.toInt.tmod b.toInt))

def divQ (u : Bool) (a b : Word) : Word := (divRem u a b).1
def divR (u : Bool) (a b : Word) : Word := (divRem u a b).2

/-- Latency of the scalar unit (R145). -/
def scalarLat : Nat := 2

def opndsO (sh : Shape) (f : OForm) : Troupe → Opnds := fun _ => ⟨f.d, f.a, f.b, sh⟩
def okMod : Troupe → Bool := fun _ => true

/-- A scalar instruction: it takes effect when a bit of its guard is set (R127), and its result is `val` of the state and
troupe at issue. -/
def scalarOp (sh : Shape) (f : OForm) (val : State → Troupe → Word) (s : State) : Host.Outcome State Fault Refusal :=
  s.operate f.c oneBeat (opndsO sh f) okMod noLate noHold fun s t s' t' =>
    if s.takesOf t f.c then s'.commitS t' f.c scalarLat [(numOf f.d, val s t)] else s'.commit t' f.c

/-- "Sw, Sr or I, Sr or I", "Sw also read, ...", "Sw, Sr or I, unused". -/
def shSSS : Shape := ⟨[accSw], accSI, accSI⟩
def shDSS : Shape := ⟨[.sd 1 63], accSI, accSI⟩
def shSS : Shape := ⟨[accSw], accSI, [.unused]⟩
def shDS : Shape := ⟨[.sd 1 63], accSI, [.unused]⟩

/-- sD := op(value(A), value(B)). -/
def scalar2 (op : Word → Word → Word) (f : OForm) (s : State) : Host.Outcome State Fault Refusal :=
  scalarOp shSSS f (fun s t => op (s.rdWord t 1 f.a 0) (s.rdWord t 2 f.b 0)) s

def execSadd (f : OForm) (s : State) : Host.Outcome State Fault Refusal := scalar2 (· + ·) f s
def execSsub (f : OForm) (s : State) : Host.Outcome State Fault Refusal := scalar2 (· - ·) f s
def execSmul (f : OForm) (s : State) : Host.Outcome State Fault Refusal := scalar2 (· * ·) f s
def execSmulh (u : Bool) (f : OForm) (s : State) : Host.Outcome State Fault Refusal := scalar2 (mulh u) f s
def execSand (f : OForm) (s : State) : Host.Outcome State Fault Refusal := scalar2 (· &&& ·) f s
def execSor (f : OForm) (s : State) : Host.Outcome State Fault Refusal := scalar2 (· ||| ·) f s
def execSxor (f : OForm) (s : State) : Host.Outcome State Fault Refusal := scalar2 (· ^^^ ·) f s
def execSshl (f : OForm) (s : State) : Host.Outcome State Fault Refusal := scalar2 shl32 f s
def execSshr (f : OForm) (s : State) : Host.Outcome State Fault Refusal := scalar2 shr32 f s
def execSsra (f : OForm) (s : State) : Host.Outcome State Fault Refusal := scalar2 sra32 f s
def execSmin (u : Bool) (f : OForm) (s : State) : Host.Outcome State Fault Refusal := scalar2 (min32 u) f s
def execSmax (u : Bool) (f : OForm) (s : State) : Host.Outcome State Fault Refusal := scalar2 (max32 u) f s

/-- A division: its result is written by `VARIABLE_RESULT_WRITE`, which clears the flag (R338). -/
def scalarDiv (op : Word → Word → Word) (f : OForm) (s : State) : Host.Outcome State Fault Refusal :=
  s.operate f.c oneBeat (opndsO shSSS f) okMod noLate noHold fun s t s' t' =>
    if s.takesOf t f.c then s'.commitSLater t' f.c [(numOf f.d, op (s.rdWord t 1 f.a 0) (s.rdWord t 2 f.b 0))]
    else s'.commit t' f.c

def execSdiv (u : Bool) (f : OForm) (s : State) : Host.Outcome State Fault Refusal := scalarDiv (divQ u) f s
def execSrem (u : Bool) (f : OForm) (s : State) : Host.Outcome State Fault Refusal := scalarDiv (divR u) f s

/-! ## Moves and selection (R339) -/

/-- (a[15:0] << 16) | old[15:0]. -/
def moveHigh (a old : Word) : Word := a.extractLsb' 0 16 ++ old.extractLsb' 0 16

def execSmov (f : OForm) (s : State) : Host.Outcome State Fault Refusal :=
  scalarOp shSS f (fun s t => s.rdWord t 1 f.a 0) s

def execSmovh (f : OForm) (s : State) : Host.Outcome State Fault Refusal :=
  scalarOp shDS f (fun s t => moveHigh (s.rdWord t 1 f.a 0) (s.rdWord t 0 f.d 0)) s

def execSsel (f : OForm) (s : State) : Host.Outcome State Fault Refusal :=
  scalarOp shDSS f (fun s t => if s.rdWord t 0 f.d 0 ≠ 0 then s.rdWord t 1 f.a 0 else s.rdWord t 2 f.b 0) s

/-! ## Compare (R340) -/

/-- COND of R340 on a pair of words; `u` compares as unsigned. -/
def cond (code : Nat) (u : Bool) (x y : Word) : Bool :=
  let le : Bool := if u then decide (x.toNat ≤ y.toNat) else decide (x.toInt ≤ y.toInt)
  match code with
  | 0 => x == y
  | 1 => x != y
  | 2 => le && x != y
  | 3 => le
  | 4 => !le
  | _ => !le || x == y

/-- The compare modifier of R340: whether it is legal, IMMF, U, COND and the comparand. -/
def cmpOk (m : BitVec 18) : Bool :=
  !m.getLsbD 3 && decide (modField m 2 0 ≤ 5) && (m.getLsbD 5 || modField m 17 6 == 0)
def cmpImmF (m : BitVec 18) : Bool := m.getLsbD 5
def cmpImm (m : BitVec 18) : Word := (m.extractLsb' 6 12).signExtend 32
def cmpTest (m : BitVec 18) (x y : Word) : Bool := cond (modField m 2 0) (m.getLsbD 4) x y

/-- Modifier of an X form, 0 when there is none (the instruction then traps). -/
def modOf (f : OForm) : BitVec 18 := (modifier f.b).getD 0

def execScmp (f : OForm) (s : State) : Host.Outcome State Fault Refusal :=
  let m := modOf f
  let sh : Shape := ⟨[accSw, accP], if cmpImmF m then [accS] else [accPair], []⟩
  s.operate f.c oneBeat (opndsO sh f) (fun _ => isImm f.b && cmpOk m) noLate noHold fun s t s' t' =>
    let x := s.rdWord t 1 f.a 0
    let y := if cmpImmF m then cmpImm m else s.rdWord t 1 f.a 1
    let r := cmpTest m x y
    if s.takesOf t f.c then
      if isSpecial f.d then s'.commitP t' f.c scalarLat (numOf f.d) allLanes (if r then allLanes else 0)
      else s'.commitS t' f.c scalarLat [(numOf f.d, if r then 1 else 0)]
    else s'.commit t' f.c

/-! ## Control transfer (R343, R344) -/

/-- The operands of format C: only D is one (R300). -/
def opndsC (sh : List Acc) (f : CForm) : Troupe → Opnds := fun _ => ⟨f.d, .imm 0, .imm 0, ⟨sh, [.unused], [.unused]⟩⟩

/-- (PC + 12 × offset) mod 2^64. -/
def branchTarget (pc : DWord) (off : BitVec 40) : DWord := pc + 12 * off.signExtend 64

/-- A branch in format C: taken when a bit of its guard is set and `test` holds. -/
def branchOp (sh : List Acc) (f : CForm) (test : State → Troupe → Bool) (s : State) : Host.Outcome State Fault Refusal :=
  s.operate f.c oneBeat (opndsC sh f) okMod noLate noHold fun s t s' t' =>
    if s.takesOf t f.c && test s t then s'.commit (t'.jump (branchTarget t.pc f.off)) f.c else s'.commit t' f.c

def execBr (f : CForm) (s : State) : Host.Outcome State Fault Refusal := branchOp [.unused] f (fun _ _ => true) s
def execBrz (f : CForm) (s : State) : Host.Outcome State Fault Refusal :=
  branchOp [accS] f (fun s t => s.rdWord t 0 f.d 0 == 0) s
def execBrnz (f : CForm) (s : State) : Host.Outcome State Fault Refusal :=
  branchOp [accS] f (fun s t => s.rdWord t 0 f.d 0 != 0) s
def execBany (f : CForm) (s : State) : Host.Outcome State Fault Refusal :=
  branchOp [accP] f (fun s t => s.rdP t 0 (numOf f.d) &&& t.am != 0) s
def execBall (f : CForm) (s : State) : Host.Outcome State Fault Refusal :=
  branchOp [accP] f (fun s t => s.rdP t 0 (numOf f.d) &&& t.am == t.am) s
def execBnone (f : CForm) (s : State) : Host.Outcome State Fault Refusal :=
  branchOp [accP] f (fun s t => s.rdP t 0 (numOf f.d) &&& t.am == 0) s

def execCall (f : CForm) (s : State) : Host.Outcome State Fault Refusal :=
  s.operate f.c oneBeat (opndsC [.unused] f) okMod noLate noHold fun s t s' t' =>
    if s.takesOf t f.c then
      s'.commitS (t'.jump (branchTarget t.pc f.off)) f.c scalarLat [(58, loW (t.pc + 12)), (59, hiW (t.pc + 12))]
    else s'.commit t' f.c

/-- "unused, unused, unused". -/
def shNone : Shape := ⟨[.unused], [.unused], [.unused]⟩

def execRet (f : OForm) (s : State) : Host.Outcome State Fault Refusal :=
  s.operate f.c oneBeat (opndsO shNone f) okMod noLate noHold fun s t s' t' =>
    if s.takesOf t f.c then s'.commit (t'.jump (pairW (s.rdS t 1 58) (s.rdS t 1 59))) f.c else s'.commit t' f.c

def execJmp (f : OForm) (s : State) : Host.Outcome State Fault Refusal :=
  s.operate f.c oneBeat (opndsO ⟨[.unused], [accPair], [.unused]⟩ f) okMod noLate noHold fun s t s' t' =>
    if s.takesOf t f.c then s'.commit (t'.jump (pairW (s.rdWord t 1 f.a 0) (s.rdWord t 1 f.a 1))) f.c
    else s'.commit t' f.c

/-! ## Ending and yielding (R345, R346) -/

/-- Whether `exit` must still wait: a set flag, a raised counter, an open batch that has not completed, a `shflush`. -/
def Troupe.busyForExit (t : Troupe) : Bool :=
  t.flags != 0 || t.acs.any (· != 0) || t.openBatch.left != 0 || t.batches.any (fun b => b.left != 0)
    || t.pend.any fun p => match p.act with | .shflush _ _ _ _ _ _ => true | _ => false

def execExit (f : OForm) (s : State) : Host.Outcome State Fault Refusal :=
  s.operate f.c oneBeat (opndsO shNone f) okMod noLate (fun s t => s.takesOf t f.c && t.busyForExit) fun s t s' t' =>
    if s.takesOf t f.c then s'.exitTroupe t' else s'.commit t' f.c

/-- `yield` is a yield point (R101); moving the pick pointer on is the pipe's part (R97). -/
def execYield (f : OForm) (s : State) : Host.Outcome State Fault Refusal :=
  s.operate f.c oneBeat (opndsO shNone f) okMod noLate noHold fun s t s' t' =>
    if s.takesOf t f.c then s'.commit { t' with atYield := true } f.c else s'.commit t' f.c

def execNop (f : OForm) (s : State) : Host.Outcome State Fault Refusal :=
  s.operate f.c oneBeat (opndsO shNone f) okMod noLate noHold fun _ _ s' t' => s'.commit t' f.c

/-! ## Predicates (R347) -/

/-- pD := val, on all 96 bits. -/
def predOp (sh : Shape) (f : OForm) (val : State → Troupe → Mask) (s : State) : Host.Outcome State Fault Refusal :=
  s.operate f.c oneBeat (opndsO sh f) okMod noLate noHold fun s t s' t' =>
    if s.takesOf t f.c then s'.commitP t' f.c scalarLat (numOf f.d) allLanes (val s t) else s'.commit t' f.c

def shPPP : Shape := ⟨[accP], [accP], [accP]⟩
def shPP : Shape := ⟨[accP], [accP], [.unused]⟩

/-- pD := op(pA, pB). -/
def pred2 (op : Mask → Mask → Mask) (f : OForm) (s : State) : Host.Outcome State Fault Refusal :=
  predOp shPPP f (fun s t => op (s.rdP t 1 (numOf f.a)) (s.rdP t 2 (numOf f.b))) s

def execPand (f : OForm) (s : State) : Host.Outcome State Fault Refusal := pred2 (· &&& ·) f s
def execPor (f : OForm) (s : State) : Host.Outcome State Fault Refusal := pred2 (· ||| ·) f s
def execPxor (f : OForm) (s : State) : Host.Outcome State Fault Refusal := pred2 (· ^^^ ·) f s
def execPnot (f : OForm) (s : State) : Host.Outcome State Fault Refusal :=
  predOp shPP f (fun s t => ~~~(s.rdP t 1 (numOf f.a))) s
def execPmov (f : OForm) (s : State) : Host.Outcome State Fault Refusal :=
  predOp shPP f (fun s t => s.rdP t 1 (numOf f.a)) s

/-- The lowest set bit alone. -/
def firstBit (m : Mask) : Mask := match lowest m with | some l => 1#96 <<< l | none => 0

def execPfirst (f : OForm) (s : State) : Host.Outcome State Fault Refusal :=
  predOp shPP f (fun s t => firstBit (s.rdP t 1 (numOf f.a))) s

def execPcnt (f : OForm) (s : State) : Host.Outcome State Fault Refusal :=
  scalarOp ⟨[accSw], [accP], [.unused]⟩ f (fun s t => BitVec.ofNat 32 (popcount (s.rdP t 1 (numOf f.a)))) s

def execPfroms (f : OForm) (s : State) : Host.Outcome State Fault Refusal :=
  predOp ⟨[accP], [.sr 3 63], [.unused]⟩ f
    (fun s t => s.rdWord t 1 f.a 2 ++ (s.rdWord t 1 f.a 1 ++ s.rdWord t 1 f.a 0)) s

def execPtos (f : OForm) (s : State) : Host.Outcome State Fault Refusal :=
  s.operate f.c oneBeat (opndsO ⟨[.sw 3 63], [accP], [.unused]⟩ f) okMod noLate noHold fun s t s' t' =>
    let p := s.rdP t 1 (numOf f.a)
    if s.takesOf t f.c then
      s'.commitS t' f.c scalarLat [(numOf f.d, p.extractLsb' 0 32), (numOf f.d + 1, p.extractLsb' 32 32),
        (numOf f.d + 2, p.extractLsb' 64 32)]
    else s'.commit t' f.c

end Sys2Proof.Machine
end

