-- ==== Sys2Proof/Machine/Vector.lean ====
section
/-! DEFINITION. Vector integer and bit instructions (R348 to R360). -/

namespace Sys2Proof.Machine

/-- Latency of the vector integer and bit group, and of the operations across lanes (R145). -/
def vecLat : Nat := 6
def crossLat : Nat := 10

/-- A vector instruction whose result is `val`, written in the effective lanes (R349). -/
def vecOp (sh : Shape) (lat : Nat) (f : OForm) (val : State → Troupe → Lanes) (s : State) : Host.Outcome State Fault Refusal :=
  s.operate f.c (vecBeats f.c) (opndsO sh f) okMod noLate noHold fun s t s' t' =>
    s'.commitV t' f.c lat (s.effOf t f.c) [(numOf f.d, val s t)]

/-- "Vw, V S or I, V S or I" and the other rows of R348. -/
def shVVV : Shape := ⟨[accVw], accVSI, accVSI⟩
def shDVV : Shape := ⟨[accVd], accVSI, accVSI⟩
def shVV : Shape := ⟨[accVw], accVSI, [.unused]⟩
def shDV : Shape := ⟨[accVd], accVSI, [.unused]⟩

/-- vD := op(a, b). -/
def vec2 (op : Word → Word → Word) (f : OForm) (s : State) : Host.Outcome State Fault Refusal :=
  vecOp shVVV vecLat f (fun s t =>
    let a := s.rdLanes t 1 f.a 0
    let b := s.rdLanes t 2 f.b 0
    lanesOf fun l => op (lane a l) (lane b l)) s

/-- vD := op(old vD, a, b). -/
def vec3 (op : Word → Word → Word → Word) (f : OForm) (s : State) : Host.Outcome State Fault Refusal :=
  vecOp shDVV vecLat f (fun s t =>
    let d := s.rdLanes t 0 f.d 0
    let a := s.rdLanes t 1 f.a 0
    let b := s.rdLanes t 2 f.b 0
    lanesOf fun l => op (lane d l) (lane a l) (lane b l)) s

/-- vD := op(a). -/
def vec1 (op : Word → Word) (f : OForm) (s : State) : Host.Outcome State Fault Refusal :=
  vecOp shVV vecLat f (fun s t =>
    let a := s.rdLanes t 1 f.a 0
    lanesOf fun l => op (lane a l)) s

/-! ## Arithmetic, logic, shifts and moves (R350) -/

def clampI (x : Int) : Word :=
  if x < -2147483648 then 0x80000000#32 else if x > 2147483647 then 0x7FFFFFFF#32 else BitVec.ofInt 32 x

def satAdd (u : Bool) (a b : Word) : Word :=
  if u then BitVec.ofNat 32 (min (a.toNat + b.toNat) 4294967295) else clampI (a.toInt + b.toInt)
def satSub (u : Bool) (a b : Word) : Word :=
  if u then BitVec.ofNat 32 (a.toNat - b.toNat) else clampI (a.toInt - b.toInt)
def abs32 (a : Word) : Word := if a.toInt < 0 then -a else a

def execVadd (f : OForm) (s : State) : Host.Outcome State Fault Refusal := vec2 (· + ·) f s
def execVsub (f : OForm) (s : State) : Host.Outcome State Fault Refusal := vec2 (· - ·) f s
def execVadds (u : Bool) (f : OForm) (s : State) : Host.Outcome State Fault Refusal := vec2 (satAdd u) f s
def execVsubs (u : Bool) (f : OForm) (s : State) : Host.Outcome State Fault Refusal := vec2 (satSub u) f s
def execVmul (f : OForm) (s : State) : Host.Outcome State Fault Refusal := vec2 (· * ·) f s
def execVmulh (u : Bool) (f : OForm) (s : State) : Host.Outcome State Fault Refusal := vec2 (mulh u) f s
def execVmad (f : OForm) (s : State) : Host.Outcome State Fault Refusal := vec3 (fun d a b => d + a * b) f s
def execVand (f : OForm) (s : State) : Host.Outcome State Fault Refusal := vec2 (· &&& ·) f s
def execVor (f : OForm) (s : State) : Host.Outcome State Fault Refusal := vec2 (· ||| ·) f s
def execVxor (f : OForm) (s : State) : Host.Outcome State Fault Refusal := vec2 (· ^^^ ·) f s
def execVnot (f : OForm) (s : State) : Host.Outcome State Fault Refusal := vec1 (~~~ ·) f s
def execVshl (f : OForm) (s : State) : Host.Outcome State Fault Refusal := vec2 shl32 f s
def execVshr (f : OForm) (s : State) : Host.Outcome State Fault Refusal := vec2 shr32 f s
def execVsra (f : OForm) (s : State) : Host.Outcome State Fault Refusal := vec2 sra32 f s
def execVmin (u : Bool) (f : OForm) (s : State) : Host.Outcome State Fault Refusal := vec2 (min32 u) f s
def execVmax (u : Bool) (f : OForm) (s : State) : Host.Outcome State Fault Refusal := vec2 (max32 u) f s
def execVabs (f : OForm) (s : State) : Host.Outcome State Fault Refusal := vec1 abs32 f s
def execVneg (f : OForm) (s : State) : Host.Outcome State Fault Refusal := vec1 (fun a => -a) f s
def execVmov (f : OForm) (s : State) : Host.Outcome State Fault Refusal := vec1 id f s
def execVsel (f : OForm) (s : State) : Host.Outcome State Fault Refusal := vec3 (fun d a b => if d ≠ 0 then a else b) f s

def execVmovh (f : OForm) (s : State) : Host.Outcome State Fault Refusal :=
  vecOp shDV vecLat f (fun s t =>
    let d := s.rdLanes t 0 f.d 0
    let a := s.rdLanes t 1 f.a 0
    lanesOf fun l => moveHigh (lane a l) (lane d l)) s

def execVlane (f : OForm) (s : State) : Host.Outcome State Fault Refusal :=
  vecOp ⟨[accVw], accSI, [.unused]⟩ vecLat f (fun s t =>
    let a := s.rdWord t 1 f.a 0
    lanesOf fun l => BitVec.ofNat 32 l + a) s

/-! ## Carry and division (R351, R352) -/

def execVaddc (f : OForm) (s : State) : Host.Outcome State Fault Refusal :=
  s.operate f.c (vecBeats f.c) (opndsO ⟨[.vc], accVSI, accVSI⟩ f) okMod noLate noHold fun s t s' t' =>
    let d := s.rdLanes t 0 f.d 0
    let a := s.rdLanes t 1 f.a 0
    let b := s.rdLanes t 2 f.b 0
    let sum (l : Nat) : Nat := (lane a l).toNat + (lane b l).toNat + (lane d l).toNat
    s'.commitV t' f.c vecLat (s.effOf t f.c)
      [(numOf f.d, lanesOf fun l => BitVec.ofNat 32 (sum l)), (numOf f.d + 1, lanesOf fun l => BitVec.ofNat 32 (sum l / 2 ^ 32))]

/-- A division in each effective lane, written by `VARIABLE_RESULT_WRITE`. -/
def vecDiv (op : Word → Word → Word) (f : OForm) (s : State) : Host.Outcome State Fault Refusal :=
  s.operate f.c (vecBeats f.c) (opndsO shVVV f) okMod noLate noHold fun s t s' t' =>
    let a := s.rdLanes t 1 f.a 0
    let b := s.rdLanes t 2 f.b 0
    s'.commitVLater t' f.c (s.effOf t f.c) [(numOf f.d, lanesOf fun l => op (lane a l) (lane b l))]

def execVdiv (u : Bool) (f : OForm) (s : State) : Host.Outcome State Fault Refusal := vecDiv (divQ u) f s
def execVrem (u : Bool) (f : OForm) (s : State) : Host.Outcome State Fault Refusal := vecDiv (divR u) f s

/-! ## Compare (R353) -/

def execVcmp (f : OForm) (s : State) : Host.Outcome State Fault Refusal :=
  let m := modOf f
  let sh : Shape := ⟨[accVw, accP], if cmpImmF m then [accV] else [.vr 2 false], []⟩
  s.operate f.c (vecBeats f.c) (opndsO sh f) (fun _ => isImm f.b && cmpOk m) noLate noHold fun s t s' t' =>
    let x := s.rdLanes t 1 f.a 0
    let y := if cmpImmF m then lanesOf fun _ => cmpImm m else s.rdLanes t 1 f.a 1
    let r := maskOf fun l => cmpTest m (lane x l) (lane y l)
    let e := s.effOf t f.c
    if isSpecial f.d then s'.commitP t' f.c vecLat (numOf f.d) e r
    else s'.commitV t' f.c vecLat e [(numOf f.d, lanesOf fun l => if r.getLsbD l then 0xFFFFFFFF#32 else 0)]

/-! ## Operations across lanes (R354 to R356) -/

/-- The modifier of `vscan` and `vred` (R354): OP, U and EX. -/
def scanOk (m : BitVec 18) (red : Bool) : Bool :=
  modField m 17 5 == 0 && decide (modField m 2 0 ≤ 5) && (!red || !m.getLsbD 4)
    && (!m.getLsbD 3 || modField m 2 0 == 1 || modField m 2 0 == 2)

def scanOp (m : BitVec 18) (x y : Word) : Word :=
  match modField m 2 0 with
  | 0 => x + y
  | 1 => min32 (m.getLsbD 3) x y
  | 2 => max32 (m.getLsbD 3) x y
  | 3 => x &&& y
  | 4 => x ||| y
  | _ => x ^^^ y

/-- The identity element. -/
def scanUnit (m : BitVec 18) : Word :=
  match modField m 2 0 with
  | 1 => if m.getLsbD 3 then 0xFFFFFFFF#32 else 0x7FFFFFFF#32
  | 2 => if m.getLsbD 3 then 0 else 0x80000000#32
  | 3 => 0xFFFFFFFF#32
  | _ => 0

/-- The combination of the effective lanes, from lane l0 on, of a list of lane values; one accumulator per lane, before and
after it. -/
def scanFrom (m : BitVec 18) (e : Mask) (acc : Word) (l : Nat) : List Word → List (Word × Word)
  | [] => []
  | v :: vs =>
    let next := if e.getLsbD l then scanOp m acc v else acc
    (acc, next) :: scanFrom m e next (l + 1) vs

def scanAll (m : BitVec 18) (e : Mask) (v : Lanes) : List (Word × Word) :=
  scanFrom m e (scanUnit m) 0 (lanesOf fun l => lane v l)

def execVscan (f : OForm) (s : State) : Host.Outcome State Fault Refusal :=
  let m := modOf f
  s.operate f.c (vecBeats f.c) (opndsO ⟨[accVw], [accV], []⟩ f) (fun _ => isImm f.b && scanOk m false) noLate noHold
    fun s t s' t' =>
      let e := s.effOf t f.c
      let r := scanAll m e (s.rdLanes t 1 f.a 0)
      s'.commitV t' f.c crossLat e [(numOf f.d, r.map fun p => if m.getLsbD 4 then p.1 else p.2)]

def execVred (f : OForm) (s : State) : Host.Outcome State Fault Refusal :=
  let m := modOf f
  s.operate f.c (vecBeats f.c) (opndsO ⟨[accVw, accSw], [accV], []⟩ f) (fun _ => isImm f.b && scanOk m true) noLate noHold
    fun s t s' t' =>
      let e := s.effOf t f.c
      let r := ((scanAll m e (s.rdLanes t 1 f.a 0)).getLastD (0, 0)).2
      if isVec f.d then s'.commitV t' f.c crossLat e [(numOf f.d, lanesOf fun _ => r)]
      else if e = 0 then s'.commit t' f.c
      else s'.commitS t' f.c crossLat [(numOf f.d, r)]

/-- COUNT, RANK and LEADER of a lane (R356). -/
def matchWord (e : Mask) (v : Lanes) (l : Nat) : Word :=
  let same := (lanesIn e).filter fun k => lane v k == lane v l
  BitVec.ofNat 32 (same.length * 2 ^ 16 + (same.filter (· < l)).length * 2 ^ 8 + same.headD l)

def execVmatch (f : OForm) (s : State) : Host.Outcome State Fault Refusal :=
  vecOp ⟨[accVw], [accV], [.unused]⟩ crossLat f (fun s t =>
    let v := s.rdLanes t 1 f.a 0
    let e := s.effOf t f.c
    lanesOf fun l => matchWord e v l) s

/-! ## Bit fields and bit counts (R357 to R360) -/

def bfPos (b : Word) : Nat := b.toNat % 32
def bfLen (b : Word) : Nat := min (b.toNat / 2 ^ 8 % 2 ^ 6) (32 - bfPos b)
def bfMask (b : Word) : Word := BitVec.ofNat 32 ((2 ^ bfLen b - 1) * 2 ^ bfPos b)

def bfExtract (u : Bool) (a b : Word) : Word :=
  let x := (a &&& bfMask b).toNat / 2 ^ bfPos b
  if !u && decide (0 < bfLen b) && decide (2 ^ (bfLen b - 1) ≤ x) then BitVec.ofInt 32 ((x : Int) - 2 ^ bfLen b)
  else BitVec.ofNat 32 x

def bfInsert (d a b : Word) : Word := (d &&& ~~~(bfMask b)) ||| ((a <<< bfPos b) &&& bfMask b)

def clz32 (a : Word) : Nat := match (List.range 32).find? fun i => a.getLsbD (31 - i) with | some i => i | none => 32
def ctz32 (a : Word) : Nat := match (List.range 32).find? fun i => a.getLsbD i with | some i => i | none => 32

def execVbfe (u : Bool) (f : OForm) (s : State) : Host.Outcome State Fault Refusal := vec2 (bfExtract u) f s
def execVbfi (f : OForm) (s : State) : Host.Outcome State Fault Refusal := vec3 bfInsert f s
def execVpop (f : OForm) (s : State) : Host.Outcome State Fault Refusal := vec1 (fun a => BitVec.ofNat 32 (popcount a)) f s
def execVclz (f : OForm) (s : State) : Host.Outcome State Fault Refusal := vec1 (fun a => BitVec.ofNat 32 (clz32 a)) f s
def execVctz (f : OForm) (s : State) : Host.Outcome State Fault Refusal := vec1 (fun a => BitVec.ofNat 32 (ctz32 a)) f s
def execVbrev (f : OForm) (s : State) : Host.Outcome State Fault Refusal := vec1 BitVec.reverse f s

/-- The modifier of `vfunnel` (R359). -/
def funnelOk (m : BitVec 18) : Bool := modField m 17 7 == 0 && (!m.getLsbD 6 || modField m 4 0 == 0)

def funnel (left : Bool) (hi lo : Word) (n : Nat) : Word :=
  if left then hiW (pairW lo hi <<< n) else loW (pairW lo hi >>> n)

def execVfunnel (f : OForm) (s : State) : Host.Outcome State Fault Refusal :=
  let m := modOf f
  let sh : Shape := ⟨if m.getLsbD 6 then [accVd] else [accVw], [.vr 2 false], []⟩
  s.operate f.c (vecBeats f.c) (opndsO sh f) (fun _ => isImm f.b && funnelOk m) noLate noHold fun s t s' t' =>
    let lo := s.rdLanes t 1 f.a 0
    let hi := s.rdLanes t 1 f.a 1
    let d := s.rdLanes t 0 f.d 0
    s'.commitV t' f.c vecLat (s.effOf t f.c) [(numOf f.d, lanesOf fun l =>
      funnel (m.getLsbD 5) (lane hi l) (lane lo l) (if m.getLsbD 6 then (lane d l).toNat % 32 else modField m 4 0))]

/-- Byte k of the result of `vbperm` (R360). -/
def bpermByte (m : BitVec 18) (w : DWord) (k : Nat) : Byte :=
  let sel := modField m (4 * k + 5) (4 * k + 2)
  let y : Byte := w.extractLsb' (8 * (sel % 8)) 8
  if 4 - modField m 1 0 ≤ k then 0 else if 8 ≤ sel then (if y.getLsbD 7 then 0xFF else 0) else y

def bperm (m : BitVec 18) (w : DWord) : Word :=
  bpermByte m w 3 ++ (bpermByte m w 2 ++ (bpermByte m w 1 ++ bpermByte m w 0))

def execVbperm (f : OForm) (s : State) : Host.Outcome State Fault Refusal :=
  let m := modOf f
  s.operate f.c (vecBeats f.c) (opndsO ⟨[accVw], [.vr 2 false], []⟩ f) (fun _ => isImm f.b) noLate noHold fun s t s' t' =>
    let lo := s.rdLanes t 1 f.a 0
    let hi := s.rdLanes t 1 f.a 1
    s'.commitV t' f.c vecLat (s.effOf t f.c) [(numOf f.d, lanesOf fun l => bperm m (pairW (lane lo l) (lane hi l)))]

end Sys2Proof.Machine
end

