-- ==== Sys2Proof/Machine/Float.lean ====
section
/-! DEFINITION. Floating-point and conversion instructions (R361 to R373). -/

namespace Sys2Proof.Machine

/-! ## Elements of a lane (R362) -/

def ftyFmt : FTy → Fmt
  | .f32 => fp32
  | .f16 => fp16
  | .bf16 => bf16
  | .f16x2 => fp16
  | .bf16x2 => bf16

def ftyPacked : FTy → Bool
  | .f16x2 => true
  | .bf16x2 => true
  | _ => false

/-- The bits of an element. -/
def ftyBits : FTy → Nat
  | .f32 => 32
  | _ => 16

/-- The number of elements in a lane. -/
def ftyCount (t : FTy) : Nat := if ftyPacked t then 2 else 1

/-- The value of element i of a lane. -/
def elem (t : FTy) (w : Word) (i : Nat) : FNum := (ftyFmt t).value (w.toNat / 2 ^ (16 * i) % 2 ^ ftyBits t)

/-- A lane from the codes of its elements; the bits above are 0 (R362). -/
def packElems (t : FTy) (g : Nat → Nat) : Word :=
  if ftyPacked t then BitVec.ofNat 32 (g 0 + 2 ^ 16 * g 1) else BitVec.ofNat 32 (g 0)

/-- Element by element. -/
def elems1 (t : FTy) (g : FNum → FNum) (a : Word) : Word := packElems t fun i => (ftyFmt t).code (g (elem t a i))
def elems2 (t : FTy) (g : FNum → FNum → FNum) (a b : Word) : Word :=
  packElems t fun i => (ftyFmt t).code (g (elem t a i) (elem t b i))
def elems3 (t : FTy) (g : FNum → FNum → FNum → FNum) (d a b : Word) : Word :=
  packElems t fun i => (ftyFmt t).code (g (elem t d i) (elem t a i) (elem t b i))

/-- Whether an element of the lane raises. -/
def anyElem (t : FTy) (p : Nat → Bool) : Bool := (List.range (ftyCount t)).any p

/-! ## Exceptions (R272, R363) -/

/-- Producing a NaN from operands that hold none. -/
def newNan (r : FNum) (ops : List FNum) : Bool := r.isNan && !ops.any FNum.isNan

/-- The TE bit of a lane's pcfg (R274). -/
def Troupe.te (t : Troupe) (l : Nat) : Bool := (t.pcfg.getD l 0).getLsbD 14

/-- The FPEXC trap of the effective lanes with TE = 1 in which `raises` holds. -/
def State.fpexc (s : State) (t : Troupe) (c : Ctl) (raises : Nat → Bool) : Option TrapInfo :=
  let e := s.effOf t c
  let m := maskOf fun l => e.getLsbD l && t.te l && raises l
  if m = 0 then none else some ⟨fpexcC, 0, m⟩

/-- Latencies of R145. -/
def fpLat : Nat := 6
def dotLat : Nat := 10
def sfuLat : Nat := 12

/-! ## Arithmetic (R364, R365) -/

/-- "V or S". -/
def accVS : List Acc := [accV, accS]
def shFVV : Shape := ⟨[accVw], accVS, accVS⟩
def shFDVV : Shape := ⟨[accVd], accVS, accVS⟩
def shFV : Shape := ⟨[accVw], accVS, [.unused]⟩

/-- vD := op(a, b) in every element; `exact` is the value before its one rounding, whose new NaNs raise. -/
def float2 (t : FTy) (exact : FNum → FNum → FNum) (f : OForm) (s : State) : Host.Outcome State Fault Refusal :=
  s.operate f.c (vecBeats f.c) (opndsO shFVV f) okMod
    (fun s u => s.fpexc u f.c fun l =>
      let a := lane (s.rdLanes u 1 f.a 0) l
      let b := lane (s.rdLanes u 2 f.b 0) l
      anyElem t fun i => newNan (exact (elem t a i) (elem t b i)) [elem t a i, elem t b i]) noHold
    fun s u s' u' =>
      let a := s.rdLanes u 1 f.a 0
      let b := s.rdLanes u 2 f.b 0
      s'.commitV u' f.c fpLat (s.effOf u f.c)
        [(numOf f.d, lanesOf fun l => elems2 t (fun x y => (ftyFmt t).round .rne (exact x y)) (lane a l) (lane b l))]

/-- vD := op(old vD, a, b). -/
def float3 (t : FTy) (exact : FNum → FNum → FNum → FNum) (f : OForm) (s : State) : Host.Outcome State Fault Refusal :=
  s.operate f.c (vecBeats f.c) (opndsO shFDVV f) okMod
    (fun s u => s.fpexc u f.c fun l =>
      let d := lane (s.rdLanes u 0 f.d 0) l
      let a := lane (s.rdLanes u 1 f.a 0) l
      let b := lane (s.rdLanes u 2 f.b 0) l
      anyElem t fun i =>
        newNan (exact (elem t d i) (elem t a i) (elem t b i)) [elem t d i, elem t a i, elem t b i]) noHold
    fun s u s' u' =>
      let d := s.rdLanes u 0 f.d 0
      let a := s.rdLanes u 1 f.a 0
      let b := s.rdLanes u 2 f.b 0
      s'.commitV u' f.c fpLat (s.effOf u f.c)
        [(numOf f.d, lanesOf fun l =>
          elems3 t (fun x y z => (ftyFmt t).round .rne (exact x y z)) (lane d l) (lane a l) (lane b l))]

/-- The smaller or larger of two values, -0 below +0; a single NaN yields the other value (R364). -/
def FNum.below (a b : FNum) : Bool := a.lt b || (a.eq b && a.sign && !b.sign)
def fminNum (a b : FNum) : FNum := if a.isNan then b else if b.isNan then a else if b.below a then b else a
def fmaxNum (a b : FNum) : FNum := if a.isNan then b else if b.isNan then a else if a.below b then b else a

def execFadd (t : FTy) (f : OForm) (s : State) : Host.Outcome State Fault Refusal := float2 t FNum.add f s
def execFsub (t : FTy) (f : OForm) (s : State) : Host.Outcome State Fault Refusal := float2 t FNum.sub f s
def execFmul (t : FTy) (f : OForm) (s : State) : Host.Outcome State Fault Refusal := float2 t FNum.mul f s
def execFmin (t : FTy) (f : OForm) (s : State) : Host.Outcome State Fault Refusal := float2 t fminNum f s
def execFmax (t : FTy) (f : OForm) (s : State) : Host.Outcome State Fault Refusal := float2 t fmaxNum f s
def execFfma (t : FTy) (f : OForm) (s : State) : Host.Outcome State Fault Refusal :=
  float3 t (fun c a b => (a.mul b).add c) f s
def execFfms (t : FTy) (f : OForm) (s : State) : Host.Outcome State Fault Refusal :=
  float3 t (fun c a b => (a.mul b).sub c) f s
def execFnma (t : FTy) (f : OForm) (s : State) : Host.Outcome State Fault Refusal :=
  float3 t (fun c a b => (a.mul b).neg.add c) f s
def execFnms (t : FTy) (f : OForm) (s : State) : Host.Outcome State Fault Refusal :=
  float3 t (fun c a b => (a.mul b).neg.sub c) f s

/-- vD := op(a) in every element, with no exception. -/
def float1 (t : FTy) (op : FNum → FNum) (f : OForm) (s : State) : Host.Outcome State Fault Refusal :=
  vecOp shFV fpLat f (fun s u =>
    let a := s.rdLanes u 1 f.a 0
    lanesOf fun l => elems1 t op (lane a l)) s

def execFabs (t : FTy) (f : OForm) (s : State) : Host.Outcome State Fault Refusal := float1 t FNum.abs f s
def execFneg (t : FTy) (f : OForm) (s : State) : Host.Outcome State Fault Refusal := float1 t FNum.neg f s

/-- round(d + a0 × b0 + a1 × b1, FP32, RNE) in one rounding (R366). -/
def dot2Exact (t : FTy) (d a b : Word) : FNum :=
  ((elem t a 0).mul (elem t b 0)).add (((elem t a 1).mul (elem t b 1)).add (elem .f32 d 0))

def execFdot2 (bf : Bool) (f : OForm) (s : State) : Host.Outcome State Fault Refusal :=
  let t : FTy := if bf then .bf16x2 else .f16x2
  s.operate f.c (vecBeats f.c) (opndsO shFDVV f) okMod
    (fun s u => s.fpexc u f.c fun l =>
      let d := lane (s.rdLanes u 0 f.d 0) l
      let a := lane (s.rdLanes u 1 f.a 0) l
      let b := lane (s.rdLanes u 2 f.b 0) l
      newNan (dot2Exact t d a b) [elem .f32 d 0, elem t a 0, elem t a 1, elem t b 0, elem t b 1]) noHold
    fun s u s' u' =>
      let d := s.rdLanes u 0 f.d 0
      let a := s.rdLanes u 1 f.a 0
      let b := s.rdLanes u 2 f.b 0
      s'.commitV u' f.c dotLat (s.effOf u f.c)
        [(numOf f.d, lanesOf fun l =>
          BitVec.ofNat 32 (fp32.code (fp32.round .rne (dot2Exact t (lane d l) (lane a l) (lane b l)))))]

/-! ## Division, roots and special functions (R367) -/

/-- A sign and an interval rounded to a format. -/
def Fmt.roundApprox (f : Fmt) (mode : Rm) (neg : Bool) (a : Approx) : FNum := f.roundFin mode neg a.m a.e a.sticky

/-- a / b with its one rounding; the second component says that a finite non-zero value was divided by zero. -/
def divNum (f : Fmt) (mode : Rm) : FNum → FNum → FNum
  | .nan, _ => .nan
  | _, .nan => .nan
  | .inf _, .inf _ => .nan
  | .inf n, b => .inf (n != b.sign)
  | .fin n _ _, .inf n' => .zero (n != n')
  | .fin n m e, .fin n' m' e' =>
    if m' = 0 then (if m = 0 then .nan else .inf (n != n'))
    else if m = 0 then .zero (n != n')
    else f.roundApprox mode (n != n') (quot m e m' e')

def byZero (a b : FNum) : Bool := a.isFin && !a.isZero && b.isZero

def sqrtNum (f : Fmt) (mode : Rm) : FNum → FNum
  | .nan => .nan
  | .inf n => if n then .nan else .inf false
  | .fin n m e => if m = 0 then .fin n 0 0 else if n then .nan else f.roundApprox mode false (root m e)

def rcpNum (a : FNum) : FNum := divNum fp32 .rne (.fin false 1 0) a

def rsqNum : FNum → FNum
  | .nan => .nan
  | .inf n => if n then .nan else .zero false
  | .fin n m e => if m = 0 then .inf n else if n then .nan else fp32.roundApprox .rne false (rroot m e)

/-- floor of a finite value, and the fraction part in fixed point. -/
def floorFix (n : Bool) (m : Nat) (e : Int) : Int × Int :=
  let x : Int := alignAt n m (e + fixBits) 0
  (x / fixOne, x % fixOne)

def exp2Num : FNum → FNum
  | .nan => .nan
  | .inf n => if n then .zero false else .inf false
  | .fin n m e =>
    if m = 0 then .fin false 1 0
    else if 9 ≤ (Nat.log2 m : Int) + e then (if n then .zero false else .inf false)
    else
      let (k, r) := floorFix n m e
      if r = 0 then fp32.round .rne (.fin false 1 k)
      else
        let a := approxFix (fixExp2 r)
        fp32.roundApprox .rne false { a with e := a.e + k }

def log2Num : FNum → FNum
  | .nan => .nan
  | .inf n => if n then .nan else .inf false
  | .fin n m e =>
    if m = 0 then .inf true
    else if n then .nan
    else
      let k := Nat.log2 m
      let y : Int := (m : Int) * fixOne / 2 ^ k
      if m = 2 ^ k then fp32.round .rne (FNum.ofInt (k + e))
      else
        let x : Int := (k + e) * fixOne + fixLog2 y
        fp32.roundApprox .rne (decide (x < 0)) (approxFix x.natAbs)

/-- sin(π a): the argument is reduced to a quadrant exactly. -/
def sinPiFix (x : Int) : Bool × Int :=
  let two : Int := 2 * fixOne
  let y := x % two
  let neg := decide ((fixOne : Int) ≤ y)
  let y := if neg then y - fixOne else y
  (neg, if y * 2 ≤ fixOne then y else fixOne - y)

def sinNum : FNum → FNum
  | .nan => .nan
  | .inf _ => .nan
  | .fin n m e =>
    let (_, r0) := floorFix false m e
    if m = 0 ∨ r0 = 0 then .zero n
    else
      let (neg, r) := sinPiFix (alignAt false m (e + fixBits) 0)
      let neg := neg != n
      if r * 2 = fixOne then .fin neg 1 0 else fp32.roundApprox .rne neg (approxFix (fixSin r))

def cosNum : FNum → FNum
  | .nan => .nan
  | .inf _ => .nan
  | .fin _ m e =>
    let x : Int := alignAt false m (e + fixBits) 0
    -- cos(π a) = sin(π (a + 1/2))
    let (neg, r) := sinPiFix (x + fixOne / 2)
    if r = 0 then .zero false
    else if r * 2 = fixOne then .fin neg 1 0
    else if r * 4 ≤ fixOne then fp32.roundApprox .rne neg (approxFix (fixSin r))
    else fp32.roundApprox .rne neg (approxFix (fixCos (fixOne / 2 - r)))

def f32of (w : Word) : FNum := elem .f32 w 0
def f32word (x : FNum) : Word := BitVec.ofNat 32 (fp32.code x)

/-- A special function of one operand: `op` with its rounding, `raises` the exceptions of R363. -/
def special1 (op : FNum → FNum) (raises : FNum → Bool) (later : Bool) (f : OForm) (s : State) :
    Host.Outcome State Fault Refusal :=
  s.operate f.c (vecBeats f.c) (opndsO shFV f) okMod
    (fun s u => s.fpexc u f.c fun l => raises (f32of (lane (s.rdLanes u 1 f.a 0) l))) noHold
    fun s u s' u' =>
      let a := s.rdLanes u 1 f.a 0
      let r := [(numOf f.d, lanesOf fun l => f32word (op (f32of (lane a l))))]
      if later then s'.commitVLater u' f.c (s.effOf u f.c) r else s'.commitV u' f.c sfuLat (s.effOf u f.c) r

/-- Below zero; -0 is not. -/
def FNum.negative (a : FNum) : Bool := a.sign && !a.isZero && !a.isNan

def execFdiv (f : OForm) (s : State) : Host.Outcome State Fault Refusal :=
  s.operate f.c (vecBeats f.c) (opndsO shFVV f) okMod
    (fun s u => s.fpexc u f.c fun l =>
      let a := f32of (lane (s.rdLanes u 1 f.a 0) l)
      let b := f32of (lane (s.rdLanes u 2 f.b 0) l)
      newNan (divNum fp32 .rne a b) [a, b] || byZero a b) noHold
    fun s u s' u' =>
      let a := s.rdLanes u 1 f.a 0
      let b := s.rdLanes u 2 f.b 0
      s'.commitVLater u' f.c (s.effOf u f.c)
        [(numOf f.d, lanesOf fun l => f32word (divNum fp32 .rne (f32of (lane a l)) (f32of (lane b l))))]

def execFsqrt (f : OForm) (s : State) : Host.Outcome State Fault Refusal :=
  special1 (sqrtNum fp32 .rne) FNum.negative true f s
def execFrcp (f : OForm) (s : State) : Host.Outcome State Fault Refusal := special1 rcpNum FNum.isZero false f s
def execFrsq (f : OForm) (s : State) : Host.Outcome State Fault Refusal :=
  special1 rsqNum (fun a => a.negative || a.isZero) false f s
def execFexp2 (f : OForm) (s : State) : Host.Outcome State Fault Refusal := special1 exp2Num (fun _ => false) false f s
def execFlog2 (f : OForm) (s : State) : Host.Outcome State Fault Refusal := special1 log2Num FNum.negative false f s
def execFsin (f : OForm) (s : State) : Host.Outcome State Fault Refusal := special1 sinNum FNum.isInf false f s
def execFcos (f : OForm) (s : State) : Host.Outcome State Fault Refusal := special1 cosNum FNum.isInf false f s

/-! ## Type codes of modifiers (R299) -/

/-- A type code: a floating-point format with its width, or an integer. -/
inductive Ty where
  | flt (f : Fmt) (w : Nat)
  | int (w : Nat) (signed : Bool)
  deriving DecidableEq, Repr

/-- The single-element types. The packed codes 0x3 and 0x4, and 0xF, are not among them. -/
def tyOf : Nat → Option Ty
  | 0x0 => some (.flt fp32 32)
  | 0x1 => some (.flt fp16 16)
  | 0x2 => some (.flt bf16 16)
  | 0x5 => some (.flt e5m2 8)
  | 0x6 => some (.flt e4m3 8)
  | 0x7 => some (.flt e2m1 4)
  | 0x8 => some (.flt e3m5 8)
  | 0x9 => some (.int 8 true)
  | 0xA => some (.int 8 false)
  | 0xB => some (.int 16 true)
  | 0xC => some (.int 16 false)
  | 0xD => some (.int 32 true)
  | 0xE => some (.int 32 false)
  | _ => none

def intLo (w : Nat) (signed : Bool) : Int := if signed then -(2 ^ (w - 1) : Nat) else 0
def intHi (w : Nat) (signed : Bool) : Int := if signed then (2 ^ (w - 1) : Nat) - 1 else (2 ^ w : Nat) - 1

/-- The value that a lane holds of a type: its low bits (R362). -/
def Ty.value : Ty → Word → FNum
  | .flt f w, x => f.value (x.toNat % 2 ^ w)
  | .int w true, x => let n := x.toNat % 2 ^ w; FNum.ofInt (if 2 ^ (w - 1) ≤ n then (n : Int) - 2 ^ w else n)
  | .int w false, x => FNum.ofInt (x.toNat % 2 ^ w : Nat)

/-- round(x, type, mode), placed in a lane (R362): `.i8` and `.i16` fill the bits above with the sign. -/
def Ty.place (t : Ty) (mode : Rm) (x : FNum) : Word :=
  match t with
  | .flt f _ => BitVec.ofNat 32 (f.code (f.round mode x))
  | .int w sg => BitVec.ofInt 32 (roundToInt (intLo w sg) (intHi w sg) mode x)

/-- Whether converting a NaN to the type is an invalid operation (R272, R363). -/
def Ty.noNan : Ty → Bool
  | .flt f _ => !f.hasNan
  | .int _ _ => true

def stype (m : BitVec 18) : Nat := modField m 10 7
def dtype (m : BitVec 18) : Nat := modField m 6 3
def modXs (m : BitVec 18) : Nat := modField m 17 11
def modRm (m : BitVec 18) : Option Rm := rmOf (modField m 2 0)

/-- The five types of the floating-point operations, by type code. -/
def ftyCode : Nat → Option FTy
  | 0 => some .f32
  | 1 => some .f16
  | 2 => some .bf16
  | 3 => some .f16x2
  | 4 => some .bf16x2
  | _ => none

/-! ## Compare and classify (R368, R369) -/

def fcond (code : Nat) (x y : FNum) : Bool :=
  let un := x.isNan || y.isNan
  match code with
  | 0 => !un && x.eq y
  | 1 => un || !x.eq y
  | 2 => !un && x.lt y
  | 3 => !un && (x.lt y || x.eq y)
  | 4 => !un && y.lt x
  | 5 => !un && (y.lt x || x.eq y)
  | _ => un

def execFcmp (f : OForm) (s : State) : Host.Outcome State Fault Refusal :=
  let m := modOf f
  let t := (ftyCode (stype m)).getD .f32
  let ok := isImm f.b && (ftyCode (stype m)).isSome && modXs m == 0 && dtype m == 0 && decide (modField m 2 0 ≤ 6)
    && !(ftyPacked t && isSpecial f.d)
  s.operate f.c (vecBeats f.c) (opndsO ⟨[accVw, accP], [.vr 2 false], []⟩ f) (fun _ => ok) noLate noHold fun s u s' u' =>
    let x := s.rdLanes u 1 f.a 0
    let y := s.rdLanes u 1 f.a 1
    let test (l i : Nat) : Bool := fcond (modField m 2 0) (elem t (lane x l) i) (elem t (lane y l) i)
    let e := s.effOf u f.c
    if isSpecial f.d then s'.commitP u' f.c fpLat (numOf f.d) e (maskOf fun l => test l 0)
    else
      s'.commitV u' f.c fpLat e [(numOf f.d, lanesOf fun l => packElems t fun i =>
        if test l i then 2 ^ ftyBits t - 1 else 0)]

/-- The class mask of a value of a format (R369). -/
def fclassOf (f : Fmt) : FNum → Nat
  | .nan => 2 ^ 8
  | .inf n => if n then 1 else 2 ^ 7
  | .fin n m e =>
    if m = 0 then (if n then 2 ^ 3 else 2 ^ 4)
    else if (Nat.log2 m : Int) + e < f.emin then (if n then 2 ^ 2 else 2 ^ 5)
    else (if n then 2 else 2 ^ 6)

def execFclass (f : OForm) (s : State) : Host.Outcome State Fault Refusal :=
  let m := modOf f
  let t := (ftyCode (stype m)).getD .f32
  let ok := isImm f.b && (ftyCode (stype m)).isSome && modXs m == 0 && dtype m == 0 && modField m 2 0 == 0
  s.operate f.c (vecBeats f.c) (opndsO ⟨[accVw], [accV], []⟩ f) (fun _ => ok) noLate noHold fun s u s' u' =>
    let a := s.rdLanes u 1 f.a 0
    s'.commitV u' f.c fpLat (s.effOf u f.c)
      [(numOf f.d, lanesOf fun l => packElems t fun i => fclassOf (ftyFmt t) (elem t (lane a l) i))]

/-! ## Rounding to integers and scaling (R370) -/

/-- round(a, integer, rm) in the element's own format; a zero result keeps the sign of a. -/
def roundIntegral (mode : Rm) : FNum → FNum
  | .fin n m e => if 0 ≤ e then .fin n m e else .fin n (roundInt mode n m e false 0) 0
  | x => x

def execFround (f : OForm) (s : State) : Host.Outcome State Fault Refusal :=
  let m := modOf f
  let t := (ftyCode (stype m)).getD .f32
  let rm := (modRm m).getD .rne
  let ok := isImm f.b && (ftyCode (stype m)).isSome && stype m == dtype m && modXs m == 0 && (modRm m).isSome
  s.operate f.c (vecBeats f.c) (opndsO ⟨[accVw], accVS, []⟩ f) (fun _ => ok) noLate noHold fun s u s' u' =>
    let a := s.rdLanes u 1 f.a 0
    s'.commitV u' f.c fpLat (s.effOf u f.c) [(numOf f.d, lanesOf fun l => elems1 t (roundIntegral rm) (lane a l))]

/-- The signed k of `fscale`. -/
def scaleK (m : BitVec 18) : Int := (m.extractLsb' 11 6).toInt

/-- round(a × 2^k): beyond this exponent every format has overflowed or become zero. -/
def scaleNum (f : Fmt) (mode : Rm) (k : Int) (a : FNum) : FNum := f.round mode (a.scale (max (-70000) (min 70000 k)))

def execFscale (f : OForm) (s : State) : Host.Outcome State Fault Refusal :=
  let m := modOf f
  let t := (ftyCode (stype m)).getD .f32
  let rm := (modRm m).getD .rne
  let var := m.getLsbD 17
  let ok := isImm f.b && (ftyCode (stype m)).isSome && stype m == dtype m && (modRm m).isSome
    && (!var || modField m 16 11 == 0)
  s.operate f.c (vecBeats f.c) (opndsO ⟨if var then [accVd] else [accVw], accVS, []⟩ f) (fun _ => ok) noLate noHold
    fun s u s' u' =>
      let a := s.rdLanes u 1 f.a 0
      let d := s.rdLanes u 0 f.d 0
      s'.commitV u' f.c fpLat (s.effOf u f.c) [(numOf f.d, lanesOf fun l =>
        elems1 t (scaleNum (ftyFmt t) rm (if var then (lane d l).toInt else scaleK m)) (lane a l))]

/-! ## Conversion (R371) -/

/-- Whether `fcvt` accepts the pair, and the packed element types when both are packed. -/
def fcvtPair (m : BitVec 18) : Bool :=
  ((tyOf (stype m)).isSome && (tyOf (dtype m)).isSome)
    || ((stype m == 3 || stype m == 4) && (dtype m == 3 || dtype m == 4))

def fcvtLane (m : BitVec 18) (rm : Rm) (w : Word) : Word :=
  match tyOf (stype m), tyOf (dtype m) with
  | some a, some b => b.place rm (a.value w)
  | _, _ =>
    let a : FTy := if stype m = 3 then .f16x2 else .bf16x2
    let b : FTy := if dtype m = 3 then .f16x2 else .bf16x2
    packElems b fun i => (ftyFmt b).code ((ftyFmt b).round rm (elem a w i))

def fcvtRaises (m : BitVec 18) (w : Word) : Bool :=
  match tyOf (stype m), tyOf (dtype m) with
  | some a, some b => (a.value w).isNan && b.noNan
  | _, _ => false

def execFcvt (f : OForm) (s : State) : Host.Outcome State Fault Refusal :=
  let m := modOf f
  let rm := (modRm m).getD .rne
  let ok := isImm f.b && fcvtPair m && modXs m == 0 && (modRm m).isSome
  let sh : Shape := ⟨[accVw], if 9 ≤ stype m then accVSI else accVS, []⟩
  s.operate f.c (vecBeats f.c) (opndsO sh f) (fun _ => ok)
    (fun s u => s.fpexc u f.c fun l => fcvtRaises m (lane (s.rdLanes u 1 f.a 0) l)) noHold fun s u s' u' =>
    let a := s.rdLanes u 1 f.a 0
    s'.commitV u' f.c fpLat (s.effOf u f.c) [(numOf f.d, lanesOf fun l => fcvtLane m rm (lane a l))]

/-! ## Narrowing microblocks (R271, R372, R373) -/

/-- A narrow target: a floating-point format with its width, or an integer width. -/
def narrowTy (dt : Nat) (i4 : Bool) : Option Ty :=
  match dt, i4 with
  | 0x7, false => some (.flt e2m1 4)
  | 0x6, false => some (.flt e4m3 8)
  | 0x5, false => some (.flt e5m2 8)
  | 0x9, false => some (.int 8 true)
  | 0x9, true => some (.int 4 true)
  | _, _ => none

def tyWidth : Ty → Nat
  | .flt _ w => w
  | .int w _ => w

/-- round(x / d, type, mode) of a finite positive d: the code, and the value before R270. -/
def narrowQuot (t : Ty) (mode : Rm) (x d : FNum) : Nat × FNum :=
  match t with
  | .flt f w =>
    let y := match x, d with
      | .fin n m e, .fin _ m' e' =>
        if m = 0 then f.round mode (.fin n 0 0)
        else let q := quot m e m' e'; f.roundFin mode n q.m q.e q.sticky
      | x, _ => f.round mode x
    (f.code y % 2 ^ w, y)
  | .int w sg =>
    let k := match x, d with
      | .fin n m e, .fin _ m' e' =>
        let q := quot m e m' e'
        let r := if m = 0 then 0 else roundInt mode n q.m q.e q.sticky 0
        let v : Int := if n then -(r : Int) else r
        max (intLo w sg) (min (intHi w sg) v)
      | x, _ => roundToInt (intLo w sg) (intHi w sg) mode x
    ((BitVec.ofInt w k).toNat, FNum.ofInt k)

/-- R271 with the residuals held multiplied by the divisor d, which keeps them exact. -/
def feedback (t : Ty) (d : FNum) (carry : FNum) : List FNum → List Nat
  | [] => []
  | x :: xs =>
    let y := x.add carry
    let (code, v) := narrowQuot t .rne y d
    let next := if y.isFin && v.isFin then y.sub (v.mul d) else .zero false
    code :: feedback t d next xs

/-- The eight codes of a microblock. The code of +0 is 0 in every format. -/
def narrowBlock (t : Ty) (rm : Rm) (d : FNum) (xs : List FNum) : List Nat :=
  if !d.isFin || d.isZero || d.sign then xs.map fun _ => 0
  else if rm = .ref then feedback t d (.zero false) xs
  else xs.map fun x => (narrowQuot t rm x d).1

/-- Codes of w bits packed from the lowest bits up. -/
def packCodes (w : Nat) : List Nat → Nat
  | [] => 0
  | c :: cs => c % 2 ^ w + 2 ^ w * packCodes w cs

def fcvtnTy (m : BitVec 18) : Option Ty := narrowTy (dtype m) (m.getLsbD 11)
def fcvtnSc (m : BitVec 18) : Bool := m.getLsbD 12

def fcvtnRaises (t : Ty) (xs : List FNum) : Bool := t.noNan && xs.any FNum.isNan

/-- The eight source values of a lane. -/
def State.eight (s : State) (u : Troupe) (o : Operand) (l : Nat) : List FNum :=
  (List.range 8).map fun j => f32of (lane (s.rdLanes u 1 o j) l)

def execFcvtn (f : OForm) (s : State) : Host.Outcome State Fault Refusal :=
  let m := modOf f
  let rm := (modRm m).getD .rne
  let t := (fcvtnTy m).getD (.flt e2m1 4)
  let ok := isImm f.b && stype m == 0 && (fcvtnTy m).isSome && modXs m / 4 == 0 && (modRm m).isSome
  let wide := tyWidth t == 8
  let sh : Shape := ⟨[.vw (if wide then 2 else 1) false], [.vr (if fcvtnSc m then 9 else 8) false], []⟩
  s.operate f.c (vecBeats f.c) (opndsO sh f) (fun _ => ok)
    (fun s u => s.fpexc u f.c fun l => fcvtnRaises t (s.eight u f.a l)) noHold fun s u s' u' =>
    let codes (l : Nat) : Nat :=
      let d := if fcvtnSc m then f32of (lane (s.rdLanes u 1 f.a 8) l) else .fin false 1 0
      packCodes (tyWidth t) (narrowBlock t rm d (s.eight u f.a l))
    let lo := (numOf f.d, lanesOf fun l => BitVec.ofNat 32 (codes l))
    let hi := (numOf f.d + 1, lanesOf fun l => BitVec.ofNat 32 (codes l / 2 ^ 32))
    s'.commitV u' f.c fpLat (s.effOf u f.c) (if wide then [lo, hi] else [lo])

/-- M of R373. -/
def packTarget (xs : Nat) (i4 : Bool) : Option Nat :=
  match xs, i4 with
  | 0x7, false => some 6
  | 0x6, false => some 448
  | 0x5, false => some 57344
  | 0x9, false => some 127
  | 0x9, true => some 7
  | _, _ => none

def maxAbs (xs : List FNum) : FNum :=
  (xs.filter FNum.isFin).foldl (fun a x => if a.lt x.abs then x.abs else a) (.zero false)

/-- The microscale of eight values. -/
def packScale (big : Nat) (rm : Rm) (xs : List FNum) : FNum :=
  let m := maxAbs xs
  if !m.isZero then divNum e3m5 rm m (.fin false big 0)
  else if xs.all FNum.isZero then .zero false
  else .fin false 1 0

def execFpack (f : OForm) (s : State) : Host.Outcome State Fault Refusal :=
  let m := modOf f
  let rm := (modRm m).getD .rne
  let big := packTarget (modField m 14 11) (m.getLsbD 15)
  let ok := isImm f.b && stype m == 0 && (dtype m == 8 || dtype m == 0) && big.isSome && modField m 17 16 == 0
    && (modRm m).isSome
  s.operate f.c (vecBeats f.c) (opndsO ⟨[accVw], [.vr 8 false], []⟩ f) (fun _ => ok) noLate noHold fun s u s' u' =>
    s'.commitV u' f.c fpLat (s.effOf u f.c) [(numOf f.d, lanesOf fun l =>
      let sc := packScale (big.getD 1) rm (s.eight u f.a l)
      if dtype m = 8 then BitVec.ofNat 32 (e3m5.code sc) else f32word sc)]

end Sys2Proof.Machine
end

