-- ==== Sys2Proof/Machine/VarPrec.lean ====
section
/-! DEFINITION. Variable-precision arithmetic, conversion and `pcfg` (R273 to R276, R374 to R380). -/

namespace Sys2Proof.Machine

/-- The fraction bits that a window of W registers holds (R273). -/
def vpCap (w : Nat) : Nat := 16 + 32 * (w - 1)

/-- The value of a window's registers in a lane, word 0 first. -/
def vpValue (ws : List Word) : FNum :=
  (vpFmt (vpCap ws.length)).value (ws.foldl (fun a w => a * 2 ^ 32 + w.toNat) 0)

/-- The registers of a window that holds a value exactly, word 0 first. -/
def vpWords (w : Nat) (x : FNum) : List Word :=
  let code := (vpFmt (vpCap w)).code x
  (List.range w).map fun j => BitVec.ofNat 32 (code / 2 ^ (32 * (w - 1 - j)))

/-- L, G and TE of a lane's pcfg (R274). -/
def pcL (c : BitVec 15) : Nat := c.toNat % 2 ^ 7
def pcG (c : BitVec 15) : Nat := c.toNat / 2 ^ 7 % 2 ^ 7
def Troupe.cfg (t : Troupe) (l : Nat) : BitVec 15 := t.pcfg.getD l 0

/-- The value of a source window in a lane. -/
def State.rdVp (s : State) (t : Troupe) (k : Nat) (o : Operand) (w l : Nat) : FNum :=
  vpValue ((List.range w).map fun j => lane (s.rdLanes t k o j) l)

/-- A result window: `val` of each lane, rounded at the lane's own length (R275). -/
def vpResult (t : Troupe) (w n : Nat) (mode : Rm) (val : Nat → Fmt → FNum) : List (Nat × Lanes) :=
  (List.range w).map fun j => (n + j, lanesOf fun l => (vpWords w ((vpFmt (pcL (t.cfg l))).round mode (val l (vpFmt (pcL (t.cfg l)))))).getD j 0)

/-- A trap that lists the effective lanes in which `p` holds. -/
def State.laneTrap (s : State) (t : Troupe) (c : Ctl) (cause : Byte) (p : Nat → Bool) : Option TrapInfo :=
  let e := s.effOf t c
  let m := maskOf fun l => e.getLsbD l && p l
  if m = 0 then none else some ⟨cause, 0, m⟩

/-- PRECWIN (R275). -/
def State.precwin (s : State) (t : Troupe) (c : Ctl) (w : Nat) : Option TrapInfo :=
  s.laneTrap t c precwinC fun l => decide (vpCap w < pcL (t.cfg l))

/-- The guard's condition on two addends (R276). -/
def guardHit (cfg : BitVec 15) (a b : FNum) : Bool :=
  cfg.getLsbD 14 && pcG cfg != 0 && a.isFin && b.isFin && !a.isZero && !b.isZero &&
    let s := a.add b
    s.isZero || decide (s.exp ≤ max a.exp b.exp - pcG cfg)

/-- Latencies of VP arithmetic (R145). -/
def vpLat : VpW → Nat
  | .w1 => 6
  | .w2 => 12
  | .w3 => 21
  | .w4 => 33

/-- A VP instruction takes 3, 9, 18 or 30 cycles of its unit (R145); three beats issue it. -/
def shWW (w : VpW) : Shape := ⟨[.vw w.n true], [.vr w.n true], [.vr w.n true]⟩

/-- `exact` gives a lane's value before rounding at its length; `addends` are those of the guard; `raises` is R376. -/
def vpOp (w : VpW) (sh : Shape) (ok : Bool) (mode : Rm) (f : OForm) (later : Bool)
    (exact : State → Troupe → Nat → Fmt → FNum) (addends : State → Troupe → Nat → Option (FNum × FNum))
    (raises : State → Troupe → Nat → Bool) (s : State) : Host.Outcome State Fault Refusal :=
  s.operate f.c (vecBeats f.c) (opndsO sh f) (fun _ => ok)
    (fun s u =>
      ((s.precwin u f.c w.n).orElse fun _ =>
        s.laneTrap u f.c precexhC fun l =>
          match addends s u l with | some (a, b) => guardHit (u.cfg l) a b | none => false).orElse fun _ =>
        s.fpexc u f.c (raises s u)) noHold
    fun s u s' u' =>
      let r := vpResult u w.n (numOf f.d) mode (exact s u)
      if later then s'.commitVLater u' f.c (s.effOf u f.c) r else s'.commitV u' f.c (vpLat w) (s.effOf u f.c) r

/-- A VP sum: a and b with the guard of R276. -/
def vpSum (w : VpW) (f : OForm) (second : FNum → FNum) (s : State) : Host.Outcome State Fault Refusal :=
  let a (s : State) (u : Troupe) (l : Nat) : FNum := s.rdVp u 1 f.a w.n l
  let b (s : State) (u : Troupe) (l : Nat) : FNum := second (s.rdVp u 2 f.b w.n l)
  vpOp w (shWW w) true .rne f false (fun s u l _ => (a s u l).add (b s u l)) (fun s u l => some (a s u l, b s u l))
    (fun s u l => newNan ((a s u l).add (b s u l)) [a s u l, b s u l]) s

def execVpadd (w : VpW) (f : OForm) (s : State) : Host.Outcome State Fault Refusal := vpSum w f id s
def execVpsub (w : VpW) (f : OForm) (s : State) : Host.Outcome State Fault Refusal := vpSum w f FNum.neg s

def noAddends : State → Troupe → Nat → Option (FNum × FNum) := fun _ _ _ => none

def execVpmul (w : VpW) (f : OForm) (s : State) : Host.Outcome State Fault Refusal :=
  vpOp w (shWW w) true .rne f false (fun s u l _ => (s.rdVp u 1 f.a w.n l).mul (s.rdVp u 2 f.b w.n l)) noAddends
    (fun s u l => newNan ((s.rdVp u 1 f.a w.n l).mul (s.rdVp u 2 f.b w.n l)) [s.rdVp u 1 f.a w.n l, s.rdVp u 2 f.b w.n l]) s

def execVpfma (w : VpW) (f : OForm) (s : State) : Host.Outcome State Fault Refusal :=
  let p (s : State) (u : Troupe) (l : Nat) : FNum := (s.rdVp u 1 f.a w.n l).mul (s.rdVp u 2 f.b w.n l)
  let c (s : State) (u : Troupe) (l : Nat) : FNum := s.rdVp u 0 f.d w.n l
  vpOp w ⟨[.vd w.n true], [.vr w.n true], [.vr w.n true]⟩ true .rne f false (fun s u l _ => (p s u l).add (c s u l))
    (fun s u l => some (p s u l, c s u l))
    (fun s u l => newNan ((p s u l).add (c s u l)) [s.rdVp u 1 f.a w.n l, s.rdVp u 2 f.b w.n l, c s u l]) s

def execVpdiv (w : VpW) (f : OForm) (s : State) : Host.Outcome State Fault Refusal :=
  let a (s : State) (u : Troupe) (l : Nat) : FNum := s.rdVp u 1 f.a w.n l
  let b (s : State) (u : Troupe) (l : Nat) : FNum := s.rdVp u 2 f.b w.n l
  vpOp w (shWW w) true .rne f true (fun s u l fm => divNum fm .rne (a s u l) (b s u l)) noAddends
    (fun s u l => newNan (divNum (vpFmt 112) .rne (a s u l) (b s u l)) [a s u l, b s u l] || byZero (a s u l) (b s u l)) s

def execVpsqrt (w : VpW) (f : OForm) (s : State) : Host.Outcome State Fault Refusal :=
  vpOp w ⟨[.vw w.n true], [.vr w.n true], [.unused]⟩ true .rne f true
    (fun s u l fm => sqrtNum fm .rne (s.rdVp u 1 f.a w.n l)) noAddends (fun s u l => (s.rdVp u 1 f.a w.n l).negative) s

def execVpexp (w : VpW) (f : OForm) (s : State) : Host.Outcome State Fault Refusal :=
  vpOp w ⟨[.vw w.n true], [.vr w.n true], accVSI⟩ true .rne f false
    (fun s u l _ => (s.rdVp u 1 f.a w.n l).scale (max (-70000) (min 70000 (lane (s.rdLanes u 2 f.b 0) l).toInt)))
    noAddends (fun _ _ _ => false) s

/-! ## Comparison, rounding, conversion (R377 to R379) -/

def vpCompare (a b : FNum) : Word :=
  if a.isNan || b.isNan then 2 else if a.lt b then 0xFFFFFFFF#32 else if a.eq b then 0 else 1

def execVpcmp (w : VpW) (f : OForm) (s : State) : Host.Outcome State Fault Refusal :=
  s.operate f.c (vecBeats f.c) (opndsO ⟨[accVw], [.vr w.n true], [.vr w.n true]⟩ f) okMod
    (fun s u => s.precwin u f.c w.n) noHold fun s u s' u' =>
      s'.commitV u' f.c (vpLat w) (s.effOf u f.c)
        [(numOf f.d, lanesOf fun l => vpCompare (s.rdVp u 1 f.a w.n l) (s.rdVp u 2 f.b w.n l))]

def execVpround (w : VpW) (f : OForm) (s : State) : Host.Outcome State Fault Refusal :=
  let m := modOf f
  let sw := modXs m % 4 + 1
  let ok := isImm f.b && stype m == 15 && dtype m == 15 && modXs m / 4 == 0 && (modRm m).isSome
  vpOp w ⟨[.vw w.n true], [.vr sw true], []⟩ ok ((modRm m).getD .rne) f false
    (fun s u l _ => s.rdVp u 1 f.a sw l) noAddends (fun _ _ _ => false) s

/-- The types on the other side of a `vpcvt`: 0x0 to 0x2, 0x5, 0x6 and 0x9 to 0xE. -/
def vpcvtTy (code : Nat) : Option Ty := if code = 7 ∨ code = 8 then none else tyOf code

def execVpcvt (w : VpW) (f : OForm) (s : State) : Host.Outcome State Fault Refusal :=
  let m := modOf f
  let rm := (modRm m).getD .rne
  let okm := isImm f.b && modXs m == 0 && (modRm m).isSome
  if dtype m = 15 then
    let t := (vpcvtTy (stype m)).getD (.flt fp32 32)
    vpOp w ⟨[.vw w.n true], if 9 ≤ stype m then accVSI else accVS, []⟩ (okm && (vpcvtTy (stype m)).isSome) rm f false
      (fun s u l _ => t.value (lane (s.rdLanes u 1 f.a 0) l)) noAddends (fun _ _ _ => false) s
  else
    let t := (vpcvtTy (dtype m)).getD (.flt fp32 32)
    s.operate f.c (vecBeats f.c) (opndsO ⟨[accVw], [.vr w.n true], []⟩ f)
      (fun _ => okm && stype m == 15 && (vpcvtTy (dtype m)).isSome)
      (fun s u => (s.precwin u f.c w.n).orElse fun _ => s.fpexc u f.c fun l => (s.rdVp u 1 f.a w.n l).isNan && t.noNan)
      noHold fun s u s' u' =>
        s'.commitV u' f.c (vpLat w) (s.effOf u f.c) [(numOf f.d, lanesOf fun l => t.place rm (s.rdVp u 1 f.a w.n l))]

/-! ## Setting and reading the precision (R380) -/

/-- A lane's pcfg after `vpsetl` with the value v. -/
def setPcfg (m : BitVec 18) (old : BitVec 15) (v : Word) : BitVec 15 :=
  let l := if m.getLsbD 0 then min (max (v.toNat % 128) 7) 112 else pcL old
  let g := if m.getLsbD 1 then v.toNat / 128 % 128 else pcG old
  let te := if m.getLsbD 2 then v.getLsbD 14 else old.getLsbD 14
  BitVec.ofNat 15 (l + 128 * g + (if te then 16384 else 0))

def execVpsetl (f : OForm) (s : State) : Host.Outcome State Fault Refusal :=
  let m := modOf f
  s.operate f.c (vecBeats f.c) (opndsO ⟨[.unused], accVSI, []⟩ f) (fun _ => isImm f.b && modField m 17 3 == 0) noLate noHold
    fun s u s' u' =>
      let a := s.rdLanes u 1 f.a 0
      let e := s.effOf u f.c
      let cfg := (List.range 96).map fun l => if e.getLsbD l then setPcfg m (u'.cfg l) (lane a l) else u'.cfg l
      s'.commit { u' with pcfg := cfg } f.c

def execVpgetl (f : OForm) (s : State) : Host.Outcome State Fault Refusal :=
  s.operate f.c (vecBeats f.c) (opndsO ⟨[accVw], [.unused], []⟩ f) (fun _ => isImm f.b && modOf f == 0) noLate noHold
    fun s u s' u' =>
      s'.commitV u' f.c vecLat (s.effOf u f.c) [(numOf f.d, lanesOf fun l => (u.cfg l).setWidth 32)]

end Sys2Proof.Machine
end

