-- ==== Sys2Proof/Machine/Blocks.lean ====
section
/-! DEFINITION. What a request does to the 64 bytes of its line: plain bytes, typed blocks (R279 to R283, R390, R391), packed
elements (R280, R382), atomics (R401, R402), barrier objects (R406 to R409) and chunk objects (R100). -/

namespace Sys2Proof.Machine

/-- Bytes replaced from an offset on. -/
def putAt (b : List Byte) (ofs : Nat) (v : List Byte) : List Byte := b.take ofs ++ v ++ b.drop (ofs + v.length)

def byteAt (b : List Byte) (n : Nat) : Nat := (b.getD n 0).toNat

/-! ## Packed elements of VP(L) (R280) -/

/-- z: the bytes of an element. -/
def vpElemBytes (l : Nat) : Nat := 2 + cdiv l 8

/-- A number from bytes, most significant first. -/
def beNat (b : List Byte) : Nat := b.foldl (fun a x => a * 256 + x.toNat) 0
def natBe (n x : Nat) : List Byte := (natLe n x).reverse

/-- The value of an element's z bytes. -/
def vpElemValue (l : Nat) (b : List Byte) : FNum :=
  let w := leAt b 0 2
  let k := cdiv l 8
  (vpFmt l).value (w * 2 ^ l + beNat ((b.drop 2).take k) / 2 ^ (8 * k - l))

/-- The z bytes of a value that VP(L) holds. -/
def vpElemCode (l : Nat) (x : FNum) : List Byte :=
  let c := (vpFmt l).code x
  let k := cdiv l 8
  natLe 2 (c / 2 ^ l) ++ natBe k (c % 2 ^ l * 2 ^ (8 * k - l))

/-! ## Typed blocks (R279) -/

/-- The format of a code, but for VP. -/
def blockTy : Nat → Option Ty
  | 0x11 => some (.flt e2m1 4)
  | 0x12 => some (.flt e4m3 8)
  | 0x13 => some (.flt e5m2 8)
  | 0x14 => some (.flt bf16 16)
  | 0x15 => some (.flt fp16 16)
  | 0x16 => some (.flt fp32 32)
  | 0x18 => some (.int 8 true)
  | 0x19 => some (.int 4 true)
  | _ => none

/-- Elements per block; 0 where the code, or a VP block's length, is not valid (R282). -/
def blockCap (code b1 : Nat) : Nat :=
  match code with
  | 0x11 => 96
  | 0x12 => 60
  | 0x13 => 60
  | 0x14 => 30
  | 0x15 => 30
  | 0x16 => 15
  | 0x18 => 60
  | 0x19 => 120
  | 0x30 => if 7 ≤ b1 ∧ b1 ≤ 112 then 62 / vpElemBytes b1 else 0
  | _ => 0

/-- Where element i lies: its byte, the shift of its nibble, and its width in bits. -/
def blockPlace (code i : Nat) : Nat × Nat × Nat :=
  match code with
  | 0x11 => (2 + 5 * (i / 8) + i % 8 / 2, 4 * (i % 2), 4)
  | 0x19 => (2 + i / 2, 4 * (i % 2), 4)
  | 0x14 => (2 + 2 * i, 0, 16)
  | 0x15 => (2 + 2 * i, 0, 16)
  | 0x16 => (2 + 4 * i, 0, 32)
  | _ => (2 + i, 0, 8)

/-- The offset s of byte 1. -/
def blockExp (b : List Byte) : Int := (b.getD 1 0).toInt

/-- The microscale of element i's microblock, 1 for every code but 0x11. -/
def microscale (b : List Byte) (code i : Nat) : FNum :=
  if code = 0x11 then e3m5.value (byteAt b (6 + 5 * (i / 8))) else .fin false 1 0

/-- The value of element i of a block that is not empty. -/
def blockElem (b : List Byte) (i : Nat) : FNum :=
  let code := byteAt b 0
  if code = 0x30 then
    let z := vpElemBytes (byteAt b 1)
    vpElemValue (byteAt b 1) ((b.drop (2 + z * i)).take z)
  else
    match blockTy code with
    | none => .nan
    | some ty =>
      let p := blockPlace code i
      let raw := leAt b p.1 4 / 2 ^ p.2.1 % 2 ^ p.2.2
      ((ty.value (BitVec.ofNat 32 raw)).mul (microscale b code i)).scale (blockExp b)

/-- A typed read of element i: none is TYPEFMT, and the empty block reads as +0 (R390, R382). -/
def blockRead (b : List Byte) (i : Nat) : Option FNum :=
  if byteAt b 0 = 0 then some (.zero false)
  else if i < blockCap (byteAt b 0) (byteAt b 1) then some (blockElem b i)
  else none

/-- An empty block made one of a format, every element zero; `l` is the lane's L for VP (R283, step 1). -/
def blockNew (code l : Nat) : List Byte :=
  (List.range 64).map fun k =>
    if k = 0 then BitVec.ofNat 8 code
    else if k = 1 then BitVec.ofNat 8 (if code = 0x30 then l else 0)
    else if code = 0x11 && (k - 2) % 5 == 4 && decide (k < 62) then 0x60#8
    else 0

/-- The code of a value in an element of the block (R283, step 2). -/
def blockCode (b : List Byte) (ty : Ty) (code i : Nat) (v : FNum) : Nat :=
  let m := microscale b code i
  if m.isZero then 0 else (narrowQuot ty .rne v (m.scale (blockExp b))).1

/-- A typed store of element i: none is TYPEFMT, and nothing changes (R283, R391, R382). -/
def blockWrite (b : List Byte) (code l i : Nat) (v : FNum) : Option (List Byte) :=
  let b := if byteAt b 0 = 0 then blockNew code l else b
  let code := byteAt b 0
  if blockCap code (byteAt b 1) ≤ i then none
  else if code = 0x30 then
    let l := byteAt b 1
    some (putAt b (2 + vpElemBytes l * i) (vpElemCode l ((vpFmt l).round .rne v)))
  else
    match blockTy code with
    | none => none
    | some ty =>
      let p := blockPlace code i
      let n := cdiv p.2.2 8
      let old := leAt b p.1 n
      let keep := old - old / 2 ^ p.2.1 % 2 ^ p.2.2 * 2 ^ p.2.1
      some (putAt b p.1 (natLe n (keep + blockCode b ty code i v * 2 ^ p.2.1)))

/-! ## Atomics (R401, R402) -/

/-- An integer operation at a width of 32 or 64 bits. -/
def atomInt {w : Nat} (op : AtomOp) (old v new : BitVec w) : BitVec w :=
  match op with
  | .add => old + v
  | .sub => old - v
  | .min => if old.toInt ≤ v.toInt then old else v
  | .max => if old.toInt ≤ v.toInt then v else old
  | .umin => if old.toNat ≤ v.toNat then old else v
  | .umax => if old.toNat ≤ v.toNat then v else old
  | .and => old &&& v
  | .or => old ||| v
  | .xor => old ^^^ v
  | .xchg => v
  | .cas => if old = v then new else old
  | .inc => if v.toNat ≤ old.toNat then 0 else old + 1
  | .dec => if old = 0 ∨ v.toNat < old.toNat then v else old - 1

/-- A floating-point operation: 0 add, 1 sub, 2 min, 3 max. -/
def atomNum (k : Nat) (f : Fmt) (a b : FNum) : FNum :=
  match k with
  | 0 => f.round .rne (a.add b)
  | 1 => f.round .rne (a.sub b)
  | 2 => fminNum a b
  | _ => fmaxNum a b

def atomFty : AtomTy → FTy
  | .bf16x2 => .bf16x2
  | .f16x2 => .f16x2
  | _ => .f32

def atomFloat (k : Nat) (t : AtomTy) (old v : Word) : Word :=
  elems2 (atomFty t) (fun a b => atomNum k (ftyFmt (atomFty t)) a b) old v

/-- The new bytes of an atomic's location. -/
def atomBytes (op : AtomOp) (old v new : List Byte) : List Byte :=
  if old.length = 8 then
    natLe 8 (atomInt op (BitVec.ofNat 64 (leNat old)) (BitVec.ofNat 64 (leNat v)) (BitVec.ofNat 64 (leNat new))).toNat
  else natLe 4 (atomInt op (BitVec.ofNat 32 (leNat old)) (BitVec.ofNat 32 (leNat v)) (BitVec.ofNat 32 (leNat new))).toNat

/-! ## Barrier objects (R406 to R409) and chunk objects (R100) -/

/-- `barinit`. -/
def objInit (b : List Byte) (expect : Nat) : List Byte :=
  let g := (leAt b 0 4 + 1) % 2 ^ 32
  natLe 4 g ++ natLe 4 (max expect 1) ++ natLe 4 0 ++ natLe 4 g ++ [1] ++ b.drop 17

/-- `barinval`. -/
def objInval (b : List Byte) : List Byte :=
  natLe 4 (leAt b 0 4 + 1) ++ (b.drop 4).take 4 ++ natLe 4 0 ++ (b.drop 12).take 4 ++ [0] ++ b.drop 17

/-- A signal of generation g: the status and the object after it. -/
def objSignal (b : List Byte) (g : Nat) : Nat × List Byte :=
  if byteAt b 16 ≠ 1 ∨ g ≠ leAt b 0 4 then (0x20, b)
  else
    let a := leAt b 8 4 + 1
    if leAt b 4 4 ≤ a then (1, natLe 4 (leAt b 0 4 + 1) ++ (b.drop 4).take 4 ++ natLe 4 0 ++ b.drop 12)
    else (0, b.take 8 ++ natLe 4 a ++ b.drop 12)

/-- `chunk` on the 32 bytes of its object: start, count and the object after it. -/
def chunkStep (b : List Byte) : Nat × Nat × List Byte :=
  let next := leAt b 0 8
  let fin := leAt b 8 8
  if fin ≤ next then (fin, 0, b)
  else
    let rem := fin - next
    let count := min rem (max (max 1 (leAt b 16 4)) (cdiv rem (2 * max 1 (leAt b 20 4))))
    (next, count, putAt b 0 (natLe 8 (next + count)))

/-! ## One request on its line -/

/-- What a request gives: its result and the line after it, or a fault code with the line unchanged. -/
inductive Done where
  | ok (result : List Byte) (line : List Byte)
  | bad (code : Byte)
  deriving DecidableEq, Repr

def typedOut (r : Option (List Byte)) : Done :=
  match r with
  | some l => .ok [] l
  | none => .bad typefmt

/-- The steps of every operation but those of the graph instances (R445), which act on the queues as well. `ofs` is the place of
the access in the line `b`. -/
def lineStep (op : MemOp) (typed : Bool) (ofs bytes : Nat) (v v2 b : List Byte) : Done :=
  let old := (b.drop ofs).take bytes
  match op with
  | .load _ => .ok old b
  | .store => .ok [] (putAt b ofs v)
  | .atom o => .ok old (putAt b ofs (atomBytes o old v v2))
  | .fatom k t => .ok old (putAt b ofs (natLe 4 (atomFloat k t (BitVec.ofNat 32 (leNat old)) (BitVec.ofNat 32 (leNat v))).toNat))
  | .tload =>
    match blockRead b ofs with
    | some x => .ok (natLe 4 (f32word (fp32.round .rne x)).toNat) b
    | none => .bad typefmt
  | .tstore fmt => typedOut (blockWrite b fmt.toNat 0 ofs (f32of (BitVec.ofNat 32 (leNat v))))
  | .vpload w len _ =>
    if typed then
      match blockRead b ofs with
      | some x => .ok ((vpWords w.n ((vpFmt len).round .rne x)).flatMap fun x => natLe 4 x.toNat) b
      | none => .bad typefmt
    else .ok old b
  | .vpstore w len _ =>
    if typed then typedOut (blockWrite b 0x30 len ofs (vpValue ((List.range w.n).map fun i => BitVec.ofNat 32 (leAt v2 (4 * i) 4))))
    else .ok [] (putAt b ofs v)
  | .prefetch => .ok [] b
  | .bosig => let r := objSignal b (leNat v); .ok (natLe 4 r.1) r.2
  | .barinit => .ok [] (objInit b (leNat v))
  | .barinval => .ok [] (objInval b)
  | .chunk =>
    let r := chunkStep ((b.drop ofs).take 32)
    .ok (natLe 8 r.1 ++ natLe 8 r.2.1) (putAt b ofs r.2.2)
  | _ => .ok [] b

/-- The packed element of a lane that has landed in all its parts (R382): the window's registers. -/
def packedWords (w : VpW) (len : Nat) (b : List Byte) : List Byte :=
  let x := vpElemValue len b
  (vpWords w.n (if x.isNan then .nan else x)).flatMap fun x => natLe 4 x.toNat

end Sys2Proof.Machine
end

