-- ==== Sys2Proof/Machine/Order.lean ====
section
/-! DEFINITION. Releases, fences and store phases (R238, R239, R388, R394 to R396), and how a format-M instruction hands its
lanes to the memory system (R383 to R387). -/

namespace Sys2Proof.Machine

/-! ## Store phases (R238) -/

/-- A phase q has reached p. -/
def phaseReached (q p : BitVec 16) : Bool := decide ((q - p).toNat < 2 ^ 15)

/-- Whether `phadv` must wait on die d: some PHCOMP lags DPH_d by 2^15 - 1 or more. -/
def State.lagging (s : State) (d : Nat) : Bool :=
  (List.range s.dies.length).any fun h => decide (2 ^ 15 - 1 ≤ ((s.die d).dph - (s.die h).phcomp.getD d 0).toNat)

/-- The step of `phadv`: the troupe closes its die's phase. -/
def State.closePhase (s : State) (t : Troupe) : State × Troupe :=
  let d := t.die
  let s1 := s.modDie d fun x => { x with dph := x.dph + 1 }
  (s1.publish d, { t with sph := (s.die d).dph, phLives := (List.range 32).map s.lifeOf })

/-- Whether `phwait` on die h for phase p is over for a troupe of die d. -/
def State.phaseAt (s : State) (t : Troupe) (h : Nat) (p : BitVec 16) : Bool :=
  h == t.die || phaseReached ((s.die h).phcomp.getD t.die 0) p || (t.phLives[h]?).any (· != s.lifeOf h)

/-! ## What a release waits for (R239, R388) -/

/-- Whether a store or atomic has been performed towards a scope: its order-network slot or its forwarding queue for kind 0x0,
the directory for kinds 0x8 and 0x9 (its end at `.sys`), its end for the others. The phases of R239 come on top. -/
def MemReq.sentTo (r : MemReq) (sc : Scope) : Bool :=
  match r.stage with
  | .answered => true
  | .returning => true
  | .travelling => r.kind == 0
  | .atHome => r.kind == 0 || (r.kind != 10 && r.kind != 15 && sc != .sys)
  | .inTxn => r.kind == 0 || (r.kind != 10 && r.kind != 15 && sc != .sys)
  | .awaitLine => true
  | _ => false

/-- Scopes whose releases close a phase. -/
def Scope.wide : Scope → Bool
  | .dev => true
  | .sys => true
  | _ => false

/-- Whether a request has its order-network slot and is not performed. -/
def MemReq.underWay (r : MemReq) : Bool :=
  r.stage == .travelling || r.stage == .atHome || r.stage == .inTxn || r.stage == .awaitLine

/-- Whether a store or atomic of a die to a line has its slot and is not performed: what the die answers of the line waits for it (R206,
R388, R235). -/
def State.storeUnder (s : State) (die ln : Nat) : Bool :=
  s.reqs.any fun r => r.die == die && r.line == ln && memWrites r.op && r.underWay

/-- The stores and atomics of a die that have their slots and were issued before k: an access that the die answers may have shown them
to a troupe of the die, so that its releases carry them (R235). None is under way. -/
def State.dieQuiet (s : State) (die k : Nat) : Bool :=
  s.reqs.all fun r => r.die != die || decide (k ≤ r.id) || !memWrites r.op || !r.underWay

/-- Whether what a release must wait for is over, the combined stores of the die sent (R213) included: `k` is the release's place in
the order of issue, `ph` the phase it closed. At `.dev` and `.sys` it also waits for what its die has under way (log entry 79). -/
def State.releaseDone (s : State) (t : Troupe) (k : Nat) (sc : Scope) (ph : BitVec 16) : Bool :=
  !(s.splits.any fun p => p.wg == t.wg && p.trix == t.trix && decide (p.id < k) && !p.posted)
  && (s.reqs.all fun r =>
    r.wg != t.wg || r.trix != t.trix || decide (k ≤ r.id) || r.op == .prefetch || r.over
      || (!r.wasParked && r.sentTo sc))
  && (t.pend.all fun p => decide (k ≤ p.k) || match p.act with | .range wbs => wbs == [] | _ => true)
  && (sc == .tr || sc == .wg || sc == .cl || s.combines.all fun c => c.die != t.die)
  && (!sc.wide || (s.dieQuiet t.die k && (List.range 32).all fun h => !t.sent.getLsbD h || s.phaseAt t h ph))

/-- The troupe's set after its closed phase is published: the dies that it still has phased accesses to. -/
def State.sentNow (s : State) (t : Troupe) : BitVec 32 :=
  BitVec.ofNat 32 (maskNat (fun h => s.reqs.any fun r => r.wg == t.wg && r.trix == t.trix && r.owes t.die h
    && r.kind == 0 && r.home == h) 32)

/-- A held release is sent when its waits are over (R388, R239). -/
def State.handOver (s : State) (r : MemReq) : State :=
  match s.troupe? r.wg r.trix with
  | none => s
  | some t =>
    if r.stage = .held && s.releaseDone t r.split r.scope (r.phase.getD 0) then
      let s := s.setTroupe { t with sent := s.sentNow t }
      let r' := { r with stage := .untranslated false, phase := some (s.die r.die).dph }
      (s.modReq r.id fun _ => r').tryTranslate r'
    else s

/-- Every held release of a die whose waits are over. -/
def State.admitHeld (s : State) (die : Nat) : State :=
  (s.reqs.filter fun r => r.stage == .held && r.die == die).foldl State.handOver s

/-! ## Attributes (R297, R298, R203, R228, R234) -/

def polOf (p : BitVec 2) : Policy := match p.toNat with | 0 => .own | 1 => .wt | 2 => .si | _ => .wi
def scopeOf (p : BitVec 3) : Scope :=
  match p.toNat with | 0 => .tr | 1 => .wg | 2 => .cl | 3 => .die | 4 => .dev | _ => .sys
def ordOf (p : BitVec 2) : MemOrd := match p.toNat with | 0 => .plain | 1 => .acq | 2 => .rel | _ => .acqrel
def MemOrd.acquires : MemOrd → Bool | .acq => true | .acqrel => true | _ => false
def MemOrd.releases : MemOrd → Bool | .rel => true | .acqrel => true | _ => false

/-- The bytes of a SIZE code. -/
def sizeBytes (sz : BitVec 3) : Nat := match sz.toNat with | 0 => 1 | 1 => 1 | 2 => 2 | 3 => 2 | 4 => 4 | _ => 8

/-- What an instruction accepts in its attribute field (R384). -/
structure AttrRule where
  size : List Nat
  ord : List Nat
  ac : Bool
  pol : Bool
  /-- the highest scope code -/
  scope : Nat
  ofs : List Nat
  deriving DecidableEq, Repr

def anySize : List Nat := [0, 1, 2, 3, 4, 5]
/-- Every value of the OFS field. -/
def anyOfs : List Nat := List.range 64

end Sys2Proof.Machine

namespace Sys2Proof

/-- Whether an attribute field holds only accepted values. -/
def Attr.fits (a : Attr) (r : Machine.AttrRule) : Bool :=
  r.size.contains a.size.toNat && r.ord.contains a.ord.toNat && (r.ac || a.ac == 0) && (r.pol || a.pol == 0)
    && decide (a.scope.toNat ≤ r.scope) && r.ofs.contains a.ofs.toNat

/-- OFS × bytes (R297). -/
def Attr.bytesOfs (a : Attr) (bytes : Nat) : DWord := a.ofs.signExtend 64 * BitVec.ofNat 64 bytes

end Sys2Proof

namespace Sys2Proof.Machine

def opndsM (sh : Shape) (f : MForm) : Troupe → Opnds := fun _ => ⟨f.d, f.a, .imm 0, sh⟩

/-- Every lane's effective address (R385). -/
def State.eas (s : State) (t : Troupe) (a : Operand) (ofs : DWord) : List DWord :=
  let lo := s.rdLanes t 1 a 0
  let hi := s.rdLanes t 1 a 1
  (List.range 96).map fun l => pairW (lane lo l) (lane hi l) + ofs

def eaOf (es : List DWord) (l : Nat) : DWord := es.getD l 0

/-- The lanes of `m` in which `p` holds; a trap lists them with the address of the lowest. -/
def addrTrap (cause : Byte) (es : List DWord) (m : Mask) : Option TrapInfo :=
  match lowest m with
  | some l => some ⟨cause, eaOf es l, m⟩
  | none => none

/-- The misaligned lanes (R385). -/
def misaligned (es : List DWord) (bytes : Nat) (eff : Mask) : Option TrapInfo :=
  addrTrap misalign es (maskOf fun l => eff.getLsbD l && (eaOf es l).toNat % bytes != 0)

/-! ## Issue -/

/-- How the lanes of an instruction are accounted for. -/
structure Account where
  ac : Option Nat
  landing : Landing
  size : BitVec 3
  posted : Bool

/-- The lanes of an instruction join the memory system: `cn` keeps the flag and the scope of the instruction. A release at
`.dev` or `.sys` closes a phase first. -/
def State.sendLanes (s : State) (t : Troupe) (flag : Option Nat) (sp : ReqSpec) (a : Account) (ls : List LaneReq) : State :=
  let held := sp.ord.releases
  let (s, t) := if held && sp.scope.wide then s.closePhase t else (s, t)
  let key := match s.wgOf t with | some w => w.ctx | none => 0
  let id := s.fresh
  let split : Split := ⟨id, t.wg, t.trix, a.ac, flag, ls.length, a.landing, a.size,
    if sp.ord.acquires then some sp.scope else none, a.posted⟩
  let t := match a.ac with | some k => { t with acs := modAt t.acs k (· + 1) } | none => t
  let rs := (ls.zip (List.range ls.length)).map fun p =>
    mkReq s t key id (id + 1 + p.2) sp p.1 held
  ({ s with fresh := id + 1 + ls.length, splits := s.splits ++ [split] }.setTroupe t).addReqs rs

/-- The destination names of split-phase instruction `id`, not written until its lanes land (R143, R144). -/
def Troupe.awaiting (t : Troupe) (id : Nat) (m : Mask) (names : List Nat) : Troupe :=
  { t.wrote names with hazards := t.hazards ++ (names.filter (· != 255)).map fun n => ⟨.v n, m, .split id⟩ }

/-- What holds a memory-group instruction before issue: R466, a full arrival counter (R143), a phase that lags (R238). -/
def State.memHold (s : State) (t : Troupe) (ac : Option Nat) (rel : Bool) (sc : Scope) : Bool :=
  s.memHeld t || (match ac with | some k => decide (63 ≤ t.acs.getD k 0) | none => false)
    || (rel && sc.wide && s.lagging t.die)

/-- A format-M instruction of one request per effective lane. -/
structure LaneOp where
  sh : Shape
  rule : AttrRule
  /-- further checks of step 3 -/
  ok : Bool
  ofs : DWord
  late : State → Troupe → Option TrapInfo
  /-- how many of the names of D the replies write; none for a posted instruction -/
  back : Option Nat
  landing : List (Nat × Nat) → Landing
  /-- a lane's request at its effective address -/
  req : State → Troupe → Nat → DWord → LaneReq

/-- The bytes of the lane's value of register j on. -/
def State.datum (s : State) (t : Troupe) (o : Operand) (j n : Nat) : Nat → List Byte :=
  let lo := s.rdLanes t 0 o j
  let hi := if n = 8 then s.rdLanes t 0 o (j + 1) else []
  fun l => natLe n ((lane lo l).toNat + 2 ^ 32 * (lane hi l).toNat)

/-- The step-7 check of R385. -/
def State.alignTrap (s : State) (t : Troupe) (f : MForm) (ofs : DWord) (bytes : Nat) : Option TrapInfo :=
  misaligned (s.eas t f.a ofs) bytes (s.effOf t f.c)

def LaneOp.run (op : LaneOp) (f : MForm) (s : State) : Host.Outcome State Fault Refusal :=
  let sc := scopeOf f.attr.scope
  let o := ordOf f.attr.ord
  let ac := if op.back.isSome then some f.attr.ac.toNat else none
  s.operate f.c (vecBeats f.c) (opndsM op.sh f) (fun _ => f.attr.fits op.rule && op.ok) op.late
    (fun s t => s.memHold t ac o.releases sc)
    fun s t s' t' =>
      let eff := s.effOf t f.c
      let (s', t') := s'.clearLater t' f.c
      if eff = 0 then s'.setTroupe t'
      else
        let es := s.eas t f.a op.ofs
        let rq := op.req s t
        let ls := (lanesIn eff).map fun l => rq l (eaOf es l)
        let names := window (numOf f.d) (op.back.getD 0)
        let t' := match ac with | some _ => t'.awaiting s'.fresh eff names | none => t'
        s'.sendLanes t' none ⟨polOf f.attr.pol, sc, o⟩
          ⟨ac, op.landing (names.map fun n => (n, t'.token n)), f.attr.size, op.back.isNone⟩ ls

end Sys2Proof.Machine
end

