-- ==== Sys2Proof/Machine/Memory.lean ====
section
/-! DEFINITION. The memory instructions (R341, R342, R381 to R398): loads and stores, scratchpad and typed accesses, waits, fences
and phases, cache ranges, prefetch. Their lanes end by the events of the memory system. -/

namespace Sys2Proof.Machine

/-! ## Loads and stores (R387) -/

def noData : List Byte := []

/-- The width of D: a pair for SIZE 101. -/
def Attr.regs (a : Attr) : Nat := if a.size = 5 then 2 else 1

/-- "V, S or I", a pair for SIZE 101. -/
def dataForms (n : Nat) : List Acc := [.vr n false, if n = 2 then accPair else accS, .imm]

def anyRule (ord : List Nat) (ac : Bool) : AttrRule := ⟨anySize, ord, ac, true, 5, anyOfs⟩

def execLd (f : MForm) (s : State) : Host.Outcome State Fault Refusal :=
  let n := sizeBytes f.attr.size
  let r := Attr.regs f.attr
  LaneOp.run ⟨⟨[.vw r false], accAddr, []⟩, anyRule [0, 1] true, true, f.attr.bytesOfs n,
    fun s t => s.alignTrap t f (f.attr.bytesOfs n) n, some r, .vec,
    fun _ _ l va => ⟨l, .load f.attr.size, va, n, noData, noData⟩⟩ f s

def execSt (f : MForm) (s : State) : Host.Outcome State Fault Refusal :=
  let n := sizeBytes f.attr.size
  LaneOp.run ⟨⟨dataForms (Attr.regs f.attr), accAddr, []⟩, anyRule [0, 2] false, true, f.attr.bytesOfs n,
    fun s t => s.alignTrap t f (f.attr.bytesOfs n) n, none, fun _ => .nothing,
    fun s t =>
      let d := s.datum t f.d 0 n
      fun l va => ⟨l, .store, va, n, d l, noData⟩⟩ f s

/-! ## Scalar loads and stores (R341, R342) -/

def State.scalarEa (s : State) (t : Troupe) (f : MForm) (ofs : DWord) : DWord :=
  pairW (s.rdWord t 1 f.a 0) (s.rdWord t 1 f.a 1) + ofs

/-- The step-7 check of a scalar access: no lane is listed. -/
def State.scalarAlign (s : State) (t : Troupe) (f : MForm) : Option TrapInfo :=
  let n := sizeBytes f.attr.size
  let a := s.scalarEa t f (f.attr.bytesOfs n)
  if s.takesOf t f.c && a.toNat % n != 0 then some ⟨misalign, a, 0⟩ else none

def execSld (f : MForm) (s : State) : Host.Outcome State Fault Refusal :=
  let n := sizeBytes f.attr.size
  let r := Attr.regs f.attr
  let k := f.attr.ac.toNat
  s.operate f.c oneBeat (opndsM ⟨[if r = 2 then .sw 2 60 else accSw], [accPair], []⟩ f)
    (fun _ => f.attr.fits (anyRule [0, 1] true)) (fun s t => s.scalarAlign t f)
    (fun s t => s.memHold t (some k) false .tr) fun s t s' t' =>
      if s.takesOf t f.c then
        let t' := { t' with hazards := t'.hazards ++ sHazards (window (numOf f.d) r) (.split s'.fresh) }
        s'.sendLanes t' f.c.flag ⟨polOf f.attr.pol, scopeOf f.attr.scope, ordOf f.attr.ord⟩
          ⟨some k, .scalar (numOf f.d) (r == 2), f.attr.size, false⟩
          [⟨0, .load f.attr.size, s.scalarEa t f (f.attr.bytesOfs n), n, noData, noData⟩]
      else s'.commit t' f.c

def execSst (f : MForm) (s : State) : Host.Outcome State Fault Refusal :=
  let n := sizeBytes f.attr.size
  let o := ordOf f.attr.ord
  let sc := scopeOf f.attr.scope
  s.operate f.c oneBeat (opndsM ⟨[if Attr.regs f.attr = 2 then accPair else accS, .imm], [accPair], []⟩ f)
    (fun _ => f.attr.fits (anyRule [0, 2] false)) (fun s t => s.scalarAlign t f)
    (fun s t => s.memHold t none o.releases sc) fun s t s' t' =>
      let (s', t') := s'.clearLater t' f.c
      if s.takesOf t f.c then
        s'.sendLanes t' none ⟨polOf f.attr.pol, sc, o⟩ ⟨none, .nothing, f.attr.size, true⟩
          [⟨0, .store, s.scalarEa t f (f.attr.bytesOfs n), n, s.datum t f.d 0 n 0, noData⟩]
      else s'.setTroupe t'

/-! ## Scratchpad accesses (R154 to R156, R389) -/

def bufBytes : Nat := 8192

/-- The buffer that a handle names for a workgroup. -/
def Workgroup.bound? (w : Workgroup) (h : Nat) : Option Binding :=
  w.binds.find? fun b => b.handle.toNat == h && b.saved.isNone

def State.buf? (s : State) (core idx : Nat) : Option Buf := s.bufs.find? fun b => b.core == core && b.idx == idx
def State.modBuf (s : State) (core idx : Nat) (f : Buf → Buf) : State :=
  { s with bufs := modWhere s.bufs (fun b => b.core == core && b.idx == idx) f }

/-- The buffer and offset of a scratchpad address, none where R156 refuses it. -/
def Workgroup.scratch? (w : Workgroup) (a bytes : Nat) : Option (Nat × Nat × Nat) :=
  if a / 2 ^ 13 % 8 ≠ 0 || bufBytes < a % 2 ^ 13 + bytes || 2 ^ 32 ≤ a then none
  else (w.bound? (a / 2 ^ 16)).map fun b => (b.core, b.idx, a % 2 ^ 13)

def State.scratch? (s : State) (t : Troupe) (a bytes : Nat) : Option (Nat × Nat × Nat) := (s.wgOf t).bind fun w => w.scratch? a bytes

/-- SCROWN, then MISALIGN (R389). -/
def State.scratchTrap (s : State) (t : Troupe) (f : MForm) (n : Nat) : Option TrapInfo :=
  let es := s.eas t f.a (f.attr.bytesOfs n)
  let eff := s.effOf t f.c
  let bad := maskOf fun l => eff.getLsbD l && (s.scratch? t (eaOf es l).toNat n).isNone
  match lowest bad with
  | some l => some ⟨scrown, (eaOf es l) &&& 0xFFFFFFFF#64, bad⟩
  | none => misaligned es n eff

def padRule (ord : List Nat) (ac : Bool) : AttrRule := ⟨anySize, ord, ac, false, 2, anyOfs⟩

/-- A byte of a buffer. -/
def Buf.get (b : Buf) (a : Nat) : Byte :=
  match b.mem.find? fun c => c.1 == a with
  | some c => c.2
  | none => (Config.freeWord b.fill a).extractLsb' 0 8

/-- A byte written: the list keeps its addresses rising. -/
def cellPut : List Host.Cell → Nat → Byte → List Host.Cell
  | [], a, v => [(a, v)]
  | (b, w) :: m, a, v =>
    if b = a then (a, v) :: m else if a < b then (a, v) :: (b, w) :: m else (b, w) :: cellPut m a v

def cellsPut (m : List Host.Cell) (a : Nat) : List Byte → List Host.Cell
  | [] => m
  | b :: bs => cellsPut (cellPut m a b) (a + 1) bs

/-- Bytes of a buffer; MEMERR where a 64-byte block of it is damaged (R177). -/
def State.padRead (s : State) (core idx ofs n : Nat) : Except Byte (List Byte) :=
  match s.buf? core idx with
  | none => .error scrown
  | some b =>
    if (linesOf ofs n).any b.damaged.contains then .error memerr else .ok ((List.range n).map fun i => b.get (ofs + i))

def State.padWrite (s : State) (core idx ofs : Nat) (v : List Byte) : State :=
  s.modBuf core idx fun b => { b with mem := cellsPut b.mem ofs v }

/-- A batch with an A tile among the scratchpad bytes that its troupe writes: its results are unspecified (R242). -/
def Batch.spoil (b : Batch) (a n : Nat) : Batch :=
  if b.tiles.any fun x => decide (a < x.1 + x.2) && decide (x.1 < a + n) then { b with tileSpoilt := true } else b

def Troupe.spoil (t : Troupe) (a n : Nat) : Troupe :=
  { t with openBatch := t.openBatch.spoil a n, batches := t.batches.map (Batch.spoil · a n) }

/-- Blocks of which every byte has just been written are whole again (R177). -/
def Buf.heal (b : Buf) (written : Nat → Bool) : Buf :=
  { b with damaged := b.damaged.filter fun k => !((List.range 64).all fun i => written (64 * k + i)) }

/-- A lane's scratchpad load that has been read in issue order: its reply is ready. -/
def State.padReply (s : State) (t : Troupe) (n : Nat) (r : MemReq) : MemReq :=
  match s.scratch? t r.va.toNat n with
  | none => { r with stage := .answered, fault := some scrown }
  | some (c, i, ofs) =>
    match s.padRead c i ofs n with
    | .ok b => { r with stage := .answered, result := b }
    | .error e => { r with stage := .answered, fault := some e }

def execLdsp (f : MForm) (s : State) : Host.Outcome State Fault Refusal :=
  let n := sizeBytes f.attr.size
  let r := Attr.regs f.attr
  let k := f.attr.ac.toNat
  s.operate f.c (vecBeats f.c) (opndsM ⟨[.vw r false], accAddr, []⟩ f) (fun _ => f.attr.fits (padRule [0, 1] true))
    (fun s t => s.scratchTrap t f n) (fun s t => s.memHold t (some k) false .tr) fun s t s' t' =>
      let eff := s.effOf t f.c
      let (s', t') := s'.clearLater t' f.c
      if eff = 0 then s'.setTroupe t'
      else
        let es := s.eas t f.a (f.attr.bytesOfs n)
        let names := window (numOf f.d) r
        let t' := t'.awaiting s'.fresh eff names
        let t' := { t' with acs := modAt t'.acs k (· + 1) }
        let id := s'.fresh
        let sc := scopeOf f.attr.scope
        let ls := lanesIn eff
        let split : Split := ⟨id, t.wg, t.trix, some k, none, ls.length, .vec (names.map fun n => (n, t'.token n)),
          f.attr.size, if f.attr.ord = 1 then some sc else none, false⟩
        let rs := (ls.zip (List.range ls.length)).map fun p =>
          s.padReply t n (mkReq s t 0 id (id + 1 + p.2) ⟨.own, sc, .plain⟩
            ⟨p.1, .load f.attr.size, eaOf es p.1, n, noData, noData⟩ false)
        { s' with fresh := id + 1 + ls.length, splits := s'.splits ++ [split], reqs := s'.reqs ++ rs }.setTroupe t'

/-- `stsp` writes its buffer at issue; with `.rel` it waits for the release before it issues. -/
def execStsp (f : MForm) (s : State) : Host.Outcome State Fault Refusal :=
  let n := sizeBytes f.attr.size
  let sc := scopeOf f.attr.scope
  s.operate f.c (vecBeats f.c) (opndsM ⟨dataForms (Attr.regs f.attr), accAddr, []⟩ f)
    (fun _ => f.attr.fits (padRule [0, 2] false)) (fun s t => s.scratchTrap t f n)
    (fun s t => s.memHold t none false .tr || (f.attr.ord == 2 && !s.releaseDone t s.fresh sc 0)) fun s t s' t' =>
      let es := s.eas t f.a (f.attr.bytesOfs n)
      let d := s.datum t f.d 0 n
      let at_ := (lanesIn (s.effOf t f.c)).filterMap fun l => (s.scratch? t (eaOf es l).toNat n).map fun p => (p, d l)
      let s' := at_.foldl (fun s p => s.padWrite p.1.1 p.1.2.1 p.1.2.2 p.2) s'
      let hit (b : Buf) (k : Nat) : Bool :=
        at_.any fun p => p.1.1 == b.core && p.1.2.1 == b.idx && decide (p.1.2.2 ≤ k) && decide (k < p.1.2.2 + n)
      let bufs := s'.bufs.map fun b => if b.damaged = [] then b else b.heal (hit b)
      let pads := (at_.map fun p => (p.1.1, p.1.2.1)).eraseDups.map fun p => (p.1, p.2, (s.buf? p.1 p.2).elim [] Buf.mem)
      let t' := (lanesIn (s.effOf t f.c)).foldl (fun t l => t.spoil (eaOf es l).toNat n) t'
      { s' with bufs := bufs }.commit { t' with unreadyPad := t'.unreadyPad ++ pads } f.c

/-! ## Typed and packed accesses (R390, R391, R381, R382) -/

def execTld (f : MForm) (s : State) : Host.Outcome State Fault Refusal :=
  LaneOp.run ⟨⟨[accVw], accAddr, []⟩, ⟨[4], [0, 1], true, true, 5, [0]⟩, true, 0, noLate, some 1, .vec,
    fun _ _ l va => ⟨l, .tload, va, 1, noData, noData⟩⟩ f s

/-- The codes that an empty block may take (R391). -/
def tstFmts : List Nat := [0x11, 0x12, 0x13, 0x14, 0x15, 0x16, 0x18, 0x19]

def execTst (f : MForm) (s : State) : Host.Outcome State Fault Refusal :=
  LaneOp.run ⟨⟨[accV, accS], accAddr, []⟩, ⟨[4], [0, 2], false, true, 5, tstFmts⟩, true, 0, noLate, none, fun _ => .nothing,
    fun s t =>
      let d := s.datum t f.d 0 4
      fun l va => ⟨l, .tstore (f.attr.ofs.setWidth 8), va, 1, d l, noData⟩⟩ f s

def execVpld (w : VpW) (f : MForm) (s : State) : Host.Outcome State Fault Refusal :=
  LaneOp.run ⟨⟨[.vw w.n true], accAddr, []⟩, ⟨[0], [0, 1], true, true, 5, anyOfs⟩, true, f.attr.bytesOfs 1,
    fun s t => s.precwin t f.c w.n, some w.n, .vp w,
    fun _ t l va => ⟨l, .vpload w (pcL (t.cfg l)) false, va, vpElemBytes (pcL (t.cfg l)), noData, noData⟩⟩ f s

def execVpst (w : VpW) (f : MForm) (s : State) : Host.Outcome State Fault Refusal :=
  LaneOp.run ⟨⟨[.vr w.n true], accAddr, []⟩, ⟨[0], [0, 2], false, true, 5, anyOfs⟩, true, f.attr.bytesOfs 1,
    fun s t => s.precwin t f.c w.n, none, fun _ => .nothing,
    fun s t l va =>
      let len := pcL (t.cfg l)
      let ws := (List.range w.n).flatMap fun j => natLe 4 (lane (s.rdLanes t 0 f.d j) l).toNat
      ⟨l, .vpstore w len false, va, vpElemBytes len, vpElemCode len ((vpFmt len).round .rne (s.rdVp t 0 f.d w.n l)), ws⟩⟩ f s

/-! ## `waitac` (R143, R251, R392) -/

/-- The failures that `waitac` finds: the trap, when ERRPEND bit k is set, INTRAP is 0 and a fault entry is valid. -/
def Troupe.acTrap (t : Troupe) (k : Nat) : Option TrapInfo :=
  if !t.errpend.getLsbD k || t.intrap then none
  else
    let m := maskOf fun l => feValid (t.faults.getD l 0)
    match lowest m with
    | none => none
    | some l => some ⟨feCode (t.faults.getD l 0), feAddr (t.faults.getD l 0), m⟩

def Troupe.clearErr (t : Troupe) (k : Nat) : Troupe := { t with errpend := t.errpend &&& ~~~(1#16 <<< k) }

/-- `waitac` that has nothing to report. -/
def Troupe.acDone (t : Troupe) (k : Nat) : Troupe := if t.intrap then t else t.clearErr k

def execWaitac (f : OForm) (s : State) : Host.Outcome State Fault Refusal :=
  let k := numOf f.d - 16
  let n := match f.a with | .imm v => v.toNat | _ => 0
  let busy (s : State) (t : Troupe) : Bool := s.takesOf t f.c && decide (n < t.acs.getD k 0)
  s.run f.c fun s t =>
    let o := opndsO ⟨[.sp 16 31], [.immIn 0 63], [.unused]⟩ f t
    match s.check t o true with
    | some i => .trap i t.pc
    | none =>
      if s.memHeld t || busy s t then .go s
      else
        match (if s.takesOf t f.c then t.acTrap k else none) with
        | some i => .go (s.takeTrap (t.clearErr k) i t.pc)
        | none =>
          let t' := t.issued f.c (s.now t) 1
          let s := { s with free := s.free + 1 }
          if s.takesOf t f.c then .go (s.commit (t'.acDone k) f.c) else .go (s.commit t' f.c)

/-! ## `waitmem` (R393) -/

/-- What a check at the coherence point finds. -/
inductive Seen where
  | fault (code : Byte)
  | later
  | bytes (b : List Byte)
  deriving DecidableEq, Repr

/-- A read at the coherence point, by an access that never reads an untracked copy. It waits for the stores of its die to the line that
are under way, and for a line of a migrating frame (R172). -/
def State.observe (s : State) (t : Troupe) (va : DWord) (n : Nat) : State × Seen :=
  match s.ctxOf t with
  | none => (s, .fault xlate)
  | some c =>
    match s.translate c t.die .read va with
    | .fault e => (s, .fault e)
    | .park _ => (match s.agentPark c t.die .read va n with | .ok s => (s, .later) | .error (e, s) => (s, .fault e))
    | .at loc _ =>
      let home := c.homeOf t.die loc
      if locKind loc = 15 then (s, .fault protect)
      else if (s.gap t.die home).isSome then (s.noteGap t.die home, .fault linkerr)
      else if s.storeUnder t.die (loc / 64) then (s, .later)
      else
        match s.farFault c loc n, s.lost? home (loc / 64) with
        | some e, _ => (s, .fault e)
        | none, some r => (s.takeLost r, .fault leaseCode)
        | none, none =>
          if s.notPresent loc n then (s.fetchLines loc n, .later)
          else
            match s.badLines loc n with
            | some e => (s.meetError home loc n, .fault e)
            | none => (s.refresh t.die t.core (loc / 64), .bytes (s.view loc n))

/-- The end of a wait on a scalar register: what its registers become, and its releases. Its flag clears by
`VARIABLE_RESULT_WRITE`, and until then the registers count as not written (R393). -/
def State.endWait (s : State) (t : Troupe) (flag : Option Nat) (rel : List Nat) (ws : List (Nat × Word)) : State :=
  let (s, t) := if rel = [] then (s, t) else s.release t rel
  let t := t.setSs ws
  s.bump.setTroupe { t with
    wait := .none, pc := t.pc + 12
    pend := t.pend ++ [⟨s.fresh, flag, .done, false⟩]
    hazards := t.hazards ++ sHazards (ws.map Prod.fst) (.pend s.fresh) }

/-- Whether an access of the troupe to the bytes is still to be performed (R208). -/
def State.pendingAt (s : State) (t : Troupe) (va : DWord) (n : Nat) : Bool :=
  s.reqs.any fun q => q.wg == t.wg && q.trix == t.trix && !q.over && q.op != .prefetch
    && decide (q.va.toNat < va.toNat + n) && decide (va.toNat < q.va.toNat + max 1 q.bytes)

/-- One check of a troupe that waits in `waitmem`. -/
def State.checkMem (s : State) (t : Troupe) : State :=
  match t.wait with
  | .mem va l d wide _ sc acq flag cmp rel =>
    let n := if wide then 8 else 4
    if s.pendingAt t va n then s
    else
      match s.observe t va n with
      | (s, .later) => s
      | (s, .fault e) => s.endWait (t.errorArrival l 0 e va) flag rel []
      | (s, .bytes b) =>
        if leNat b = cmp.toNat then s
        else
          let v : DWord := BitVec.ofNat 64 (leNat b)
          let s := s.endWait t flag rel (if wide then [(d, loW v), (d + 1, hiW v)] else [(d, loW v)])
          if acq then s.acquire t.die t.core sc else s
  | _ => s

/-- The troupe stays on the instruction until the wait ends. -/
def Troupe.waitsIn (t : Troupe) (pc : DWord) (w : Wait) : Troupe := { t with pc := pc, wait := w }

/-- UNIFORM for a vector address, over both registers (R295). -/
def State.uniformAddr (s : State) (t : Troupe) (f : MForm) : Option TrapInfo :=
  let m := s.differing t 1 f.a 2 (s.effOf t f.c)
  if m = 0 then none else some ⟨uniformC, 0, m⟩

/-- The instruction issues but keeps the names that its last-read bits release until it ends. -/
def State.operateWait (s : State) (c : Ctl) (o : Troupe → Opnds) (mod : Troupe → Bool)
    (late : State → Troupe → Option TrapInfo) (hold : State → Troupe → Bool)
    (act : State → Troupe → List Nat → State → Troupe → State) : Host.Outcome State Fault Refusal :=
  s.run c fun s t =>
    let o := o t
    match s.check t o (mod t) with
    | some i => .trap i t.pc
    | none =>
      match late s t with
      | some i => .trap i t.pc
      | none =>
        if hold s t then .go s
        else .go (act s t (o.rel t) { s with free := s.free + 1 } (s.touched t c (t.issued c (s.now t) 1) (o.src t)))

def execWaitmem (f : MForm) (s : State) : Host.Outcome State Fault Refusal :=
  let n := sizeBytes f.attr.size
  let r := Attr.regs f.attr
  s.operateWait f.c (opndsM ⟨[.sd r 60], accAddr, []⟩ f) (fun _ => f.attr.fits ⟨[4, 5], [0, 1], false, true, 5, anyOfs⟩)
    (fun s t => (s.uniformAddr t f).orElse fun _ =>
      match lowest (s.effOf t f.c) with
      | some l =>
        let a := eaOf (s.eas t f.a (f.attr.bytesOfs n)) l
        if a.toNat % n = 0 then none else some ⟨misalign, a, 1#96 <<< l⟩
      | none => none)
    (fun s t => s.memHeld t) fun s t rel s' t' =>
      match lowest (s.effOf t f.c) with
      | none =>
        let (s', t') := s'.release t' rel
        s'.commit t' f.c
      | some l =>
        let va := eaOf (s.eas t f.a (f.attr.bytesOfs n)) l
        let cmp := pairW (s.rdWord t 0 f.d 0) (if r = 2 then s.rdWord t 0 f.d 1 else 0)
        let t' := t'.waitsIn t.pc (.mem va l (numOf f.d) (r == 2) (polOf f.attr.pol) (scopeOf f.attr.scope) (f.attr.ord == 1)
          f.c.flag cmp rel)
        (s'.setTroupe t').checkMem t'

/-- A waiting troupe's check is made again (R393). -/
def execWaitmemRecheck (wg trix : Nat) (s : State) : Host.Outcome State Fault Refusal :=
  match s.troupe? wg trix with
  | some t => .next (if t.stopped then s else s.checkMem t)
  | none => .next s

/-! ## Fences and phases (R394 to R396) -/

def execFence (f : MForm) (s : State) : Host.Outcome State Fault Refusal :=
  let o := ordOf f.attr.ord
  let sc := scopeOf f.attr.scope
  s.operate f.c oneBeat (opndsM ⟨[.unused], [.unused], []⟩ f) (fun _ => f.attr.fits ⟨[0], [1, 2, 3], false, false, 5, [0]⟩) noLate
    (fun s t => s.memHold t none o.releases sc) fun s t s' t' =>
      if s.takesOf t f.c then
        let (s', t') := if o.releases && sc.wide then s'.closePhase t' else (s', t')
        let (s', t') := s'.addPend t' f.c (.fence o.acquires o.releases sc) true
        s'.setTroupe t'
      else s'.commit t' f.c

def execPhadv (f : OForm) (s : State) : Host.Outcome State Fault Refusal :=
  s.operate f.c oneBeat (opndsO ⟨[.sw 1 60, .unused], [.unused], [.unused]⟩ f) okMod noLate (fun s t => s.memHeld t)
    fun s t s' t' =>
      if s.takesOf t f.c then
        let d := if isScal f.d then some (numOf f.d) else none
        let t' := { t' with hazards := t'.hazards ++ sHazards d.toList (.pend s'.fresh) }
        let (s', t') := s'.addPend t' f.c (.phadv d) true
        s'.setTroupe t'
      else s'.commit t' f.c

def execPhwait (f : OForm) (s : State) : Host.Outcome State Fault Refusal :=
  s.operate f.c oneBeat (opndsO ⟨[.unused], accSI, accSI⟩ f) okMod noLate (fun s t => s.memHeld t) fun s t s' t' =>
    if s.takesOf t f.c then
      let (s', t') := s'.addPend t' f.c
        (.phwait ((s.rdWord t 1 f.a 0).toNat % 32) ((s.rdWord t 2 f.b 0).extractLsb' 0 16)) true
      s'.setTroupe t'
    else s'.commit t' f.c

/-! ## Cache ranges (R225, R397) -/

/-- The lines of a page that a range instruction treats: those that a page in state 001, or 110 of kind 0x8 or 0x9, with R
permission, holds of the range. -/
def State.rangeLines (s : State) (c : Ctx) (a fin page : Nat) : List Nat :=
  match s.walk c (BitVec.ofNat 64 (4096 * page)) with
  | .leaf p level _ =>
    let st := pteShare p
    if pteR p && (st == 1 || (st == 6 && (pteKind p == 8 || pteKind p == 9))) then
      match c.locOf (leafPa p level (BitVec.ofNat 64 (4096 * page))) with
      | some loc =>
        ((List.range 64).filter fun i => decide (4096 * page + 64 * i < fin) && decide (a < 4096 * page + 64 * i + 64)).map
          fun i => loc / 64 + i
      | none => []
    else []
  | _ => []

/-- The pages of a range. -/
def rangePages (a n : Nat) : List Nat := if n = 0 then [] else (List.range ((a + n - 1) / 4096 + 1 - a / 4096)).map (a / 4096 + ·)

/-- What the three instructions do. -/
inductive RangeOp where
  | wb | inv | invd
  deriving DecidableEq, Repr

/-- Whether a line is written back. -/
def CLine.goesBack (l : CLine) (op : RangeOp) : Bool := l.dirty != 0 && !(l.window && op == .invd)

/-- A line's write-back: its dirty bytes on their way to its home (R214). -/
def CLine.writeBack (l : CLine) (id : Nat) (keep : Bool) : WriteBack :=
  ⟨id, l.die, l.core, l.home, l.line, l.data, l.dirty, l.window, l.excl, keep, false⟩

/-- A write-back leaves for its home: to another die on the request channel (R210). -/
def State.sendWb (s : State) (w : WriteBack) : State :=
  let s := { s with wbs := s.wbs ++ [w] }
  if w.home = w.die then s else s.send w.die w.home 0 (.wb w.id)

/-- One cached line treated: the write-back it sends. -/
def State.treatLine (s : State) (op : RangeOp) (l : CLine) : State × List Nat :=
  let s1 := { s with lines :=
    if op = .wb then s.lines.map fun x => if x == l then { x with dirty := 0 } else x
    else s.lines.filter (· != l) }
  if l.goesBack op then ({ s1 with fresh := s1.fresh + 1 }.sendWb (l.writeBack s.fresh (op == RangeOp.wb)), [s.fresh]) else (s1, [])

/-- The copies that a range instruction treats: those of the issuing core's L1 and of the die's remote-data cache. A line leaves the
remote-data cache only together with the tracked copies of the die's other L1s (R207); those stand first. -/
def State.rangeCopies (s : State) (op : RangeOp) (die core : Nat) (lns : List Nat) : List CLine :=
  let mine := s.lines.filter fun l => l.die == die && lns.contains l.line && (l.core == some core || l.core == none)
  let below := s.lines.filter fun l => l.die == die && l.core.isSome && l.core != some core && (l.tracked || l.excl)
    && mine.any fun x => x.core == none && !x.window && x.line == l.line
  (if op = .wb then [] else below) ++ (mine.filter (·.core.isSome)) ++ mine.filter (·.core.isNone)

/-- Every line of the range in the issuing core's L1 and the die's remote-data cache, treated. -/
def State.treatRange (s : State) (op : RangeOp) (die core : Nat) (lns : List Nat) : State × List Nat :=
  (s.rangeCopies op die core lns).foldl (fun p l => let q := p.1.treatLine op l; (q.1, p.2 ++ q.2)) (s, [])

/-- A cache-range instruction. It issues when the troupe's earlier accesses to the range have been performed, and is complete
when its write-backs have been acknowledged. -/
def rangeOp (op : RangeOp) (f : OForm) (s : State) : Host.Outcome State Fault Refusal :=
  let addr (s : State) (t : Troupe) : DWord := pairW (s.rdWord t 1 f.a 0) (s.rdWord t 1 f.a 1)
  let len (s : State) (t : Troupe) : Nat := (s.rdWord t 2 f.b 0).toNat
  s.operate f.c oneBeat (opndsO ⟨[.unused], [accPair], accSI⟩ f) okMod noLate
    (fun s t => s.memHeld t || (s.effOf t f.c != 0 && s.pendingAt t (addr s t) (len s t))) fun s t s' t' =>
      match s.ctxOf t with
      | none => s'.commit t' f.c
      | some c =>
        if s.effOf t f.c = 0 then s'.commit t' f.c
        else
          let a := (addr s t).toNat
          let n := len s t
          let (s', ids) := s'.treatRange op t.die t.core ((rangePages a n).flatMap (s.rangeLines c a (a + n)))
          let (s', t') := s'.addPend t' f.c (.range (ids.filter fun i => s'.wbs.any fun w => w.id == i)) false
          s'.setTroupe t'

def execCwb (f : OForm) (s : State) : Host.Outcome State Fault Refusal := rangeOp .wb f s
def execCinv (f : OForm) (s : State) : Host.Outcome State Fault Refusal := rangeOp .inv f s
def execCinvd (f : OForm) (s : State) : Host.Outcome State Fault Refusal := rangeOp .invd f s

/-! ## Prefetch (R398) -/

/-- The lines fetched: no instruction waits for them. -/
def execCpf (f : MForm) (s : State) : Host.Outcome State Fault Refusal :=
  s.operate f.c (vecBeats f.c) (opndsM ⟨[.unused], accAddr, []⟩ f) (fun _ => f.attr.fits ⟨[0], [0], false, true, 0, anyOfs⟩) noLate
    (fun s t => s.memHeld t) fun s t s' t' =>
      let (s', t') := s'.clearLater t' f.c
      let es := s.eas t f.a (f.attr.bytesOfs 64)
      let ls := lanesIn (s.effOf t f.c)
      let key := match s.wgOf t with | some w => w.ctx | none => 0
      let id := s'.fresh
      let rs := (ls.zip (List.range ls.length)).map fun p =>
        mkReq s t key id (id + 1 + p.2) ⟨polOf f.attr.pol, .tr, .plain⟩
          ⟨p.1, .prefetch, (eaOf es p.1) &&& ~~~63#64, 64, noData, noData⟩ false
      ({ s' with fresh := id + 1 + ls.length }.setTroupe t').addReqs rs

/-! ## Atomics (R399 to R402) -/

/-- The SIZE codes that a type admits (R399). -/
def atomSizes : AtomTy → List Nat
  | .int => [4, 5]
  | .uint => [4, 5]
  | _ => [4]

/-- An atomic whose operand is register 0 of D on, the second operand of `.cas` register `second` on. -/
def atomOp (op : MemOp) (sizes : List Nat) (cas : Bool) (f : MForm) (s : State) : Host.Outcome State Fault Refusal :=
  let n := sizeBytes f.attr.size
  let r := Attr.regs f.attr
  LaneOp.run ⟨⟨[if cas then .vx (2 * r) r else .vd r false], accAddr, []⟩, ⟨sizes, [0, 1, 2, 3], true, true, 5, anyOfs⟩, true,
    f.attr.bytesOfs n, fun s t => s.alignTrap t f (f.attr.bytesOfs n) n, some r, .vec,
    fun s t =>
      let d := s.datum t f.d 0 n
      let e := if cas then s.datum t f.d r n else fun _ => noData
      fun l va => ⟨l, op, va, n, d l, e l⟩⟩ f s

/-- The operation that a type selects. -/
def typedAtom (k : Nat) (sop uop : AtomOp) : AtomTy → MemOp
  | .int => .atom sop
  | .uint => .atom uop
  | t => .fatom k t

def execAtomAdd (t : AtomTy) (f : MForm) (s : State) : Host.Outcome State Fault Refusal :=
  atomOp (typedAtom 0 .add .add t) (atomSizes t) false f s
def execAtomSub (t : AtomTy) (f : MForm) (s : State) : Host.Outcome State Fault Refusal :=
  atomOp (typedAtom 1 .sub .sub t) (atomSizes t) false f s
def execAtomMin (t : AtomTy) (f : MForm) (s : State) : Host.Outcome State Fault Refusal :=
  atomOp (typedAtom 2 .min .umin t) (atomSizes t) false f s
def execAtomMax (t : AtomTy) (f : MForm) (s : State) : Host.Outcome State Fault Refusal :=
  atomOp (typedAtom 3 .max .umax t) (atomSizes t) false f s
def execAtomAnd (f : MForm) (s : State) : Host.Outcome State Fault Refusal := atomOp (.atom .and) [4, 5] false f s
def execAtomOr (f : MForm) (s : State) : Host.Outcome State Fault Refusal := atomOp (.atom .or) [4, 5] false f s
def execAtomXor (f : MForm) (s : State) : Host.Outcome State Fault Refusal := atomOp (.atom .xor) [4, 5] false f s
def execAtomXchg (f : MForm) (s : State) : Host.Outcome State Fault Refusal := atomOp (.atom .xchg) [4, 5] false f s
def execAtomCas (f : MForm) (s : State) : Host.Outcome State Fault Refusal := atomOp (.atom .cas) [4, 5] true f s
def execAtomInc (f : MForm) (s : State) : Host.Outcome State Fault Refusal := atomOp (.atom .inc) [4, 5] false f s
def execAtomDec (f : MForm) (s : State) : Host.Outcome State Fault Refusal := atomOp (.atom .dec) [4, 5] false f s

end Sys2Proof.Machine
end

