-- ==== Sys2Proof/Machine/Fetch.lean ====
section
/-! DEFINITION. Fetching an instruction (R286 to R288), the traps of fetch and of unassigned words (R303, R305), and the pending
cancel at a yield point (R101). -/

namespace Sys2Proof.Machine

/-- How a fetch ends. -/
inductive FetchEnd where
  | fault (code : Byte)
  | park
  | instr (i : Instr)

/-- The fetch of the 12 bytes at a troupe's program counter, with X permission on every page they touch (R288). Code is read
as memory stands: log entry 12. -/
def State.fetch (s : State) (t : Troupe) : FetchEnd :=
  match s.ctxOf t with
  | none => .fault xlate
  | some c =>
    match s.readVa c t.die .fetch 3 t.pc 12 with
    | .fault e => .fault e
    | .park => .park
    | .bytes b =>
      match decode b with
      | .ok (i, _) => .instr i
      | .error _ => .fault xlate

/-- Whether the troupe may issue whatever its hints say: for a word that fails step 1 or 2 of R302 (R303). -/
def State.readyBare (s : State) (t : Troupe) : Bool := s.runnable t && decide (t.freeAt ≤ s.now t) && !s.maskPending t

/-- A word that fails step 2 of R302 traps with ILLINST. -/
def execUnassignedOpcode (_w : IWord) (s : State) : Host.Outcome State Fault Refusal :=
  match s.cur? with
  | none => .next s
  | some t => if s.readyBare t then .next (s.takeTrap t (trapOf illinst) t.pc) else .next s

/-- A fetch that ends with a fault code traps with class F (R249). -/
def execInstructionFetchFault (code : Byte) (s : State) : Host.Outcome State Fault Refusal :=
  match s.cur? with
  | none => .next s
  | some t =>
    if s.readyBare t then
      let s := match s.ctxOf t with
        | some c => s.clearLost c t.die .fetch 3 t.pc 12
        | none => s
      .next (s.takeTrap t ⟨code, t.pc, 0⟩ t.pc)
    else .next s

/-- The nearest enclosing level that has been cancelled. -/
def State.cancelUp (s : State) : Nat → Option Nat → Option Level
  | 0, _ => none
  | fuel + 1, some l =>
    match s.level? l with
    | some v => if v.cancel then some v else s.cancelUp fuel v.up
    | none => none
  | _, none => none

def State.cancelOf (s : State) (lvl : Nat) : Option Level := s.cancelUp 6 (some lvl)

/-- The trap of a pending cancel at a yield point, before step 1 for the next instruction (R101, R302). -/
def State.yieldTrap (s : State) (t : Troupe) : Option TrapInfo :=
  if t.atYield && (t.atJoint.bind (·.go)).isNone then
    ((s.wgOf t).bind fun w => s.cancelOf w.lvl).map fun l => ⟨cancelledC, l.ident.setWidth 64, 0⟩
  else none

/-- A fetch that parks holds the troupe's issue (R288), and its page goes to its resolver (R166). -/
def State.parkFetch (s : State) (t : Troupe) : State :=
  match s.ctxOf t with
  | none => s
  | some c =>
    let page := if s.readVa c t.die .fetch 3 t.pc (min 12 (4096 - t.pc.toNat % 4096)) = .park then t.pc.toNat / 4096 else t.pc.toNat / 4096 + 1
    (s.setTroupe { t with wait := .fetch page }).parkRead c t.die .fetch t.pc 12

end Sys2Proof.Machine
end

