-- ==== Sys2Proof/Machine/Sync.lean ====
section
/-! DEFINITION. Barriers and barrier objects, copies, tags, receive counters and buffers as a troupe issues them (R403 to R425);
the copies themselves run in `CopyEv`. -/

namespace Sys2Proof.Machine

/-! ## Acting once per issue (R404) -/

/-- Whether the instruction acts: with a vector operand, when a lane is effective. -/
def State.actsOf (s : State) (t : Troupe) (c : Ctl) (vec : Bool) : Bool :=
  if vec then s.effOf t c != 0 else s.takesOf t c

/-- The address that the leader lane gives. -/
def State.leaderAddr (s : State) (t : Troupe) (c : Ctl) (a : Operand) : DWord :=
  pairW (s.rdLeader t 1 a 0 (s.effOf t c)) (s.rdLeader t 1 a 1 (s.effOf t c))

def State.leaderLane (s : State) (t : Troupe) (c : Ctl) (a : Operand) : Nat :=
  if isVec a then (lowest (s.effOf t c)).getD 0 else 0

/-- UNIFORM for a vector address (R295, R404). -/
def State.uniformOnce (s : State) (t : Troupe) (c : Ctl) (a : Operand) : Option TrapInfo :=
  let m := s.differing t 1 a 2 (s.effOf t c)
  if m = 0 then none else some ⟨uniformC, 0, m⟩

/-- MISALIGN of an object's address: the leader lane is listed when the address is a vector pair (R413). -/
def State.alignOnce (s : State) (t : Troupe) (c : Ctl) (a : Operand) : Option TrapInfo :=
  let va := s.leaderAddr t c a
  if va.toNat % 64 = 0 then none
  else some ⟨misalign, va, if isVec a then 1#96 <<< s.leaderLane t c a else 0⟩

/-- An address pair's checks, made when the instruction acts. -/
def State.addrOnce (s : State) (t : Troupe) (c : Ctl) (a : Operand) (vec : Bool) : Option TrapInfo :=
  if s.actsOf t c vec then (s.uniformOnce t c a).orElse fun _ => s.alignOnce t c a else none

/-! ## Workgroup barriers (R405) -/

def Workgroup.bar (w : Workgroup) (n : Nat) : Barrier := w.bars.getD n ⟨0, []⟩

/-- A troupe's arrival at a barrier. -/
def State.arrive (s : State) (wg trix n : Nat) : State :=
  s.modWg wg fun w => { w with
    bars := modAt w.bars n fun b => settleBarrier (s.alive wg) { b with arrived := b.arrived ++ [trix] } }

/-- Whether the generation of the troupe's latest arrival has completed. -/
def barrierPassed (t : Troupe) (w : Workgroup) (n : Nat) : Bool :=
  match t.barGen.getD n none with
  | none => true
  | some g => decide (g < (w.bar n).gen)

/-- `barw`, `barr` and `barwt`: an arrival, then a wait. A troupe that has arrived and waits keeps its place before the
instruction. -/
def barrierOp (arr wait : Bool) (f : OForm) (s : State) : Host.Outcome State Fault Refusal :=
  let n := numOf f.a - 48
  s.run f.c fun s t =>
    match s.check t (opndsO ⟨[.unused], [.sp 48 63], [.unused]⟩ f t) true, s.wgOf t with
    | some i, _ => .trap i t.pc
    | none, none => .go s
    | none, some w =>
      let done (s : State) : State := { s with free := s.free + 1 }.commit (t.issued f.c (s.now t) 1) f.c
      if w.nbars ≤ n then .trap (trapOf illopnd) t.pc
      else if s.memHeld t then .go s
      else if !s.takesOf t f.c then .go (done s)
      else if arr && !t.arrived then
        if (w.bar n).arrived.contains t.trix || !s.releaseDone t s.fresh .wg 0 then .go s
        else
          let g := some (w.bar n).gen
          let s1 := s.arrive t.wg t.trix n
          let t1 := { t with barGen := t.barGen.set n g }
          if wait && !((s1.wgOf t).elim true (barrierPassed t1 · n)) then
            .go (s1.modTroupe t.wg t.trix fun u => { u with barGen := u.barGen.set n g, arrived := true })
          else .go ({ s1 with free := s1.free + 1 }.commit (t1.issued f.c (s.now t) 1) f.c)
      else if wait && !barrierPassed t w n then .go s
      else .go (done s)

def execBarw (f : OForm) (s : State) : Host.Outcome State Fault Refusal := barrierOp true true f s
def execBarr (f : OForm) (s : State) : Host.Outcome State Fault Refusal := barrierOp true false f s
def execBarwt (f : OForm) (s : State) : Host.Outcome State Fault Refusal := barrierOp false true f s

/-! ## Barrier objects (R406 to R410) -/

/-- `barinit` and `barinval`: one atomic of the leader lane, posted, whose flag clears once it has been performed. -/
def objectOp (op : MemOp) (b : List Acc) (val : State → Troupe → List Byte) (f : OForm) (s : State) :
    Host.Outcome State Fault Refusal :=
  let vec := isVec f.a
  s.operate f.c oneBeat (opndsO ⟨[.unused], accAddr, b⟩ f) okMod (fun s t => s.addrOnce t f.c f.a vec)
    (fun s t => s.memHeld t) fun s t s' t' =>
      if s.actsOf t f.c vec then
        s'.sendLanes t' f.c.flag ⟨.wt, .tr, .plain⟩ ⟨none, .nothing, 4, true⟩
          [⟨s.leaderLane t f.c f.a, op, s.leaderAddr t f.c f.a, 64, val s t, noData⟩]
      else s'.commit t' f.c

def execBarinit (f : OForm) (s : State) : Host.Outcome State Fault Refusal :=
  objectOp .barinit accSI (fun s t => natLe 4 (s.rdWord t 2 f.b 0).toNat) f s
def execBarinval (f : OForm) (s : State) : Host.Outcome State Fault Refusal :=
  objectOp .barinval [.unused] (fun _ _ => noData) f s

/-- The attributes of R407. -/
def objRule (ac : Bool) : AttrRule := ⟨[4], [0], ac, true, 5, [0]⟩

def execBosig (f : MForm) (s : State) : Host.Outcome State Fault Refusal :=
  let vec := isVec f.a
  let k := f.attr.ac.toNat
  let sc := scopeOf f.attr.scope
  s.operate f.c oneBeat (opndsM ⟨[.sd 1 60], accAddr, []⟩ f) (fun _ => f.attr.fits (objRule true))
    (fun s t => s.addrOnce t f.c f.a vec) (fun s t => s.memHold t (some k) true sc) fun s t s' t' =>
      if s.actsOf t f.c vec then
        let t' := { t' with hazards := t'.hazards ++ sHazards [numOf f.d] (.split s'.fresh) }
        s'.sendLanes t' f.c.flag ⟨.wt, sc, .rel⟩ ⟨some k, .status (numOf f.d), 4, false⟩
          [⟨s.leaderLane t f.c f.a, .bosig, s.leaderAddr t f.c f.a, 64, natLe 4 (s.rdWord t 0 f.d 0).toNat, noData⟩]
      else s'.commit t' f.c

/-- Whether the generation of a released object leaves a waiter stale (R410). -/
def staleGen (igen g : Nat) : Bool :=
  let d := (igen + 2 ^ 32 - g) % 2 ^ 32
  decide (1 ≤ d) && decide (d < 2 ^ 31)

/-- A precise trap while a wait stands: the instruction's flag is clear again. -/
def State.trapWait (s : State) (t : Troupe) (flag : Option Nat) (i : TrapInfo) : State :=
  s.takeTrap { t with
    wait := .none, flags := match flag with | some f => t.flags &&& ~~~(1#12 <<< f) | none => t.flags } i t.pc

/-- One check of a troupe that waits in `bowait`. -/
def State.checkBo (s : State) (t : Troupe) : State :=
  match t.wait with
  | .bo va l d sc flag gen rel =>
    if s.pendingAt t va 64 then s
    else
      match s.observe t va 17 with
      | (s, .later) => s
      | (s, .fault e) => s.endWait (t.errorArrival l 0 e va) flag rel []
      | (s, .bytes b) =>
        let stale : TrapInfo := ⟨barstale, va, 0⟩
        if byteAt b 16 ≠ 1 then s.trapWait t flag stale
        else if leAt b 0 4 = gen.toNat then s
        else if staleGen (leAt b 12 4) gen.toNat then s.trapWait t flag stale
        else (s.endWait t flag rel [(d, BitVec.ofNat 32 (leAt b 0 4))]).acquire t.die t.core sc
  | _ => s

def execBowait (f : MForm) (s : State) : Host.Outcome State Fault Refusal :=
  let vec := isVec f.a
  s.operateWait f.c (opndsM ⟨[.sd 1 60], accAddr, []⟩ f) (fun _ => f.attr.fits (objRule false))
    (fun s t => s.addrOnce t f.c f.a vec) (fun s t => s.memHeld t) fun s t rel s' t' =>
      if s.actsOf t f.c vec then
        let t' := t'.waitsIn t.pc (.bo (s.leaderAddr t f.c f.a) (s.leaderLane t f.c f.a) (numOf f.d)
          (scopeOf f.attr.scope) f.c.flag (s.rdWord t 0 f.d 0) rel)
        (s'.setTroupe t').checkBo t'
      else
        let (s', t') := s'.release t' rel
        s'.commit t' f.c

def execBowaitRecheck (wg trix : Nat) (s : State) : Host.Outcome State Fault Refusal :=
  match s.troupe? wg trix with
  | some t => .next (if t.stopped then s else s.checkBo t)
  | none => .next s

/-! ## Copies (R411 to R413, R421) -/

/-- The fields of a control word (R412). -/
def ctlTag (c : Word) : Nat := c.toNat % 64
def ctlRec (c : Word) : Bool := c.getLsbD 6
def ctlCid (c : Word) : Nat := c.toNat / 2 ^ 8 % 2 ^ 8
def ctlCnt (c : Word) : Nat := c.toNat / 2 ^ 16 % 2 ^ 8

def ctlOk (armed : Bool) (tags : Nat) (c : Word) : Bool :=
  c.toNat < 2 ^ 24 && !c.getLsbD 7 && (armed || ctlCnt c == 0) && decide (ctlTag c < tags)

/-- The copies that take one of a die's 2,048 copy slots (R413). -/
def copySlots : Nat := 2048
def Copy.inFlight (c : Copy) : Bool := match c.stage with | .armed _ => false | _ => true
def State.copiesOn (s : State) (die : Nat) : Nat := (s.copies.filter fun c => c.die == die && c.inFlight).length

/-- The armed copies of a signal unit, which holds 4,096 (R421). -/
def armSlots : Nat := 4096
def State.armedOn (s : State) (die : Nat) : Nat :=
  (s.copies.filter fun c => !c.inFlight && ((s.ctx? c.ctx).elim false fun x => x.lowDie == die)).length

def Ctx.counter (c : Ctx) (k : Nat) : Word := match c.counters.find? fun x => x.1 == k with | some x => x.2 | none => 0
def Ctx.setCounter (c : Ctx) (k : Nat) (v : Word) : Ctx :=
  { c with counters := (c.counters.filter fun x => x.1 != k) ++ if v = 0 then [] else [(k, v)] }

/-- Whether a counter has reached a threshold (R421). -/
def countReached (count thr : Word) : Bool := decide ((count - thr).toNat < 2 ^ 31)

/-- The armed copies of a counter that its value makes eligible fire, in the order they were armed. -/
def State.fireArmed (s : State) (key k : Nat) : State :=
  match s.ctx? key with
  | none => s
  | some c =>
    { s with copies := s.copies.map fun x =>
      match x.stage with
      | .armed thr => if x.ctx == key && x.counter == k && countReached (c.counter k) thr then { x with stage := .waiting } else x
      | _ => x }

def Workgroup.tag (w : Workgroup) (n : Nat) : Tag := w.tags.getD n ⟨true, 0, 0, 0⟩
def State.modTag (s : State) (wg n : Nat) (f : Tag → Tag) : State := s.modWg wg fun w => { w with tags := modAt w.tags n f }

/-- What an instruction captures (R413). -/
def State.capture (s : State) (t : Troupe) (f : OForm) (id : Nat) (stage : CopyStage) : Copy :=
  let eff := s.effOf t f.c
  let w := s.wgOf t
  let ctl := s.rdWord t 0 f.d 0
  { id := id, wg := t.wg, trix := t.trix, ctx := w.elim 0 Workgroup.ctx, die := t.die
    lvlk := s.ident t 74, ctl := ctl, gen := s.rdWord t 0 f.d 1
    layout := s.leaderAddr t f.c f.a, coords := (List.range 4).map fun j => s.rdLeader t 2 f.b j eff
    counter := ctlCnt ctl, stage := stage, kind := 0, peer := 0, sig := 0, sigidx := 0, sigaddr := 0, size := 0
    status := 0, fault := 0, bufs := [], due := none }

/-- A copy joins its tag. -/
def State.addCopy (s : State) (c : Copy) : State :=
  { s with copies := s.copies ++ [c] }.modTag c.wg (ctlTag c.ctl) fun g => { g with count := g.count + 1, done := false }

/-- `cpy` and `arm`: `stage` is how the copy starts. -/
def copyOp (armed : Bool) (f : OForm) (s : State) : Host.Outcome State Fault Refusal :=
  let vec := isVec f.a || isVec f.b
  let ctl (s : State) (t : Troupe) : Word := s.rdWord t 0 f.d 0
  s.operate f.c oneBeat (opndsO ⟨[.sd (if armed then 3 else 2) 60], accAddr, [.vr 4 false, .sr 4 60]⟩ f) okMod
    (fun s t =>
      if !s.actsOf t f.c vec then none
      else (s.uniformOnce t f.c f.a).orElse fun _ =>
        if !ctlOk armed ((s.wgOf t).elim 0 Workgroup.ntags) (ctl s t) then some (trapOf illopnd)
        else s.alignOnce t f.c f.a)
    (fun s t => s.memHeld t || (s.actsOf t f.c vec &&
      (((s.wgOf t).elim false fun w => decide (255 ≤ (w.tag (ctlTag (ctl s t))).count))
        || (!armed && decide (copySlots ≤ s.copiesOn t.die)))))
    fun s t s' t' =>
      let (s', t') := s'.clearLater t' f.c
      let s' := s'.setTroupe t'
      if !s.actsOf t f.c vec then s'
      else if armed then
        let c := s.capture t f s'.fresh (.armed (s.rdWord t 0 f.d 2))
        let full := match s.ctx? c.ctx with | some x => decide (armSlots ≤ s.armedOn x.lowDie) | none => false
        if full then s'.bump.addCopy { c with stage := .signalled, status := 4 }
        else (s'.bump.addCopy c).fireArmed c.ctx c.counter
      else s'.bump.addCopy (s.capture t f s'.fresh .waiting)

def execCpy (f : OForm) (s : State) : Host.Outcome State Fault Refusal := copyOp false f s
def execArm (f : OForm) (s : State) : Host.Outcome State Fault Refusal := copyOp true f s

/-! ## Tags (R417, R418) -/

/-- The declared tags of a mask, lowest first. -/
def tagsIn (m : DWord) (n : Nat) : List Nat := (setBits m).filter (· < n)

def tagWord (w : Workgroup) (n : Nat) : Word :=
  BitVec.ofNat 32 ((w.tag n).fault.toNat * 2 ^ 16 + n * 2 ^ 8 + (w.tag n).stat.toNat)

/-- A tag instruction with a result: none while it waits. -/
def tagOp (res : Workgroup → List Nat → Option Word) (f : OForm) (s : State) : Host.Outcome State Fault Refusal :=
  let val (s : State) (t : Troupe) : Option Word :=
    (s.wgOf t).bind fun w => res w (tagsIn (pairW (s.rdWord t 1 f.a 0) (s.rdWord t 1 f.a 1)) w.ntags)
  s.operate f.c oneBeat (opndsO ⟨[.sw 1 60], [accPair], [.unused]⟩ f) okMod noLate
    (fun s t => s.memHeld t || (s.takesOf t f.c && (val s t).isNone)) fun s t s' t' =>
      match (if s.takesOf t f.c then val s t else none) with
      | some v => s'.commitSLater t' f.c [(numOf f.d, v)]
      | none => s'.commit t' f.c

def execTagwany (f : OForm) (s : State) : Host.Outcome State Fault Refusal :=
  tagOp (fun w m => if m = [] then some 0xFFFFFFFF#32 else (m.find? fun n => (w.tag n).done).map (tagWord w)) f s
def execTagwall (f : OForm) (s : State) : Host.Outcome State Fault Refusal :=
  tagOp (fun w m => if m.all fun n => (w.tag n).done then
    some ((m.find? fun n => (w.tag n).stat != 0).elim 0 (tagWord w)) else none) f s
def execTagfirst (f : OForm) (s : State) : Host.Outcome State Fault Refusal :=
  tagOp (fun w m => some ((m.find? fun n => (w.tag n).done).elim 0xFFFFFFFF#32 (tagWord w))) f s

def execTagclr (f : OForm) (s : State) : Host.Outcome State Fault Refusal :=
  s.operate f.c oneBeat (opndsO ⟨[.unused], [accPair], [.unused]⟩ f) okMod noLate (fun s t => s.memHeld t) fun s t s' t' =>
    let s' := s'.commit t' f.c
    if s.takesOf t f.c then
      let m := pairW (s.rdWord t 1 f.a 0) (s.rdWord t 1 f.a 1)
      s'.modWg t.wg fun w => (tagsIn m w.ntags).foldl
        (fun w n => { w with tags := modAt w.tags n fun g => { g with stat := 0, fault := 0 } }) w
    else s'

/-! ## Receive counters (R419, R420) -/

def execRcnt (f : OForm) (s : State) : Host.Outcome State Fault Refusal :=
  s.operate f.c oneBeat (opndsO ⟨[.sw 1 60], accSI, [.unused]⟩ f) okMod noLate (fun s t => s.memHeld t) fun s t s' t' =>
    if s.takesOf t f.c then
      let t' := { t' with hazards := t'.hazards ++ sHazards [numOf f.d] (.pend s'.fresh) }
      let (s', t') := s'.addPend t' f.c (.rcnt ((s.rdWord t 1 f.a 0).toNat % 256) (numOf f.d)) false
      s'.setTroupe t'
    else s'.commit t' f.c

/-- The addition is sent when the release is done (see `execVariableResultWrite`). -/
def execRcntadd (f : OForm) (s : State) : Host.Outcome State Fault Refusal :=
  s.operate f.c oneBeat (opndsO ⟨[.unused], accSI, accSI⟩ f) okMod noLate (fun s t => s.memHold t none true .dev) fun s t s' t' =>
    if s.takesOf t f.c then
      let (s', t') := s'.closePhase t'
      let (s', t') := s'.addPend t' f.c
        (.rcntadd ((s.rdWord t 1 f.a 0).toNat % 256) (s.rdWord t 2 f.b 0) t'.sph) false
      s'.setTroupe t'
    else s'.commit t' f.c

/-! ## Scratchpad buffers (R423 to R425, R157) -/

/-- The package-wide number of a troupe's core (R154). -/
def Troupe.gcore (t : Troupe) : Nat := 8 * t.die + t.core

/-- The buffer that `bget` binds, if the workgroup may have one more. -/
def State.nextBuf (s : State) (t : Troupe) : Option Nat :=
  match s.wgOf t with
  | none => none
  | some w =>
    if (s.bufs.filter fun b => b.wg == w.id).length < w.bufs && w.binds.length < 64 then
      (List.range 64).find? fun i => (s.buf? t.gcore i).isNone
    else none

def execBget (f : OForm) (s : State) : Host.Outcome State Fault Refusal :=
  s.operate f.c oneBeat (opndsO ⟨[.sw 1 60], [.unused], [.unused]⟩ f) okMod noLate (fun s t => s.memHeld t) fun s t s' t' =>
    if s.takesOf t f.c then
      match s.nextBuf t with
      | none => s'.commitSLater t' f.c [(numOf f.d, 0x0000FFFF#32)]
      | some i =>
        let h : BitVec 16 := BitVec.ofNat 16 (t.gcore * 256 + i)
        let buf : Buf := ⟨t.gcore, i, t.wg, s.free, [], []⟩
        let bind : Binding := ⟨h, t.gcore, i, none⟩
        let s' := { s' with bufs := s'.bufs ++ [buf] }
        let s' := s'.modWg t.wg fun w => { w with binds := w.binds ++ [bind] }
        s'.commitSLater t' f.c [(numOf f.d, h.setWidth 32)]
    else s'.commit t' f.c

/-- Whether a copy in flight of a workgroup uses a buffer, or may still come to: it has not read its layout record. -/
def State.bufBusy (s : State) (wg core idx : Nat) : Bool :=
  s.copies.any fun c => c.bufs.contains (core, idx) || (c.wg == wg && c.stage == .waiting)

/-- The binding that a handle in register A names. -/
def State.heldBuf (s : State) (t : Troupe) (f : OForm) : Option Binding :=
  (s.wgOf t).bind fun w => w.bound? ((s.rdWord t 1 f.a 0).toNat % 2 ^ 16)

/-- SCROWN for a handle that is not held: the address is that of the buffer's first byte. -/
def State.heldTrap (s : State) (t : Troupe) (f : OForm) : Option TrapInfo :=
  if s.takesOf t f.c && (s.heldBuf t f).isNone then
    some ⟨scrown, BitVec.ofNat 64 ((s.rdWord t 1 f.a 0).toNat % 2 ^ 16 * 2 ^ 16), 0⟩
  else none

def State.heldBusy (s : State) (t : Troupe) (f : OForm) : Bool :=
  s.takesOf t f.c && (s.heldBuf t f).elim false fun b => s.bufBusy t.wg b.core b.idx

/-- The running workgroup of the same launch with index w on a core of the giver's cluster. -/
def State.receiver (s : State) (t : Troupe) (w : Nat) : Option Workgroup :=
  (s.wgOf t).bind fun g => s.wgs.find? fun r => r.lvl == g.lvl && r.node == g.node && r.w == w
    && (r.status == .running || r.status == .stopping) && r.die == t.die && r.core / 4 == t.core / 4

/-- The status of `bgive`. -/
def giveStatus (r : Option Workgroup) (b : Binding) : Nat :=
  match r with
  | none => 1
  | some r => if 64 ≤ r.binds.length then 2 else if r.binds.any fun x => x.handle == b.handle then 3 else 0

def execBgive (f : OForm) (s : State) : Host.Outcome State Fault Refusal :=
  s.operate f.c oneBeat (opndsO ⟨[.sw 1 60], [accS], accSI⟩ f) okMod (fun s t => s.heldTrap t f)
    (fun s t => s.memHeld t || s.heldBusy t f || (s.takesOf t f.c && !s.releaseDone t s.fresh .cl 0)) fun s t s' t' =>
      match s.takesOf t f.c, s.heldBuf t f with
      | true, some b =>
        let r := s.receiver t (s.rdWord t 2 f.b 0).toNat
        let st := giveStatus r b
        let s' := match r with
          | some r =>
            if st = 0 then
              ((s'.modWg t.wg fun w => { w with binds := w.binds.filter fun x => x.handle != b.handle }).modWg r.id
                fun w => { w with binds := w.binds ++ [b] }).acquire r.die r.core .cl
            else s'
          | none => s'
        s'.commitSLater t' f.c [(numOf f.d, BitVec.ofNat 32 st)]
      | _, _ => s'.commit t' f.c

def execBfree (f : OForm) (s : State) : Host.Outcome State Fault Refusal :=
  s.operate f.c oneBeat (opndsO ⟨[.unused], [accS], [.unused]⟩ f) okMod (fun s t => s.heldTrap t f)
    (fun s t => s.memHeld t || s.heldBusy t f) fun s t s' t' =>
      let s' := s'.commit t' f.c
      match s.takesOf t f.c, s.heldBuf t f with
      | true, some b =>
        let s' := s'.modWg t.wg fun w => { w with binds := w.binds.filter fun x => x.handle != b.handle }
        { s' with bufs := s'.bufs.filter fun x => !(x.core == b.core && x.idx == b.idx) }
      | _, _ => s'

end Sys2Proof.Machine
end

