-- ==== Sys2Proof/Machine/Matrix.lean ====
section
/-! DEFINITION. Matrix instructions as a troupe issues them (R426 to R437), and the performance of matrix operations and tile
fills by a pipe's quarter. -/

namespace Sys2Proof.Machine

/-! ## Control words and tiles (R427, R428) -/

def mfmtIdx : MFmt → Nat
  | .e2m1 => 0 | .e4m3 => 1 | .e5m2 => 2 | .i8 => 3 | .bf16 => 4 | .f16 => 5

def cwJmask (c : Word) : Nat := c.toNat / 2 ^ 16
def cwJid (c : Word) : Nat := c.toNat / 2 ^ 12 % 16
def cwFmt (c : Word) : Nat := c.toNat / 2 ^ 8 % 8
def cwSp (c : Word) : Nat := c.toNat / 2 ^ 6 % 4
def cwSlot (c : Word) : Nat := c.toNat % 64

/-- Bits per element of a format index. -/
def mBits (fmt : Nat) : Nat := if fmt = 0 then 4 else if fmt ≤ 3 then 8 else 16

/-- f of R428, Kc of R146, Ks. -/
def spF (sp : Nat) : Nat := 2 ^ sp
def mKc (fmt : Nat) : Nat := 512 / mBits fmt
def mKs (fmt sp : Nat) : Nat := spF sp * mKc fmt

/-- The slots that a tile fills. -/
def tileSlots (fmt sp : Nat) : Nat := if fmt = 0 then (if sp = 2 then 3 else 2) else if sp = 0 then 1 else 2

/-- Where a tile's masks start, and its image bytes. -/
def maskBase (fmt : Nat) : Nat := if fmt = 0 then 5184 else 4096
def tileBytes (fmt sp : Nat) : Nat := maskBase fmt + (if sp = 0 then 0 else 64 * 8 * (mKs fmt sp / 64))

/-- Whether a control word keeps the map, but for JMASK and JID. -/
def cwOk (c : Word) : Bool :=
  !c.getLsbD 11 && decide (cwFmt c ≤ 5) && cwSp c != 3 && decide (cwSlot c + tileSlots (cwFmt c) (cwSp c) ≤ 64)

/-- The element of a format index with a code. -/
def mElem (fmt code : Nat) : FNum :=
  match fmt with
  | 0 => e2m1.value code
  | 1 => e4m3.value code
  | 2 => e5m2.value code
  | 3 => FNum.ofInt (BitVec.ofNat 8 code).toInt
  | 4 => bf16.value code
  | _ => fp16.value code

/-- The stored value j of column c. -/
def tileStored (b : List Byte) (fmt c j : Nat) : FNum :=
  let w := mBits fmt
  mElem fmt (leAt b (64 * c + j * w / 8) 2 / 2 ^ (j * w % 8) % 2 ^ w)

/-- A stored value with its microscale and the tile's band scale. -/
def tileEff (b : List Byte) (fmt c j : Nat) : FNum :=
  if fmt = 0 then
    ((tileStored b fmt c j).mul (e3m5.value (byteAt b (4096 + 16 * c + j / 8)))).mul (bf16.value (leAt b 5120 2))
  else tileStored b fmt c j

/-- effB(k, c): none at a position that sparsity leaves empty. -/
def effB (b : List Byte) (fmt sp k c : Nat) : Option FNum :=
  if sp = 0 then some (tileEff b fmt c k)
  else
    let ng := mKs fmt sp / 64
    let g := k / 64
    let m : BitVec 64 := BitVec.ofNat 64 (leAt b (maskBase fmt + 8 * (ng * c + g)) 8)
    let n := if sp = 1 then 32 else 16
    let before := ((List.range (k % 64)).filter fun p => m.getLsbD p).length
    if m.getLsbD (k % 64) && decide (before < n) then some (tileEff b fmt c (g * n + before)) else none

/-- The exact sum of a list of products, zero signs as R284 states. -/
def exactSum : List FNum → FNum
  | [] => .zero false
  | x :: xs => xs.foldl FNum.add x

/-- One accumulator after every group (R284, R432). -/
def mmaCell (ks : Nat) (a : Nat → FNum) (b : Nat → Option FNum) (c : Word) : Word :=
  (List.range (ks / 16)).foldl (fun c g =>
    let s := exactSum ((List.range 16).map fun i =>
      match b (16 * g + i) with
      | some y => (a (16 * g + i)).mul y
      | none => .zero false)
    f32word (fp32.round .rne ((f32of c).add s))) c

/-- The band of row r in a band word. -/
def bandOf (band : Word) (r : Nat) : FNum := bf16.value (band.toNat / 2 ^ (if r < 64 then 0 else 16) % 2 ^ 16)

/-- effA(r, k) from the row's registers. -/
def effA (regs : List Word) (fmt sp : Nat) (band : Word) (r k : Nat) : FNum :=
  let w := mBits fmt
  let x := mElem fmt ((regs.getD (k * w / 32) 0).toNat / 2 ^ (k * w % 32) % 2 ^ w)
  if fmt = 0 then
    let m := k / 8
    let sc := (regs.getD (16 * spF sp + m / 4) 0).toNat / 2 ^ (8 * (m % 4)) % 2 ^ 8
    (x.mul (e3m5.value sc)).mul (bandOf band r)
  else x

/-- The names of A for a format and a form (R431). -/
def aWidth (fmt sp : Nat) : Nat := (if fmt = 0 then 20 else 16) * spF sp

/-! ## Batches (R149, R434) -/

/-- Each pipe holds 8 operations issued and not performed (R434). -/
def quarterOps : Nat := 8

def Troupe.inBatch (t : Troupe) (n : Nat) : Bool :=
  (t.openBatch :: t.batches).any fun b => b.outs.any (·.1 == n) || b.ins.any (·.1 == n)

/-- An operation joins the open batch. -/
def Troupe.join (t : Troupe) (outs ins : List (Nat × Mask)) (rels : List Nat) : Troupe :=
  { t with
    openBatch := { t.openBatch with
      count := t.openBatch.count + 1, left := t.openBatch.left + 1
      outs := t.openBatch.outs ++ outs.filter fun p => !t.openBatch.outs.contains p
      ins := t.openBatch.ins ++ ins.filter fun p => !t.openBatch.ins.contains p
      rels := t.openBatch.rels ++ rels }
    hazards := t.hazards ++ ((outs ++ ins).filter fun p => !t.hazards.contains ⟨.v p.1, p.2, .batch⟩).map
      fun p => ⟨.v p.1, p.2, .batch⟩ }

/-- An operation enters its pipe's quarter. Its own results are the last writes of its accumulators from then on. -/
def State.pushOp (s : State) (t : Troupe) (c : Ctl) (kind : MatKind) (acc : Nat) (lanes : Mask) (ins : List (Nat × Mask))
    (rels : List Nat) : State :=
  let accs := window acc 64
  let op : MatOp := ⟨s.fresh, t.wg, t.trix, none, t.openBatch.count, kind, acc, lanes, t.unready.filter fun u => accs.contains u.1⟩
  let t := { t with unready := t.unready.filter fun u => !accs.contains u.1 }
  let s := s.bump.modPipe t.pipe fun p => { p with ops := p.ops ++ [op] }
  let (s, t) := s.clearLater t c
  s.setTroupe (t.join (accs.map fun n => (n, lanes)) ins rels)

/-- Matrix-group instructions wait for an `mrdy` (R436). -/
def Troupe.matHeld (t : Troupe) : Bool := t.pend.any fun p => p.act == .mrdy

def State.quarterFull (s : State) (t : Troupe) : Bool := decide (quarterOps ≤ (s.pipe t.pipe).ops.length)

/-! ## `mma` (R431 to R433) -/

/-- The last checks on a joint operation's control word (R433). -/
def jointOk (t : Troupe) (c : Word) : Bool :=
  if cwJid c = 0 then cwJmask c == 0
  else
    let ts := (List.range 16).filter fun i => (cwJmask c).testBit i
    ts.contains t.trix && decide ((ts.map (· % 4)).eraseDups.length = ts.length)

/-- The partners of a joint operation, the troupe itself left out. -/
def partners (t : Troupe) (c : Word) : List Nat := (List.range 16).filter fun i => (cwJmask c).testBit i && i != t.trix

/-- Whether a troupe waits at an operation that pairs with a given one of troupe i: the same place in the sequence of the same joint id,
or another joint id with a mask that names troupe i (R148, R433). -/
def JointAt.pairs (me : JointAt) (i : Nat) (j : Option JointAt) : Bool :=
  match j with
  | some x => x.go.isNone && (if x.jid = me.jid then x.n == me.n else (cwJmask x.ctl).testBit i)
  | none => false

/-- A joint operation whose partners have all reached theirs: each learns whether they agree. -/
def State.settleJoint (s : State) (t : Troupe) : State :=
  match t.atJoint with
  | none => s
  | some me =>
    let ps := (partners t me.ctl).map fun i => (s.troupe? t.wg i).bind (·.atJoint)
    if me.go.isNone && ps.all (me.pairs t.trix) then
      let go := ps.all fun j => j == some me
      (t.trix :: partners t me.ctl).foldl (fun s i => s.modTroupe t.wg i fun u => { u with
        atJoint := u.atJoint.map fun j => { j with go := some go } }) s
    else s

/-- A troupe reaches a joint operation: every operation that waits in its workgroup is looked at. -/
def State.reachJoint (s : State) (t : Troupe) (c : Word) (tile : DWord) : State :=
  let me : JointAt := ⟨cwJid c, t.joint.getD (cwJid c) 0, c, tile, none⟩
  let s := s.modTroupe t.wg t.trix fun u => { u with atJoint := some me }
  (List.range 16).foldl (fun s i => (s.troupe? t.wg i).elim s s.settleJoint) s

/-- The step-7 checks of `mma` and `mma.sp`, in their order. `pad` gives the scratchpad address of `mma.sp`. -/
def mmaLate (fmt : Nat) (pad : Bool) (f : OForm) (s : State) (t : Troupe) : Option TrapInfo :=
  let c := s.rdWord t 2 f.b 0
  let a := numOf f.a
  let bad : Option TrapInfo := some (trapOf illopnd)
  let ctl : Option TrapInfo := if !cwOk c || cwFmt c != fmt || !jointOk t c then bad else none
  if pad then
    if cwSp c ≠ 0 then bad
    else ctl.orElse fun _ =>
      let x := (s.rdWord t 1 f.a 0).toNat
      if x % 64 = 0 then none else some ⟨misalign, BitVec.ofNat 64 x, 0⟩
  else if cwSp c = 3 then bad
  else
    let w := aWidth fmt (cwSp c)
    if !t.nameOk a w true then bad
    else
      match (window a w).find? fun n => !t.mapped n with
      | some n => some ⟨deadreg, BitVec.ofNat 64 n, 0⟩
      | none => if numOf f.d < a + w && a < numOf f.d + 64 then bad else ctl

/-- The operation issues, for the rows that are effective. One without effective rows joins its batch as well (R434), unless a check
of step 7, which then never traps (R304), refuses its operands. -/
def mmaIssue (fmt : Nat) (pad : Bool) (f : OForm) (s : State) (t : Troupe) (s' : State) (t' : Troupe) : State :=
  let c := s.rdWord t 2 f.b 0
  let eff := s.effOf t f.c
  let a := if pad then [] else window (numOf f.a) (aWidth fmt (cwSp c))
  let joint := cwJid c != 0
  if eff = 0 && !joint && (mmaLate fmt pad f s t).isSome then s'.commit t' f.c
  else
    let t' := { t' with
      atJoint := none, joint := if joint then modAt t'.joint (cwJid c) (· + 1) else t'.joint }
    let lead := if joint then ((List.range 16).find? fun i => (cwJmask c).testBit i).getD t.trix else t.trix
    let kind : MatKind := .mma fmt (cwSp c) (cwSlot c) (pairW (s.rdWord t 2 f.b 2) (s.rdWord t 2 f.b 3)) (s.rdWord t 2 f.b 1) a
      (if pad then some (s.rdWord t 1 f.a 0) else none) lead (t.unready.filter fun u => a.contains u.1)
      (if pad then ((s.wgOf t).bind fun w => w.bound? ((s.rdWord t 1 f.a 0).toNat / 2 ^ 16)).elim []
          fun b => (t.unreadyPad.filter fun u => u.1 == b.core && u.2.1 == b.idx).map fun u => u.2.2
        else [])
    let tiles := if pad then [((s.rdWord t 1 f.a 0).toNat, if fmt = 0 then 7680 else 6144)] else []
    s'.pushOp { t' with openBatch := { t'.openBatch with tiles := t'.openBatch.tiles ++ tiles } } f.c kind (numOf f.d) eff
      (a.map fun n => (n, eff)) (if isLast f.a then a else [])

def mmaOp (fmt : Nat) (pad : Bool) (f : OForm) (s : State) : Host.Outcome State Fault Refusal :=
  s.run f.c fun s t =>
    let o : Opnds := ⟨f.d, f.a, f.b, ⟨[.vd 64 false], [if pad then accS else .vd 1 false], [.sr 4 60]⟩⟩
    match s.check t o (!isLast f.d) with
    | some i => .trap i t.pc
    | none =>
      let joint := cwJid (s.rdWord t 2 f.b 0) != 0
      let acts := joint || s.effOf t f.c != 0
      match (if acts then mmaLate fmt pad f s t else none) with
      | some i => .trap i t.pc
      | none =>
        if s.memHeld t || t.matHeld || s.quarterFull t then .go s
        else
          let tile := pairW (s.rdWord t 2 f.b 2) (s.rdWord t 2 f.b 3)
          match joint, t.atJoint with
          | true, none => .go (s.reachJoint t (s.rdWord t 2 f.b 0) tile)
          | true, some ⟨_, _, _, _, none⟩ => .go s
          | true, some ⟨_, _, _, _, some false⟩ => .trap ⟨uniformC, 0, 0⟩ t.pc
          | _, _ => .go (mmaIssue fmt pad f s t { s with free := s.free + 1 } (t.issued f.c (s.now t) 1))

def execMma (t : MFmt) (f : OForm) (s : State) : Host.Outcome State Fault Refusal := mmaOp (mfmtIdx t) false f s
def execMmaSp (t : MFmt) (f : OForm) (s : State) : Host.Outcome State Fault Refusal := mmaOp (mfmtIdx t) true f s

/-! ## The other matrix instructions (R430, R434 to R437) -/

def execMldb (f : MForm) (s : State) : Host.Outcome State Fault Refusal :=
  let k := f.attr.ac.toNat
  let ctl (s : State) (t : Troupe) : Word := s.rdWord t 0 f.d 0
  let va (s : State) (t : Troupe) : DWord := pairW (s.rdWord t 1 f.a 0) (s.rdWord t 1 f.a 1)
  s.operate f.c oneBeat (opndsM ⟨[accS], [accPair], []⟩ f) (fun _ => f.attr.fits ⟨[0], [0], true, true, 5, [0]⟩)
    (fun s t =>
      if !s.takesOf t f.c then none
      else if !cwOk (ctl s t) || cwJmask (ctl s t) != 0 || cwJid (ctl s t) != 0 then some (trapOf illopnd)
      else if (va s t).toNat % 64 = 0 then none else some ⟨misalign, va s t, 0⟩)
    (fun s t => s.memHold t (some k) false .tr || t.matHeld) fun s t s' t' =>
      let (s', t') := s'.clearLater t' f.c
      if s.takesOf t f.c then
        let c := ctl s t
        let id := s'.fresh
        let split : Split := ⟨id, t.wg, t.trix, some k, none, 1, .nothing, 0, none, false⟩
        let key := match s.wgOf t with | some w => w.ctx | none => 0
        let fill : Fill := ⟨id, t.pipe, id, key, va s t, cwFmt c, cwSp c, cwSlot c⟩
        { s' with fresh := id + 1, splits := s'.splits ++ [split], fills := s'.fills ++ [fill] }.setTroupe
          { t' with acs := modAt t'.acs k (· + 1) }
      else s'.setTroupe t'

def execMrdy (f : OForm) (s : State) : Host.Outcome State Fault Refusal :=
  s.operate f.c oneBeat (opndsO shNone f) okMod noLate (fun _ t => t.matHeld) fun s t s' t' =>
    if s.takesOf t f.c then
      let (s', t') := s'.addPend { t' with unready := [], unreadyPad := [] } f.c .mrdy false
      s'.setTroupe t'
    else s'.commit t' f.c

/-- The batch number of `mfence` and `mwait`. -/
def batchNo (f : OForm) : Nat := match f.a with | .imm v => v.toNat | _ => 0

def Troupe.batch (t : Troupe) (b : Nat) : Batch := t.batches.getD b Batch.idle

/-- The operations of the open batch become part of batch b (R434). -/
def Batch.close (b o : Batch) : Batch where
  closed := true
  count := b.count + o.count
  left := b.left + o.left
  err := b.err.orElse fun _ => o.err.map fun e => (e.1, e.2 + b.count)
  taddr := if b.err.isSome then b.taddr else o.taddr
  outs := b.outs ++ o.outs.filter fun p => !b.outs.contains p
  ins := b.ins ++ o.ins.filter fun p => !b.ins.contains p
  spoilt := b.spoilt ++ o.spoilt
  tiles := b.tiles ++ o.tiles
  tileSpoilt := b.tileSpoilt || o.tileSpoilt
  rels := b.rels ++ o.rels
  holds := b.holds ++ o.holds

/-- A closed batch whose operations have all been performed releases its names (R149). -/
def State.settleBatch (s : State) (t : Troupe) (b : Nat) : State :=
  let x := t.batch b
  if x.closed && x.left == 0 && (x.rels != [] || x.holds != []) then
    let t := { t with batches := modAt t.batches b fun x => { x with rels := [], holds := [] } }
    let (s, t) := s.release t x.rels
    (s.setTroupe t).freeZombies x.holds
  else s

def execMfence (f : OForm) (s : State) : Host.Outcome State Fault Refusal :=
  let b := batchNo f
  s.operate f.c oneBeat (opndsO ⟨[.unused], [.immIn 0 7], [.unused]⟩ f) okMod noLate (fun _ t => t.matHeld) fun s t s' t' =>
    if s.takesOf t f.c then
      let base := (t.batch b).count
      let s' := s'.modPipe t.pipe fun p => { p with ops := p.ops.map fun o =>
        if o.wg == t.wg && o.trix == t.trix && o.batch.isNone then { o with batch := some b, index := o.index + base } else o }
      let (s', t') := s'.clearLater t' f.c
      let t' := { t' with batches := modAt t'.batches b (Batch.close · t'.openBatch), openBatch := Batch.idle }
      (s'.setTroupe t').settleBatch t' b
    else s'.commit t' f.c

/-- The status word of R256. -/
def Batch.status (b : Batch) : Word :=
  match b.err with
  | some (code, i) => BitVec.ofNat 32 (min i 255 * 256 + code.toNat)
  | none => 0

/-- `mwait` completes: the batch's registers become readable, unspecified where R149 says so, and the batch idle. -/
def State.batchDone (s : State) (t : Troupe) (b : Nat) : Troupe :=
  let x := t.batch b
  let t := { t with batches := t.batches.set b Batch.idle }
  let wild := if x.spoilt = [] && !x.tileSpoilt then [] else x.outs ++ x.ins.filter fun p => x.spoilt.contains p.1
  let t := wild.foldl (fun t p => t.setV p.1 p.2 (lanesOf fun l => Config.freeWord s.free (2 ^ 24 + p.1 * 128 + l))) t
  let used := t.openBatch.outs ++ t.openBatch.ins ++ t.batches.flatMap fun y => y.outs ++ y.ins
  { t with hazards := t.hazards.filter fun h => match h.reg, h.order with
    | .v n, .batch => used.any (·.1 == n)
    | _, _ => true }

/-- `mwait` and `mwait.t`. -/
def mwaitOp (traps : Bool) (f : OForm) (s : State) : Host.Outcome State Fault Refusal :=
  let b := batchNo f
  s.operate f.c oneBeat (opndsO ⟨[.sw 1 60], [.immIn 0 7], [.unused]⟩ f) okMod
    (fun s t =>
      let x := t.batch b
      if traps && s.takesOf t f.c && x.closed && x.left == 0 && x.err.isSome && !t.matHeld then some ⟨matfault, x.taddr, 0⟩
      else none)
    (fun s t => t.matHeld || (s.takesOf t f.c && (t.batch b).left != 0)) fun s t s' t' =>
      if s.takesOf t f.c then s'.commitSLater (s.batchDone t' b) f.c [(numOf f.d, (t.batch b).status)]
      else s'.commit t' f.c

def execMwait (f : OForm) (s : State) : Host.Outcome State Fault Refusal := mwaitOp false f s
def execMwaitT (f : OForm) (s : State) : Host.Outcome State Fault Refusal := mwaitOp true f s

/-- A matrix instruction's own use of a batch's registers spoils nothing (R149). -/
def Troupe.batchesOf (t u : Troupe) : Troupe := { t with openBatch := u.openBatch, batches := u.batches }

def execMclr (f : OForm) (s : State) : Host.Outcome State Fault Refusal :=
  s.operate f.c oneBeat (opndsO ⟨[.vw 64 false], [.unused], [.unused]⟩ f) okMod noLate
    (fun s t => t.matHeld || s.quarterFull t) fun s t s' t' =>
      s'.pushOp (t'.batchesOf t) f.c .mclr (numOf f.d) (s.effOf t f.c) [] []

def execMbscale (f : OForm) (s : State) : Host.Outcome State Fault Refusal :=
  s.operate f.c oneBeat (opndsO ⟨[.vd 64 false], [accS], [.unused]⟩ f) (fun _ => !isLast f.d) noLate
    (fun s t => t.matHeld || s.quarterFull t) fun s t s' t' =>
      s'.pushOp (t'.batchesOf t) f.c (.mbscale (s.rdWord t 1 f.a 0)) (numOf f.d) (s.effOf t f.c) [] []

/-! ## Tiles in the weight buffer (R429, R430) -/

/-- The slots of a tile overlap those of another. -/
def slotsMeet (a n b m : Nat) : Bool := decide (a < b + m) && decide (b < a + n)

/-- A tile written: the records of tiles that it overlaps are removed, its own set unless the image is none. -/
def Pipe.putTile (p : Pipe) (slot n : Nat) (rec : Option FillRec) : Pipe :=
  { p with slots := (p.slots.filter fun x => !slotsMeet x.1 x.2.slots slot n) ++ rec.toList.map fun r => (slot, r) }

/-- The read of a tile image by a troupe. -/
def State.readTile (s : State) (key die : Nat) (va : DWord) (fmt sp : Nat) : ReadEnd :=
  match s.ctx? key with
  | none => .fault xlate
  | some c => s.readVa c die .read 4 va (tileBytes fmt sp)

/-- The first failing address of a read, page by page. -/
def State.failAddr (s : State) (key die : Nat) (va : DWord) (n : Nat) : DWord :=
  match s.ctx? key with
  | none => va
  | some c =>
    (((List.range ((n + 63) / 64)).map fun i => va + BitVec.ofNat 64 (64 * i)).find? fun a =>
      match s.readVa c die .read 2 a (min 64 (n - (a - va).toNat)) with | .fault _ => true | _ => false).getD va

/-- Whether an earlier access of a troupe to the bytes is still to be performed. -/
def State.earlierAt (s : State) (wg trix k : Nat) (va : DWord) (n : Nat) : Bool :=
  s.reqs.any fun q => q.wg == wg && q.trix == trix && decide (q.id < k) && !q.over && q.op != .prefetch
    && memWrites q.op && decide (q.va.toNat < va.toNat + n) && decide (va.toNat < q.va.toNat + max 1 q.bytes)

/-- The pages of an image that must be resolved first. -/
def State.parkTile (s : State) (key die : Nat) (va : DWord) (n : Nat) : Except (Byte × State) State :=
  match s.ctx? key with
  | none => .ok s
  | some c => s.agentPark c die .read va n

/-- The read of an image: the state waits for its pages, or the code of a fault, or the bytes. -/
inductive ImageEnd where
  | wait (s : State)
  | fault (code : Byte) (s : State)
  | bytes (b : List Byte)

def State.readImage (s : State) (key die : Nat) (va : DWord) (fmt sp : Nat) : ImageEnd :=
  match s.readTile key die va fmt sp with
  | .bytes b => .bytes b
  | .fault e => .fault e s
  | .park =>
    match s.parkTile key die va (tileBytes fmt sp) with
    | .ok s => .wait s
    | .error (e, s) => .fault e s

/-- The flags that a LEASE fault of an image's read clears. -/
def State.tileLost (s : State) (key die : Nat) (va : DWord) (n : Nat) : State :=
  match s.ctx? key with
  | none => s
  | some c => s.clearLost c die .read 4 va n

/-- A tile fill ends (R430): it waits for earlier operations that read an overlapping slot and for its image. -/
def execTileFillComplete (fill : Nat) (s : State) : Host.Outcome State Fault Refusal :=
  match s.fills.find? fun x => x.id == fill with
  | none => .next s
  | some x =>
    let n := tileSlots x.fmt x.sp
    let bytes := tileBytes x.fmt x.sp
    match s.split? x.split with
    | none => .next { s with fills := s.fills.filter fun y => y.id != fill }
    | some p =>
      let reads := s.pipes.any fun q => q.ops.any fun o => decide (o.id < fill) &&
        match o.kind with
        | .mma fmt sp slot _ _ _ _ issuer _ _ =>
          ((s.troupe? o.wg issuer).elim false fun t => t.pipe == x.pipe) && slotsMeet slot (tileSlots fmt sp) x.slot n
        | _ => false
      let earlier := s.fills.any fun y => decide (y.id < fill) && y.pipe == x.pipe && slotsMeet y.slot (tileSlots y.fmt y.sp) x.slot n
      if reads || earlier || s.earlierAt p.wg p.trix fill x.addr bytes then .next s
      else
        let die := pipeDie x.pipe
        match s.readImage x.ctx die x.addr x.fmt x.sp with
        | .wait s => .next s
        | .bytes img =>
          let s := { s with fills := s.fills.filter fun y => y.id != fill }
          let s := s.modPipe x.pipe fun q => q.putTile x.slot n (some ⟨x.ctx, x.addr, x.fmt, x.sp, n, img, false⟩)
          .next ((s.moveBytes p.wg bytes).laneDone x.split)
        | .fault e s =>
          let at_ := s.failAddr x.ctx die x.addr bytes
          let s := if e = leaseCode then s.tileLost x.ctx die x.addr bytes else s
          let s := { s with fills := s.fills.filter fun y => y.id != fill }
          let s := s.modPipe x.pipe fun q => q.putTile x.slot n none
          let s := s.modTroupe p.wg p.trix fun t => t.errorArrival 0 (p.ac.getD 0) e at_
          .next (s.laneDone x.split)

/-! ## Performing an operation (R255, R429, R432, R437) -/

/-- What an operand fetch gives. -/
inductive TileEnd where
  | wait (s : State)
  | bad (s : State) (code : Byte) (taddr : DWord)
  | tile (s : State) (img : List Byte)

/-- The B tile of an operation: the slots' image, refilled where the record differs. -/
def State.tileOf (s : State) (o : MatOp) (fmt sp slot : Nat) (addr : DWord) (issuer : Nat) : TileEnd :=
  match s.troupe? o.wg issuer, (s.wg? o.wg).map Workgroup.ctx with
  | some t, some key =>
    let n := tileSlots fmt sp
    let bytes := tileBytes fmt sp
    let bad : DWord := BitVec.ofNat 64 slot
    if s.fills.any fun y => decide (y.id < o.id) && y.pipe == t.pipe && slotsMeet y.slot (tileSlots y.fmt y.sp) slot n then .wait s
    else
      match (s.pipe t.pipe).slots.find? fun x => x.1 == slot && x.2.ctx == key && x.2.addr == addr && x.2.fmt == fmt && x.2.sp == sp with
      | some x => if x.2.damaged then .bad s memerr bad else .tile s x.2.image
      | none =>
        if s.earlierAt o.wg issuer o.id addr bytes then .wait s
        else
          match s.readImage key t.die addr fmt sp with
          | .wait s => .wait s
          | .fault e s =>
            let at_ := s.failAddr key t.die addr bytes
            let s := if e = leaseCode then s.tileLost key t.die addr bytes else s
            .bad (s.report [.lane o.wg issuer 0 e at_]) memerr bad
          | .bytes img => .tile (s.modPipe t.pipe fun q => q.putTile slot n (some ⟨key, addr, fmt, sp, n, img, false⟩)) img
  | _, _ => .bad s memerr (BitVec.ofNat 64 slot)

/-- A row's A registers from a scratchpad tile (R431): the code of a breach, with its address. -/
def State.padRow (s : State) (t : Troupe) (a : Nat) (fmt r : Nat) : Except (Byte × DWord) (List Word) :=
  let part (x n : Nat) : Except (Byte × DWord) (List Byte) :=
    match s.scratch? t x n with
    | none => .error (scrown, BitVec.ofNat 64 x)
    | some (c, i, ofs) =>
      match s.padRead c i ofs n with
      | .ok b => .ok b
      | .error e => .error (e, BitVec.ofNat 64 x)
  match part (a + 64 * r) 64, (if fmt = 0 then part (a + 6144 + 16 * r) 16 else .ok []) with
  | .ok v, .ok m => .ok (words4 (v ++ m))
  | .error e, _ => .error e
  | _, .error e => .error e

/-- One of some words, as a free value chooses. -/
def pickOf (w : Word) (l : List Word) : Word := l.getD (w.toNat % l.length) 0

/-- The A registers of every row: from the troupe's names, or from the scratchpad tile. What no `mrdy` covers reads, in each lane and
register, as it stands or as it stood before such a write (R436). -/
def State.aRows (s : State) (t : Troupe) (o : MatOp) (fmt : Nat) (a : List Nat) (pad : Option Word) (unsure : List (Nat × Lanes))
    (unsurePad : List (List Host.Cell)) : Except (Byte × DWord) (List (List Word)) :=
  match pad with
  | none =>
    let cols := a.map fun n =>
      let olds := (unsure.filter fun u => u.1 == n).map Prod.snd
      if olds = [] then t.vval n
      else lanesOf fun l => pickOf (Config.freeWord s.free (2 ^ 25 + n * 128 + l)) (lane (t.vval n) l :: olds.map (lane · l))
    .ok ((List.range 96).map fun r => cols.map fun v => lane v r)
  | some x =>
    (lanesIn o.lanes).foldl (fun acc r =>
      match acc with
      | .error e => .error e
      | .ok rows =>
        match s.padRow t x.toNat fmt r with
        | .error e => .error e
        | .ok ws =>
          let before (m : List Host.Cell) : List Word :=
            match ((s.wgOf t).bind fun w => w.bound? (x.toNat / 2 ^ 16)) with
            | none => ws
            | some b => (match (s.modBuf b.core b.idx fun q => { q with mem := m }).padRow t x.toNat fmt r with | .ok o => o | .error _ => ws)
          let olds := unsurePad.map before
          let ws := if olds = [] then ws
            else (List.range ws.length).map fun j =>
              pickOf (Config.freeWord s.free (2 ^ 26 + r * 64 + j)) (ws.getD j 0 :: olds.map fun o => o.getD j 0)
          .ok (rows.set r ws)) (.ok (List.replicate 96 []))

/-- The batch of an operation changed. -/
def Troupe.modBatch (t : Troupe) (b : Option Nat) (f : Batch → Batch) : Troupe :=
  match b with
  | none => { t with openBatch := f t.openBatch }
  | some b => { t with batches := modAt t.batches b f }

/-- An operation leaves its quarter: with its accumulators' new contents, or with an error that starts the error phase. -/
def State.finishOp (s : State) (pipe : Nat) (o : MatOp) (res : Except (Byte × DWord) (List (Nat × Lanes))) : State :=
  let s := { s.modPipe pipe fun q => { q with ops := q.ops.filter fun x => x.id != o.id } with free := s.free + 1 }
  let s := s.modWg o.wg fun w => { w with used := w.used + Config.energyPerMatrixOp }
  match s.troupe? o.wg o.trix with
  | none => s
  | some t =>
    let failed := match o.batch with | none => t.openBatch.err.isSome | some b => (t.batch b).err.isSome
    let t := match res with
      | .ok ws => if failed then t else t.setVs o.lanes ws
      | .error e => if failed then t else t.modBatch o.batch fun b => { b with err := some (e.1, o.index), taddr := e.2 }
    let t := t.modBatch o.batch fun b => { b with left := b.left - 1 }
    let s := s.setTroupe t
    match o.batch with
    | some b => s.settleBatch t b
    | none => s

/-- An accumulator as an operation reads it: where an earlier write has no `mrdy` after it, as it stands or as it stood before (R436). -/
def State.accOld (s : State) (t : Troupe) (o : MatOp) (n : Nat) : Lanes :=
  let olds := (o.was.filter fun u => u.1 == n).map Prod.snd
  if olds = [] then t.vval n
  else lanesOf fun l => pickOf (Config.freeWord s.free (2 ^ 30 + n * 128 + l)) (lane (t.vval n) l :: olds.map (lane · l))

/-- The accumulator columns of an operation, from `cell` of the row, the column and the old value. -/
def State.accCols (s : State) (t : Troupe) (o : MatOp) (cell : Nat → Nat → Word → Word) : List (Nat × Lanes) :=
  (List.range 64).map fun c => (o.acc + c, lanesOf fun r =>
    if o.lanes.getLsbD r then cell r c (lane (s.accOld t o (o.acc + c)) r) else 0)

/-- The quarter of a pipe performs the operation at its head. -/
def execMatrixOpPerform (pipe : Nat) (s : State) : Host.Outcome State Fault Refusal :=
  match (s.pipe pipe).ops.head? with
  | none => .next s
  | some o =>
    match s.troupe? o.wg o.trix with
    | none => .next (s.finishOp pipe o (.ok []))
    | some t =>
      match o.kind with
      | .mclr => .next (s.finishOp pipe o (.ok (s.accCols t o fun _ _ _ => 0)))
      | .mbscale band =>
        .next (s.finishOp pipe o (.ok (s.accCols t o fun r _ c => f32word (fp32.round .rne ((f32of c).mul (bandOf band r))))))
      | .mma fmt sp slot tile band a pad issuer unsure unsurePad =>
        match s.tileOf o fmt sp slot tile issuer with
        | .wait s => .next s
        | .bad s e x => .next (s.finishOp pipe o (.error (e, x)))
        | .tile s img =>
          match s.aRows t o fmt a pad unsure unsurePad with
          | .error e => .next (s.finishOp pipe o (.error e))
          | .ok rows =>
            .next (s.finishOp pipe o (.ok (s.accCols t o fun r c old =>
              mmaCell (mKs fmt sp) (effA (rows.getD r []) fmt sp band r) (fun k => effB img fmt sp k c) old)))

end Sys2Proof.Machine
end

