-- ==== Sys2Proof/Machine/Graph.lean ====
section
/-! DEFINITION. The queue engines: segments, slots and records of a graph instance (R107 to R121). -/

namespace Sys2Proof.Machine

/-- The resident slots of a pipe (R85). -/
def slotsPerPipe : Nat := 12

/-- The dies of a level's presented device. -/
def State.levelDies (s : State) (l : Level) : List Nat := (s.ctx? l.ctx).elim [] fun c => c.devDies l.dev

/-- The number of a core within a device, lower-numbered dies first (R107). -/
def devCore (dies : List Nat) (die core : Nat) : Nat := 8 * (dies.findIdx (· == die)) + core

/-- The die and core of a core number within a device. -/
def devDie (dies : List Nat) (c : Nat) : Nat := dies.getD (c / 8) 0

def State.graphDies (s : State) (g : Graph) : List Nat := (s.level? g.lvl).elim [] s.levelDies

def Graph.node? (g : Graph) (i : Nat) : Option GNode := g.nodes[i]?
def Graph.seg? (g : Graph) (node core : Nat) : Option Seg := g.segs.find? fun x => x.node == node && x.core == core
def Graph.modSeg (g : Graph) (node core : Nat) (f : Seg → Seg) : Graph :=
  { g with segs := modWhere g.segs (fun x => x.node == node && x.core == core) f }

/-- Slots per reserve block, and a node's group size (R105, R109). -/
def blockSlots (n : GNode) : Nat := 4096 / max 1 n.k.recsize
def GNode.group (n : GNode) : Nat := 96 * n.k.troupes

/-- OFF_i and S of R107, for a device of `cores` cores. -/
def Graph.ringOfs (g : Graph) (cores i : Nat) : Nat :=
  ((g.nodes.take i).map fun n => cores * n.segrec * n.k.recsize).foldl (· + ·) 0
def Graph.segArea (g : Graph) (cores : Nat) : Nat := cdiv (g.ringOfs cores g.nodes.length) 4096 * 4096

/-- The address of a numbered slot (R107, R109). -/
def Graph.slotVa (g : Graph) (cores node core slot : Nat) : DWord :=
  match g.node? node with
  | none => g.vat
  | some n =>
    if slot < n.segrec then
      g.vat + BitVec.ofNat 64 (g.ringOfs cores node + core * n.segrec * n.k.recsize + slot * n.k.recsize)
    else
      let k := slot - n.segrec
      g.vat + BitVec.ofNat 64 (g.segArea cores + 4096 * (k / max 1 (blockSlots n)) + k % max 1 (blockSlots n) * n.k.recsize)

def Seg.used (x : Seg) (slot : Nat) : Bool := x.taken.contains slot || x.recs.any (·.slot == slot)

/-- The number of a reserve block's first slot (R109). -/
def firstSlot (n : GNode) (b : Nat) : Nat := n.segrec + blockSlots n * b

/-- The first free slot below a bound of the blocks that a segment holds. -/
def Seg.blockSlot (x : Seg) (n : GNode) (bound : Nat) : Option Nat :=
  x.blocks.findSome? fun b => ((List.range (blockSlots n)).map fun k => firstSlot n b + k).find? fun k => !x.used k && decide (k < bound)

/-- A free reserve block whose slots start below a bound. -/
def Graph.freshBlock (g : Graph) (n : GNode) (bound : Nat) : Option Nat := g.freeBlocks.find? fun b => decide (firstSlot n b < bound)

/-- A slot taken by R109: the ring from `nextRing` on, then the segment's blocks, then a block of the reserve. The slot joins
`taken`; a slot that would not be below `bound` is not taken. -/
def Graph.takeSlot (g : Graph) (node core bound : Nat) : Option (Nat × Graph) :=
  match g.node? node, g.seg? node core with
  | some n, some x =>
    match ((List.range n.segrec).map fun i => (x.nextRing + i) % n.segrec).find? fun k => !x.used k && decide (k < bound) with
    | some k => some (k, g.modSeg node core fun x => { x with taken := x.taken ++ [k], nextRing := (k + 1) % n.segrec })
    | none =>
      match x.blockSlot n bound with
      | some k => some (k, g.modSeg node core fun x => { x with taken := x.taken ++ [k] })
      | none =>
        match g.freshBlock n bound with
        | none => none
        | some b =>
          let k := firstSlot n b
          some (k, { g with freeBlocks := g.freeBlocks.erase b }.modSeg node core fun x =>
            { x with taken := x.taken ++ [k], blocks := x.blocks ++ [b] })
  | _, _ => none

/-- A bound above every slot number. -/
def anySlot : Nat := 2 ^ 40

/-- A slot freed: a reserve block all of whose slots are free returns to the vat (R109). -/
def Graph.freeSlot (g : Graph) (node core slot : Nat) : Graph :=
  match g.node? node with
  | none => g
  | some n =>
    let g := g.modSeg node core fun x => { x with
      taken := x.taken.filter (· != slot), deps := x.deps.filter (· != slot), recs := x.recs.filter fun r => r.slot != slot }
    match g.seg? node core with
    | none => g
    | some x =>
      let idle := x.blocks.filter fun b => !((List.range (blockSlots n)).any fun k => x.used (firstSlot n b + k))
      { g.modSeg node core fun x => { x with blocks := x.blocks.filter fun b => !idle.contains b } with
        freeBlocks := g.freeBlocks ++ idle }

/-! ## The operations of one cycle (R111) -/

/-- An operation's place among those that reach a queue engine in one cycle: `tdeq`, then `remit` and `tenq` by the package-wide slot of
their troupe, then the launcher's take, then a steal's reply. -/
inductive QOp where
  | deq | emit (t : Troupe) | take | steal

def QOp.key : QOp → Nat
  | .deq => 0
  | .emit t => 1 + slotsPerPipe * t.pipe + t.slot
  | .take => 1 + slotsPerPipe * 1024
  | .steal => 2 + slotsPerPipe * 1024

/-- Whether an operation must leave this cycle to the one that the engine has applied: it would stand before it. -/
def Seg.yieldsTo (x : Seg) (now : Nat) (o : QOp) : Bool := x.last.1 == now && decide (o.key < x.last.2)

def State.engineBusy (s : State) (g : Graph) (node core : Nat) (o : QOp) : Bool :=
  (g.seg? node core).any fun x => x.yieldsTo (s.clockOf (devDie (s.graphDies g) core)) o

/-- The engine of a segment has applied an operation. -/
def State.engineRan (s : State) (lvl node core : Nat) (o : QOp) : State :=
  match s.graph? lvl with
  | none => s
  | some g =>
    let now := s.clockOf (devDie (s.graphDies g) core)
    s.modGraph lvl fun g => g.modSeg node core fun x => { x with last := (now, o.key) }

/-- A record that takes its place in the sequence; its slot leaves `taken`. -/
def Graph.place (g : Graph) (node core : Nat) (head : Bool) (r : GRec) : Graph :=
  g.modSeg node core fun x => { x with
    taken := x.taken.filter (· != r.slot)
    recs := if head then r :: x.recs else x.recs ++ [r] }

/-! ## The graph of a troupe (R110) -/

/-- The graph instance that a troupe's workgroup belongs to. -/
def State.graphOf (s : State) (t : Troupe) : Option Graph :=
  ((s.wgOf t).bind (·.node)).bind fun n => s.graph? n.1

/-- The segment number of a troupe's core. -/
def State.coreOf (s : State) (g : Graph) (t : Troupe) : Nat := devCore (s.graphDies g) t.die t.core

/-- Whether the instance has a cancel applied. -/
def State.graphCancelled (s : State) (g : Graph) : Bool :=
  (s.cancelOf g.lvl).isSome || (s.level? g.lvl).any fun l => l.status != 0

/-- The depth d of a lane (R439). -/
def Troupe.laneDepth (t : Troupe) (l : Nat) : Nat := ((t.lrecs.getD l none).map LaneRec.depth).getD 0
def Troupe.hasRec (t : Troupe) (l : Nat) : Bool := (t.lrecs.getD l none).isSome

/-- The depth of a record that a lane emits. -/
def Troupe.newDepth (t : Troupe) (l : Nat) : Nat := t.laneDepth l + 1

/-- CANCELLED, or NOGRAPH with the node's number, which ends an emission as a whole (R110, R440). `task` asks for a task node. -/
def State.wholeReason (s : State) (t : Troupe) (node : Nat) (task : Bool) : Option Nat :=
  match s.graphOf t with
  | none => some 4
  | some g =>
    if s.graphCancelled g then some 3
    else
      match g.node? node with
      | none => some 4
      | some n => if task && n.k.hold != 0 then some 4 else none

/-- DEPTH (R110). -/
def depthFails (g : Graph) (n : GNode) (d : Nat) : Bool := decide (g.depthMax < d) || decide (n.k.ndepth < d)

/-! ## Writing records -/

/-- What the emission of one instruction gives, lane by lane: codes, with the depth of a success. -/
structure Emission where
  s : State
  g : Graph
  full : Bool
  codes : List (Nat × Nat × Nat)
  slots : List Nat

/-- One lane's emission (R110): the lane, its depth and its record. Nothing waits any more when it is applied (`vatParks`). -/
def emitLane (c : Ctx) (die wg trix cores node core : Nat) (n : GNode) (head : Bool) (e : Emission) (l d : Nat)
    (rec : List Byte) : Emission :=
  if depthFails e.g n d then { e with codes := e.codes ++ [(l, 2, 0)] }
  else if e.full then { e with codes := e.codes ++ [(l, 1, 0)] }
  else
    match e.g.takeSlot node core anySlot with
    | none => { e with full := true, codes := e.codes ++ [(l, 1, 0)] }
    | some (k, g) =>
      let va := g.slotVa cores node core k
      match e.s.writeVa c die va rec with
      | .done s =>
        let r : GRec := ⟨k, d, false, (s.die die).cycle⟩
        { e with s := s, g := g.place node core head r, codes := e.codes ++ [(l, 0, d)], slots := e.slots ++ [k] }
      | .fault code s =>
        { e with s := s.report [.lane wg trix l code va], g := g.freeSlot node core k, codes := e.codes ++ [(l, 5, 0)] }
      | .park s =>
        { e with s := s.report [.lane wg trix l xlate va], g := g.freeSlot node core k, codes := e.codes ++ [(l, 5, 0)] }

/-- The slots that an emission of n records would write, in order. -/
def slotsAhead (g : Graph) (node core : Nat) : Nat → List Nat
  | 0 => []
  | n + 1 =>
    match g.takeSlot node core anySlot with
    | none => []
    | some (k, g) => k :: slotsAhead g node core n

/-- The slots of the vat, by address, whose writes must wait before an emission is applied. -/
def State.vatParks (s : State) (c : Ctx) (die : Nat) (g : Graph) (cores node core n len : Nat) : List DWord :=
  ((slotsAhead g node core n).map (g.slotVa cores node core)).filter fun va => s.writeWaits c die va len

/-- The records of one instruction are counted at the leader, and takeable once it has acknowledged (R112, R118). -/
def State.countRecords (s : State) (lvl node core : Nat) (slots : List Nat) : State :=
  if slots = [] then s
  else
    let s1 := s.modGraph lvl fun g => { g with counter := g.counter + slots.length }
    { s1 with counts := s1.counts ++ [⟨s1.fresh, lvl, node, core, slots⟩], fresh := s1.fresh + 1 }

/-- The status word of R441. -/
def statusWord (code d : Nat) : Word := BitVec.ofNat 32 (if code = 0 then d * 256 else code)

/-- The status and the predicate of an emission land. -/
def Troupe.landEmit (t : Troupe) (vd token pred : Nat) (codes : List (Nat × Nat × Nat)) : Troupe :=
  let t := codes.foldl (fun t c => t.landV vd token (1#96 <<< c.1) (lanesOf fun _ => statusWord c.2.1 c.2.2)) t
  codes.foldl (fun t c => t.setP pred ((t.pred pred &&& ~~~(1#96 <<< c.1)) ||| (if c.2.1 = 0 then 1#96 <<< c.1 else 0))) t

/-- The queue engine applies an emission, and its reply lands. None while a page of the vat is to be resolved: the state then says
which. -/
def State.applyEmit (s : State) (t : Troupe) (head : Bool) (node pred vd token : Nat) (lanes : Mask) (recs : List (List Byte)) :
    Except State State :=
  let ls := lanesIn lanes
  match s.wholeReason t node head, s.graphOf t, s.ctxOf t with
  | none, some g, some c =>
    match g.node? node with
    | none => .ok s
    | some n =>
      let dies := s.graphDies g
      let cores := 8 * dies.length
      let core := s.coreOf g t
      let parks := s.vatParks c t.die g cores node core ls.length n.k.recsize
      if parks ≠ [] then .error (s.parkWrites c t.die parks n.k.recsize)
      else
        let e := (ls.zip recs).foldl (fun e x => emitLane c t.die t.wg t.trix cores node core n head e x.1 (t.newDepth x.1) x.2)
          ⟨s, g, false, [], []⟩
        let s := e.s.modGraph g.lvl fun _ => e.g
        let s := s.countRecords g.lvl node core e.slots
        .ok (s.modTroupe t.wg t.trix fun t => t.landEmit vd token pred e.codes)
  | some code, _, _ => .ok (s.modTroupe t.wg t.trix fun t => t.landEmit vd token pred (ls.map fun l => (l, code, 0)))
  | _, _, _ => .ok s

/-! ## `tdeq` and `gexit` (R119, R443, R444) -/

/-- The slots of an earlier `tdeq` on the node are freed (R119). -/
def State.freeDeqs (s : State) (t : Troupe) (lvl node : Nat) : State :=
  let mine := t.deqs.filter fun d => d.1 == node
  let s := s.modGraph lvl fun g => mine.foldl (fun g d => g.freeSlot d.1 d.2.1 d.2.2) g
  s.modTroupe t.wg t.trix fun t => { t with
    deqs := t.deqs.filter fun d => d.1 != node
    lrecs := t.lrecs.map fun r => r.map fun x => if x.fromDeq && x.node == node then { x with slot := none } else x }

/-- One lane's record: the first takeable one from the head, or none. -/
def State.deqLane (s : State) (t : Troupe) (lvl node core cores : Nat) (names : List (Nat × Nat)) (pred l : Nat) : State :=
  let land (s : State) (ws : List Word) (got : Bool) : State :=
    s.modTroupe t.wg t.trix fun t =>
      (t.landLane (s.now t) names l ws).setP pred ((t.pred pred &&& ~~~(1#96 <<< l)) ||| (if got then 1#96 <<< l else 0))
  match s.graph? lvl with
  | none => land s [0, 0, 0] false
  | some g =>
    match ((g.seg? node core).map Seg.recs).bind fun rs => rs.find? GRec.takeable with
    | none => land s [0, 0, 0] false
    | some r =>
      let va := g.slotVa cores node core r.slot
      let s := s.modGraph lvl fun g => { g.modSeg node core fun x =>
        { x with recs := x.recs.filter fun q => q.slot != r.slot, taken := x.taken ++ [r.slot] } with counter := g.counter - 1 }
      let s := s.modTroupe t.wg t.trix fun t => { t with
        deqs := t.deqs ++ [(node, core, r.slot)]
        lrecs := t.lrecs.set l (some ⟨lvl, node, core, some r.slot, r.depth, true⟩) }
      land s [loW va, hiW va, BitVec.ofNat 32 r.depth] true

def State.applyDeq (s : State) (t : Troupe) (node pred : Nat) (names : List (Nat × Nat)) (lanes : Mask) : State :=
  let none_ (s : State) : State :=
    (lanesIn lanes).foldl (fun s l => s.modTroupe t.wg t.trix fun t =>
      (t.landLane (s.now t) names l [0, 0, 0]).setP pred (t.pred pred &&& ~~~(1#96 <<< l))) s
  match s.graphOf t with
  | none => none_ s
  | some g =>
    match g.node? node with
    | none => none_ s
    | some n =>
      if n.k.hold ≠ 0 then none_ s
      else
        let dies := s.graphDies g
        let core := s.coreOf g t
        let s := s.freeDeqs t g.lvl node
        ((lanesIn lanes).foldl (fun s l => s.deqLane t g.lvl node core (8 * dies.length) names pred l) s).acquire t.die t.core .dev

/-- The slots of the lanes' records are freed; the depth stays. -/
def State.applyGexit (s : State) (t : Troupe) (lanes : Mask) : State :=
  (lanesIn lanes).foldl (fun s l =>
    match (s.troupe? t.wg t.trix).bind fun t => t.lrecs.getD l none with
    | some ⟨lvl, node, core, some slot, depth, deq⟩ =>
      let s := s.modGraph lvl fun g => g.freeSlot node core slot
      let s := s.modTroupe t.wg t.trix fun t => { t with
        lrecs := t.lrecs.set l (some ⟨lvl, node, core, none, depth, deq⟩)
        deqs := t.deqs.filter (· != (node, core, slot)) }
      s.modWg t.wg fun w => { w with recs := w.recs.filter (· != (node, core, slot)) }
    | _ => s) s

/-! ## Dependency counters (R121, R122, R445) -/

/-- The 32 bytes of an armed object. -/
def depObject (count node depth : Nat) (graph : Word) (slot : Nat) (old : List Byte) : List Byte :=
  natLe 4 count ++ [1, BitVec.ofNat 8 node, BitVec.ofNat 8 depth] ++ (old.drop 7).take 1 ++ natLe 4 graph.toNat ++ natLe 4 slot
    ++ old.drop 16

/-- What the records of n `depinit` lanes wait for in the vat is asked for; none where nothing is to be waited for. -/
def State.depPark (s : State) (t : Troupe) (node n : Nat) : Option State :=
  match s.wholeReason t node true, s.graphOf t, s.ctxOf t with
  | none, some g, some c =>
    match g.node? node with
    | none => none
    | some x =>
      let parks := s.vatParks c t.die g (8 * (s.graphDies g).length) node (s.coreOf g t) n x.k.recsize
      if parks = [] then none else some (s.parkWrites c t.die parks x.k.recsize)
  | _, _, _ => none

/-- A reserved record stands against its object at a location. -/
def Graph.arm (g : Graph) (o : DepObj) : Graph :=
  { (g.modSeg o.node o.core fun x => { x with deps := x.deps ++ [o.slot] }) with
    objs := g.objs.filter (fun x => x.loc != o.loc) ++ [o], deadObjs := g.deadObjs.filter (· != o.loc) }

/-- The record of an object leaves its reservation for the segment's head (R121). -/
def Graph.disarm (g : Graph) (node core : Nat) (r : GRec) : Graph :=
  let of (x : DepObj) : Bool := x.node == node && x.core == core && x.slot == r.slot
  ({ (g.modSeg node core fun x => { x with deps := x.deps.filter (· != r.slot) }) with objs := g.objs.filter fun x => !of x }).place
    node core true r

/-- `depinit` of one lane on the object `obj` at a location. -/
def State.depInit (s : State) (t : Troupe) (loc l node count depth : Nat) (rec obj : List Byte) : State × Nat × List Byte :=
  match s.wholeReason t node true, s.graphOf t, s.ctxOf t with
  | none, some g, some c =>
    match g.node? node with
    | none => (s, 4, obj)
    | some n =>
      let dies := s.graphDies g
      let cores := 8 * dies.length
      let core := s.coreOf g t
      if byteAt obj 4 = 1 then (s, 5, obj)
      else if depthFails g n depth then (s, 2, obj)
      else
        match g.takeSlot node core (2 ^ 24) with
        | none => (s, 1, obj)
        | some (k, g') =>
          let va := g'.slotVa cores node core k
          match s.writeVa c t.die va rec with
          | .park s => (s.report [.lane t.wg t.trix l xlate va], 6, obj)
          | .fault code s => (s.report [.lane t.wg t.trix l code va], 6, obj)
          | .done s =>
            let s := (s.modGraph g.lvl fun _ => g'.arm ⟨loc, node, core, k⟩).countRecords g.lvl node core [k]
            let slot := (devDie dies core) * 2 ^ 27 + core % 8 * 2 ^ 24 + k
            (s, 0, depObject (max count 1) node depth (s.ident t 75) slot obj)
  | some code, _, _ => (s, code, obj)
  | _, _, _ => (s, 4, obj)

/-- `depdec` on the object at a location. One whose record went with a die that has reset reports "not armed" (R124). -/
def State.depDec (s : State) (t : Troupe) (loc : Nat) (obj : List Byte) : State × Nat × List Byte :=
  match s.graphOf t with
  | none => (s, 2, obj)
  | some g =>
    let node := byteAt obj 5
    let slot := leAt obj 12 4 % 2 ^ 24
    let core := devCore (s.graphDies g) (leAt obj 12 4 / 2 ^ 27) (leAt obj 12 4 / 2 ^ 24 % 8)
    let kept := ((g.seg? node core).map fun x => x.deps.contains slot).getD false
    if byteAt obj 4 ≠ 1 || leAt obj 8 4 ≠ (s.ident t 75).toNat || g.deadObjs.contains loc then (s, 2, obj)
    else if !kept && !s.graphCancelled g then (s, 2, obj)
    else
      let count := leAt obj 0 4
      if count > 1 then (s, 0, putAt obj 0 (natLe 4 (count - 1)))
      else
        let obj := putAt (putAt obj 0 (natLe 4 0)) 4 [2]
        if !kept then (s, 1, obj)
        else
          let acked := !(s.counts.any fun m => m.lvl == g.lvl && m.node == node && m.core == core && m.slots.contains slot)
          (s.modGraph g.lvl fun g => g.disarm node core ⟨slot, byteAt obj 6, acked, (s.die t.die).cycle⟩, 1, obj)

end Sys2Proof.Machine
end

