-- ==== Sys2Proof/Machine/GraphTask.lean ====
section
/-! DEFINITION. Graph and task instructions (R438 to R448). -/

namespace Sys2Proof.Machine

/-! ## `remit`, `tenq`, `tdeq` (R440 to R443) -/

def ewNode (w : Word) : Nat := w.toNat % 64
def ewPred (w : Word) : Nat := w.toNat / 64 % 8
def ewTrap (w : Word) : Bool := w.getLsbD 9

/-- The names of a record window (R438): none when the instruction fails as a whole. -/
def State.recWidth (s : State) (t : Troupe) (node : Nat) (task : Bool) : Nat :=
  if (s.wholeReason t node task).isSome then 0
  else (((s.graphOf t).bind fun g => g.node? node).map fun n => n.k.recsize / 4).getD 0

/-- GRAPHDEPTH of the trapping form (R442). -/
def State.depthTrap (s : State) (t : Troupe) (node : Nat) (task : Bool) (eff : Mask) : Option TrapInfo :=
  match s.wholeReason t node task, (s.graphOf t).bind fun g => (g.node? node).map fun n => (g, n) with
  | none, some (g, n) =>
    let m := maskOf fun l => eff.getLsbD l && depthFails g n (t.newDepth l)
    if m = 0 then none else some ⟨0x21, 0, m⟩
  | _, _ => none

/-- An emission: the records leave at issue, the queue engine applies them once the release is done. -/
def emitOp (head : Bool) (f : OForm) (s : State) : Host.Outcome State Fault Refusal :=
  let word (s : State) (t : Troupe) : Word := s.rdWord t 2 f.b 0
  s.operateS f.c (vecBeats f.c)
    (fun s t => ⟨f.d, f.a, f.b, ⟨[accVw], [.vr (s.recWidth t (ewNode (word s t)) head) false], accSI⟩⟩) okMod
    (fun s t =>
      let w := word s t
      if s.effOf t f.c = 0 then none
      else if 2 ^ 10 ≤ w.toNat then some (trapOf illopnd)
      else if ewTrap w then s.depthTrap t (ewNode w) head (s.effOf t f.c)
      else none)
    (fun s t => s.memHold t none true .dev) fun s t s' t' =>
      let eff := s.effOf t f.c
      if eff = 0 then s'.commit t' f.c
      else
        let w := word s t
        let n := s.recWidth t (ewNode w) head
        let regs := (List.range n).map fun j => s.rdLanes t 1 f.a j
        let recs := (lanesIn eff).map fun l => regs.flatMap fun r => natLe 4 (lane r l).toNat
        let vd := numOf f.d
        let ps : List Hazard := if ewPred w < 7 then [⟨.p (ewPred w), eff, .pend s'.fresh⟩] else []
        let vs : List Hazard := if vd = 255 then [] else [⟨.v vd, eff, .pend s'.fresh⟩]
        let (s', t') := s'.closePhase { t'.wrote [vd] with hazards := t'.hazards ++ vs ++ ps }
        let (s', t') := s'.addPend t' f.c (.emit head (ewNode w) (ewPred w) vd (t'.token vd) eff recs t'.sph) false
        s'.setTroupe t'

def execRemit (f : OForm) (s : State) : Host.Outcome State Fault Refusal := emitOp false f s
def execTenq (f : OForm) (s : State) : Host.Outcome State Fault Refusal := emitOp true f s

def execTdeq (f : OForm) (s : State) : Host.Outcome State Fault Refusal :=
  let word (s : State) (t : Troupe) : Word := s.rdWord t 2 f.b 0
  s.operate f.c (vecBeats f.c) (opndsO ⟨[.vw 3 false], [.unused], accSI⟩ f) okMod
    (fun s t => if s.effOf t f.c != 0 && decide (2 ^ 9 ≤ (word s t).toNat) then some (trapOf illopnd) else none)
    (fun s t => s.memHeld t) fun s t s' t' =>
      let eff := s.effOf t f.c
      if eff = 0 then s'.commit t' f.c
      else
        let w := word s t
        let names := window (numOf f.d) 3
        let ps : List Hazard := if ewPred w < 7 then [⟨.p (ewPred w), eff, .pend s'.fresh⟩] else []
        let t' := { t'.wrote names with
          hazards := t'.hazards ++ (names.map fun n => ⟨.v n, eff, .pend s'.fresh⟩) ++ ps }
        let (s', t') := s'.addPend t' f.c (.deq (ewNode w) (ewPred w) (names.map fun n => (n, t'.token n)) eff) false
        s'.setTroupe t'

def execGexit (f : OForm) (s : State) : Host.Outcome State Fault Refusal :=
  s.operate f.c (vecBeats f.c) (opndsO shNone f) okMod noLate (fun s t => s.memHeld t) fun s t s' t' =>
    let eff := s.effOf t f.c
    if eff = 0 then s'.commit t' f.c
    else
      let (s', t') := s'.addPend t' f.c (.gexit eff) false
      s'.setTroupe t'

/-! ## `depinit`, `depdec`, `chunk` (R445, R446) -/

/-- The per-lane atomics of the queues: `w` names of D are read as operands behind the first. -/
def objectLanes (d : State → Troupe → List Acc) (rule : AttrRule) (align : Nat) (back : Nat) (wide : Bool) (rel : Bool)
    (op : State → Troupe → Nat → MemOp) (val : State → Troupe → Nat → List Byte) (f : MForm) (s : State) :
    Host.Outcome State Fault Refusal :=
  let k := f.attr.ac.toNat
  let sc := if rel then .dev else scopeOf f.attr.scope
  s.operateS f.c (vecBeats f.c) (fun s t => ⟨f.d, f.a, .imm 0, ⟨d s t, accAddr, []⟩⟩) (fun _ => f.attr.fits rule)
    (fun s t => misaligned (s.eas t f.a 0) align (s.effOf t f.c)) (fun s t => s.memHold t (some k) rel sc) fun s t s' t' =>
      let eff := s.effOf t f.c
      let (s', t') := s'.clearLater t' f.c
      if eff = 0 then s'.setTroupe t'
      else
        let es := s.eas t f.a 0
        let names := window (numOf f.d) back
        let t' := t'.awaiting s'.fresh eff names
        let toks := names.map fun n => (n, t'.token n)
        let ls : List LaneReq := (lanesIn eff).map fun l => ⟨l, op s t l, eaOf es l, 32, val s t l, noData⟩
        s'.sendLanes t' none ⟨.wt, sc, if rel then .rel else .plain⟩ ⟨some k, if wide then .vp .w4 toks else .vec toks, 4, false⟩ ls

/-- The node number that `depinit` names. -/
def depNode (f : MForm) : Nat := f.attr.ofs.toNat

def execDepinit (f : MForm) (s : State) : Host.Outcome State Fault Refusal :=
  objectLanes
    (fun s t => if (s.wholeReason t (depNode f) false).isSome then [accVw]
      else [.vx (1 + (((s.graphOf t).bind fun g => g.node? (depNode f)).map fun n => n.k.recsize / 4).getD 0) 1])
    ⟨[4], [0], true, false, 0, anyOfs⟩ 32 1 false true
    (fun s t l =>
      let n := if (s.wholeReason t (depNode f) false).isSome then 0
        else (((s.graphOf t).bind fun g => g.node? (depNode f)).map fun n => n.k.recsize / 4).getD 0
      .depinit (depNode f) ((List.range n).flatMap fun j => natLe 4 (lane (s.rdLanes t 0 f.d (1 + j)) l).toNat) (t.newDepth l))
    (fun s t l => if (s.wholeReason t (depNode f) false).isSome then noData else natLe 4 (lane (s.rdLanes t 0 f.d 0) l).toNat) f s

def execDepdec (f : MForm) (s : State) : Host.Outcome State Fault Refusal :=
  objectLanes (fun _ _ => [accVw]) ⟨[4], [0], true, false, 0, [0]⟩ 32 1 false true (fun _ _ _ => .depdec) (fun _ _ _ => noData) f s

def execChunk (f : MForm) (s : State) : Host.Outcome State Fault Refusal :=
  objectLanes (fun _ _ => [.vw 4 false]) ⟨[5], [0], true, false, 5, [0]⟩ 32 4 true false (fun _ _ _ => .chunk)
    (fun _ _ _ => noData) f s

/-! ## Levels (R447, R448) -/

/-- The level that a selector names for a troupe. -/
def State.selLevel (s : State) (t : Troupe) (sel : Nat) : Option Level :=
  (s.wgOf t).bind fun w => s.levelUp (match sel % 4 with
    | 0 => [.launch, .nodeLaunch]
    | 1 => [.graph]
    | 2 => [.step]
    | _ => [.job]) 6 (some w.lvl)

def execLvlid (f : OForm) (s : State) : Host.Outcome State Fault Refusal :=
  s.operate f.c oneBeat (opndsO ⟨[.sw 1 60], accSI, [.unused]⟩ f) okMod noLate (fun s t => s.memHeld t) fun s t s' t' =>
    if s.takesOf t f.c then
      let t' := { t' with hazards := t'.hazards ++ sHazards [numOf f.d] (.pend s'.fresh) }
      let (s', t') := s'.addPend t' f.c (.lvlid ((s.rdWord t 1 f.a 0).toNat % 4) (numOf f.d)) false
      s'.setTroupe t'
    else s'.commit t' f.c

/-- The cancel joins those that the leader applies in arrival order (R101). -/
def execLvlcancel (f : OForm) (s : State) : Host.Outcome State Fault Refusal :=
  s.operate f.c oneBeat (opndsO ⟨[.unused], accSI, [.unused]⟩ f) okMod noLate (fun s t => s.memHeld t) fun s t s' t' =>
    if s.takesOf t f.c then
      let sel := (s.rdWord t 1 f.a 0).toNat % 4
      let k := s'.fresh
      let s' := match s.selLevel t sel, s.wgOf t with
        | some l, some w => s'.modPart w.part fun p => { p with cancels := p.cancels ++ [(k, l.id)] }
        | _, _ => s'
      let (s', t') := s'.addPend t' f.c (.lvlcancel sel) false
      s'.setTroupe t'
    else s'.commit t' f.c

end Sys2Proof.Machine
end

