-- ==== Sys2Proof/Machine/System.lean ====
section
/-! DEFINITION. System instructions (R449 to R454, R199): traps, returns, special registers, allotments, `halt`, `shflush`. -/

namespace Sys2Proof.Machine

/-! ## Traps and returns (R449, R450) -/

def execTrap (f : OForm) (s : State) : Host.Outcome State Fault Refusal :=
  s.run f.c fun s t =>
    match s.check t (opndsO ⟨[.unused], [.unused], []⟩ f t) (isImm f.b) with
    | some i => .trap i t.pc
    | none =>
      if s.takesOf t f.c then .trap ⟨swtrapC, (modOf f).signExtend 64, 0⟩ (t.pc + 12)
      else .go ({ s with free := s.free + 1 }.commit (t.issued f.c (s.now t) 1) f.c)

def execBkpt (f : OForm) (s : State) : Host.Outcome State Fault Refusal :=
  s.operate f.c oneBeat (opndsO shNone f) okMod
    (fun s t => if s.takesOf t f.c then some (trapOf bkptC) else none) noHold fun _ _ s' t' => s'.commit t' f.c

def execTret (f : OForm) (s : State) : Host.Outcome State Fault Refusal :=
  s.operate f.c oneBeat (opndsO shNone f) okMod
    (fun s t => if s.takesOf t f.c && !t.intrap then some (trapOf illopnd) else none) noHold fun s t s' t' =>
      if s.takesOf t f.c then s'.commit (t'.leave.jump t'.tpc) f.c else s'.commit t' f.c

/-- `halt` stops the workgroup for the debug core when halting is on (R453). -/
def execHalt (f : OForm) (s : State) : Host.Outcome State Fault Refusal :=
  s.operate f.c oneBeat (opndsO shNone f) okMod
    (fun s t => if s.takesOf t f.c && !((s.ctxOf t).elim false Ctx.halten) then some (trapOf bkptC) else none) noHold
    fun s t s' t' =>
      let s' := s'.commit t' f.c
      if s.takesOf t f.c then
        s'.modWg t.wg fun w => if w.status = .running ∨ w.status = .stopping then { w with status := .stopping, halt := true } else w
      else s'

/-! ## Special registers (R451) -/

/-- The numbers of the table. -/
def specialOk (n : Nat) : Bool :=
  n ≤ 6 || (8 ≤ n && n ≤ 0xD) || (0x10 ≤ n && n ≤ 0x15) || (0x20 ≤ n && n ≤ 0x3F)

/-- Fields of 16 bits, high first. -/
def four16 (a b c d : BitVec 16) : DWord := a ++ (b ++ (c ++ d))

/-- The value of register n for a troupe. -/
def State.special (s : State) (t : Troupe) (n : Nat) : DWord :=
  let c := s.ctxOf t
  let ctx (f : Ctx → DWord) : DWord := c.elim 0 f
  let d := s.die t.die
  let r := s.routers.getD t.die (Router.reset t.die)
  match n with
  | 0x00 => ctx Ctx.place
  | 0x01 => ctx Ctx.seed
  | 0x02 => ctx Ctx.ptb
  | 0x03 => ctx Ctx.shard
  | 0x04 => ctx Ctx.trap
  | 0x05 => ctx Ctx.save
  | 0x06 => ctx Ctx.comp
  | 0x08 => r.stale ++ (0#16 ++ r.life)
  | 0x09 => ((s.wgOf t).bind fun w => s.part w.part).elim 0 fun p => (BitVec.ofInt 48 p.bal).setWidth 64
  | 0x0A => BitVec.ofNat 64 (d.damaged.length * 2 ^ 48 + d.uncorr.toNat * 2 ^ 32 + d.corr.toNat)
  | 0x0B => four16 d.roundLost d.early d.defer d.gfail
  | 0x0C => BitVec.ofNat 64 d.leaseLog2
  | 0x0D => four16 d.lapses d.evict d.merges d.splits
  | 0x10 => t.tstat
  | 0x11 => t.taddr
  | 0x12 => t.tpc
  | 0x13 => (t.tlanes.extractLsb' 0 32).setWidth 64
  | 0x14 => (t.tlanes.extractLsb' 32 32).setWidth 64
  | 0x15 => (t.tlanes.extractLsb' 64 32).setWidth 64
  | n => if n < 0x30 then ctx fun c => c.ncbase.getD (n - 0x20) 0 else ctx fun c => c.nclim.getD (n - 0x30) 0

/-- The register number of `sreg` and `swreg`. -/
def regNo (f : OForm) : Nat := (modOf f).toNat

def execSreg (f : OForm) (s : State) : Host.Outcome State Fault Refusal :=
  s.operate f.c oneBeat (opndsO ⟨[.sw 2 60], [.unused], []⟩ f) (fun _ => isImm f.b && specialOk (regNo f)) noLate noHold
    fun s t s' t' =>
      if s.takesOf t f.c then
        let d := numOf f.d
        let t' := { t' with hazards := t'.hazards ++ sHazards [d, d + 1] (.pend s'.fresh) }
        let (s', t') := s'.addPend t' f.c (.special (s.special t (regNo f)) d) false
        s'.setTroupe t'
      else s'.commit t' f.c

def execSwreg (f : OForm) (s : State) : Host.Outcome State Fault Refusal :=
  s.operate f.c oneBeat (opndsO ⟨[.unused], [accPair], []⟩ f) (fun _ => isImm f.b && specialOk (regNo f))
    (fun s t => if s.takesOf t f.c && !(regNo f == 0x12 && t.intrap) then some (trapOf illopnd) else none) noHold
    fun s t s' t' =>
      if s.takesOf t f.c then
        s'.commit { t' with tpc := alignPc (pairW (s.rdWord t 1 f.a 0) (s.rdWord t 1 f.a 1)) } f.c
      else s'.commit t' f.c

/-! ## Allotments (R452) -/

/-- The largest allotment: `id.allotmax`. -/
def State.allotMax (s : State) (t : Troupe) : Nat := (s.wgOf t).elim 0 Workgroup.allot

def execShrink (f : OForm) (s : State) : Host.Outcome State Fault Refusal :=
  let a (s : State) (t : Troupe) : Nat := (s.rdWord t 1 f.a 0).toNat
  s.operate f.c oneBeat (opndsO ⟨[.unused], accSI, [.unused]⟩ f) okMod
    (fun s t => if s.takesOf t f.c && (a s t == 0 || decide (t.allot < a s t)) then some (trapOf illopnd) else none) noHold
    fun s t s' t' =>
      if s.takesOf t f.c then
        let gone := (t'.regs.map VReg.name).filter fun n => decide (a s t ≤ n)
        let (s', t') := s'.release (t'.touch gone) gone
        s'.commit { t' with allot := a s t } f.c
      else s'.commit t' f.c

def execGrow (f : OForm) (s : State) : Host.Outcome State Fault Refusal :=
  let a (s : State) (t : Troupe) : Nat := (s.rdWord t 1 f.a 0).toNat
  s.operate f.c oneBeat (opndsO ⟨[.unused], accSI, [.unused]⟩ f) okMod
    (fun s t => if s.takesOf t f.c && (decide (a s t < t.allot) || decide (s.allotMax t < a s t)) then some (trapOf illopnd)
      else none) noHold
    fun s t s' t' => if s.takesOf t f.c then s'.commit { t' with allot := a s t } f.c else s'.commit t' f.c

/-! ## The fault log and precision settings (R454) -/

/-- The latency of `faultrd` and `pcfgrd`. -/
def logLat : Nat := 6

def execFaultrd (f : OForm) (s : State) : Host.Outcome State Fault Refusal :=
  s.operate f.c (vecBeats f.c) (opndsO ⟨[.vw 2 false], [.unused], [.unused]⟩ f) okMod noLate noHold fun s t s' t' =>
    let eff := s.effOf t f.c
    let e (l : Nat) : DWord := t.faults.getD l 0
    let faults := (List.range 96).map fun l => if eff.getLsbD l then 0 else e l
    s'.commitV { t' with faults := faults } f.c logLat eff
      [(numOf f.d, lanesOf fun l => loW (e l)), (numOf f.d + 1, lanesOf fun l => hiW (e l))]

def execPcfgrd (f : OForm) (s : State) : Host.Outcome State Fault Refusal :=
  s.operate f.c oneBeat (opndsO ⟨[.sw 1 60], accSI, [.unused]⟩ f) okMod
    (fun s t => if s.takesOf t f.c && decide (95 < (s.rdWord t 1 f.a 0).toNat) then some (trapOf illopnd) else none) noHold
    fun s t s' t' =>
      if s.takesOf t f.c then
        s'.commitS t' f.c logLat [(numOf f.d, (t.cfg (s.rdWord t 1 f.a 0).toNat).setWidth 32)]
      else s'.commit t' f.c

/-! ## `shflush` (R198, R199) -/

/-- The shard engine takes the call up when its turn has come (see `State.flushStep`). sA with bits [31:5] set traps. -/
def execShflush (f : OForm) (s : State) : Host.Outcome State Fault Refusal :=
  s.operate f.c oneBeat (opndsO ⟨[.sw 1 60], [accS], [.unused]⟩ f) okMod
    (fun s t => if s.takesOf t f.c && decide (32 ≤ (s.rdWord t 1 f.a 0).toNat) then some (trapOf illopnd) else none)
    (fun s t => s.memHold t none true .dev) fun s t s' t' =>
      if s.takesOf t f.c then
        let a := (s.rdWord t 1 f.a 0).toNat
        let t' := { t' with hazards := t'.hazards ++ sHazards [numOf f.d] (.pend s'.fresh) }
        let (s', t') := s'.addPend t' f.c (.shflush (numOf f.d) (a % 16) 0 (decide (16 ≤ a)) false 0) false
        s'.setTroupe t'
      else s'.commit t' f.c

end Sys2Proof.Machine
end

