-- ==== Sys2Proof/Machine/Window.lean ====
section
/-! DEFINITION. The register window of a partition: job queue registers (R71 to R73), the management queue's registers and slots
(R79, R80), and accesses of 4 and 8 bytes (R469). A value written to a half stands in its own half's bits. -/

namespace Sys2Proof

/-- Whether a half covers bits [31:0], and bits [63:32]. -/
def Half.hitsLow (h : Half) : Bool := h != .high
def Half.hitsHigh (h : Half) : Bool := h != .low

end Sys2Proof

namespace Sys2Proof.Machine

/-! ## Job queues (R72) -/

def Partition.queue (p : Partition) (q : Nat) : JobQueue := ((p.queues.find? fun x => x.1 == q).map Prod.snd).getD JobQueue.reset
def Partition.setQueue (p : Partition) (q : Nat) (j : JobQueue) : Partition :=
  { p with queues := (p.queues.filter fun x => x.1 != q) ++ [(q, j)] }
def State.queue (s : State) (part q : Nat) : JobQueue := (s.part part).elim JobQueue.reset (Partition.queue · q)
def State.setQueue (s : State) (part q : Nat) (j : JobQueue) : State := s.modPart part fun p => p.setQueue q j

def JobQueue.stop (j : JobQueue) (code : Byte) : JobQueue := { j with err := true, code := code }

/-- LOG2SIZE as it reads back. -/
def log2Of (n : Nat) : Nat := if 4 ≤ n then n else 4

/-- The agents that may write a queue's registers. -/
def writesQueues (src : WindowAgent) : Bool := src != .program

/-- JQCTL as it reads. -/
def JobQueue.ctl (j : JobQueue) : DWord :=
  BitVec.ofNat 64 (j.code.toNat * 2 ^ 56 + j.ctx * 2 ^ 40 + j.log2 * 2 ^ 32 + (if j.err then 2 else 0) + (if j.en then 1 else 0))

/-- JQBASE with a half written. -/
def newBase (old v : DWord) (h : Half) : DWord :=
  let v := v &&& 0x0000FFFFFFFFFF80#64
  match h with
  | .whole => v
  | .low => hiW old ++ loW v
  | .high => hiW v ++ loW old

/-- A write of JQBASE. -/
def State.writeBase (s : State) (part q : Nat) (h : Half) (v : DWord) : State :=
  let j := s.queue part q
  let b := newBase j.base v h
  s.setQueue part q (if !j.en then { j with base := b } else if b = j.base then j else j.stop 2)

/-- Whether a number names a live context of a partition. -/
def State.liveCtx (s : State) (part num : Nat) : Bool := s.ctxs.any fun c => c.part == part && c.num == num

/-- A wait packet that holds a queue is read again, or no more, when the parser resumes or stops (R72, R74). -/
def State.dropWait (s : State) (part q : Nat) : State :=
  { s with jobs := s.jobs.filter fun x => !(x.part == part && x.q == q && x.waiting) }

/-- A write of JQCTL. -/
def State.writeCtl (s : State) (part q : Nat) (h : Half) (v : DWord) : State :=
  let j := s.queue part q
  let ctx := if h.hitsHigh then fieldD v 47 40 else j.ctx
  let log2 := if h.hitsHigh then log2Of (fieldD v 35 32) else j.log2
  let en := if h.hitsLow then v.getLsbD 0 else j.en
  let clear := h.hitsLow && v.getLsbD 1
  let j1 := if clear then { j with err := false } else j
  let s := if (clear && j.err) || (j.en && !en) then s.dropWait part q else s
  s.setQueue part q (
    if j.en then (if ctx = j.ctx ∧ log2 = j.log2 then { j1 with en := en } else j.stop 2)
    else
      let j2 := { j1 with ctx := ctx, log2 := log2 }
      if !en then j2
      else if s.liveCtx part ctx then { j2 with en := true, head := 0, tail := 0 }
      else j2.stop 3)

/-- The device that a queue belongs to under its context's mode (R22). -/
def Ctx.queueDev (c : Ctx) (q : Nat) : Option Nat :=
  match c.mode with
  | 1 => some (q / 32)
  | 2 => if q < c.devs * (64 / max 1 c.devs) then some (q % max 1 c.devs) else none
  | _ => some 0

/-- A write of JQNOTIFY (R73). -/
def State.writeNotify (s : State) (part q : Nat) (h : Half) (v : DWord) : State :=
  let j := s.queue part q
  let n := loW v
  if !h.hitsLow then s
  else if !j.en || j.err then s
  else if ((s.ctx? (256 * part + j.ctx)).bind (Ctx.queueDev · q)).isNone then s
  else if 2 ^ j.log2 < (n - j.head).toNat then s.setQueue part q (j.stop 1)
  else if (n - j.head).toNat ≤ (j.tail - j.head).toNat then s
  else s.setQueue part q { j with tail := n }

/-! ## The management queue (R79, R80) -/

def slotBytes (p : Partition) (k : Nat) : List Byte :=
  ((p.slots.find? fun x => x.1 == k).map Prod.snd).getD (List.replicate 256 0)
def Partition.setSlot (p : Partition) (k : Nat) (b : List Byte) : Partition :=
  { p with slots := (p.slots.filter fun x => x.1 != k) ++ [(k, b)] }

/-- A write of MQSUBMIT. -/
def State.writeSubmit (s : State) (part : Nat) (h : Half) (v : DWord) : State :=
  let k := fieldD v 3 0
  s.modPart part fun p =>
    if !h.hitsLow || p.busy.getLsbD k then p
    else { p with busy := p.busy ||| (1#16 <<< k), submitted := p.submitted ++ [k] }

/-- A write of MQDONE: ones clear bits. -/
def State.writeDone (s : State) (part : Nat) (h : Half) (v : DWord) : State :=
  s.modPart part fun p => if h.hitsLow then { p with done := p.done &&& ~~~(v.extractLsb' 0 16) } else p

/-! ## Accesses by offset (R71, R469) -/

/-- ENACCT (R61). -/
def Partition.enacct (p : Partition) : DWord := (BitVec.ofInt 48 p.bal).setWidth 64

/-- The 8 bytes at an aligned offset; none where the table assigns nothing. -/
def Partition.regAt (p : Partition) (ofs : Nat) : Option DWord :=
  if ofs < 0x1000 then
    let j := p.queue (ofs / 0x40)
    match ofs % 0x40 / 8 with
    | 0 => some j.base
    | 1 => some j.ctl
    | 2 => some (j.tail.setWidth 64)
    | 3 => some (j.head.setWidth 64)
    | _ => some 0
  else if ofs = 0x1000 then some p.enacct
  else if ofs = 0x2000 then some 0
  else if ofs = 0x2008 then some (p.busy.setWidth 64)
  else if ofs = 0x2010 then some (p.done.setWidth 64)
  else if 0x4000 ≤ ofs && ofs < 0x5000 then
    some (BitVec.ofNat 64 (leAt (slotBytes p ((ofs - 0x4000) / 256)) (ofs % 256) 8))
  else none

/-- A read of n bytes, 4 or 8 and aligned. -/
def Partition.regRead (p : Partition) (ofs n : Nat) : Option (List Byte) :=
  (p.regAt (ofs / 8 * 8)).map fun v => ((natLe 8 v.toNat).drop (ofs % 8)).take n

/-- A write at an aligned offset by an agent. -/
def State.regWrite (s : State) (part : Nat) (src : WindowAgent) (ofs : Nat) (h : Half) (v : DWord) : State :=
  if ofs < 0x1000 then
    if !writesQueues src then s
    else
      match ofs % 0x40 / 8 with
      | 0 => s.writeBase part (ofs / 0x40) h v
      | 1 => s.writeCtl part (ofs / 0x40) h v
      | 2 => s.writeNotify part (ofs / 0x40) h v
      | _ => s
  else if ofs = 0x2000 then s.writeSubmit part h v
  else if ofs = 0x2010 then s.writeDone part h v
  else if 0x4000 ≤ ofs && ofs < 0x5000 && src == .host then
    s.modPart part fun p =>
      let k := (ofs - 0x4000) / 256
      let b := natLe 8 v.toNat
      p.setSlot k (putAt (slotBytes p k) (ofs % 256 + if h = .high then 4 else 0)
        (match h with | .whole => b | .low => b.take 4 | .high => b.drop 4))
  else s

/-- The half that an access of n bytes at an offset reaches, and the value in place. -/
def halfOf (ofs n : Nat) : Half := if n = 8 then .whole else if ofs % 8 = 0 then .low else .high

/-- A lane's access to its partition's window: a read's bytes, or a write's. -/
def State.regLane (s : State) (part ofs n : Nat) (op : MemOp) (val : List Byte) : Option (State × List Byte) :=
  match (s.part part).bind fun p => p.regRead ofs n with
  | none => none
  | some b =>
    match op with
    | .store => some (s.regWrite part .program (ofs / 8 * 8) (halfOf ofs n) (BitVec.ofNat 64 (leNat val * 2 ^ (8 * (ofs % 8)))), [])
    | _ => some (s, b)

/-! ## Register writes that reach the device as events -/

def execJqnotifyWrite (part q : Nat) (h : Half) (v : DWord) (s : State) : Host.Outcome State Fault Refusal :=
  .next (if q < 64 then s.writeNotify part q h v else s)

def execJqctlEnSet (part q : Nat) (h : Half) (v : DWord) (s : State) : Host.Outcome State Fault Refusal :=
  .next (if q < 64 && h.hitsLow && v.getLsbD 0 then s.writeCtl part q h v else s)

def execJqctlEnClear (part q : Nat) (h : Half) (v : DWord) (s : State) : Host.Outcome State Fault Refusal :=
  .next (if q < 64 && h.hitsLow && !v.getLsbD 0 then s.writeCtl part q h v else s)

def execJqctlErrClear (part q : Nat) (h : Half) (v : DWord) (s : State) : Host.Outcome State Fault Refusal :=
  .next (if q < 64 && h.hitsLow && v.getLsbD 1 then s.writeCtl part q h v else s)

/-- A write of JQBASE, or of the fields CTX and LOG2SIZE of JQCTL. -/
def execJqConfigWrite (part q : Nat) (base : Bool) (h : Half) (v : DWord) (s : State) : Host.Outcome State Fault Refusal :=
  .next (if q ≥ 64 then s else if base then s.writeBase part q h v else if h.hitsHigh then s.writeCtl part q h v else s)

def execMqsubmitWrite (part : Nat) (h : Half) (v : DWord) (s : State) : Host.Outcome State Fault Refusal :=
  .next (s.writeSubmit part h v)

def execMqdoneClear (part : Nat) (h : Half) (v : DWord) (s : State) : Host.Outcome State Fault Refusal :=
  .next (s.writeDone part h v)

/-- A write to any register of the window. -/
def execRegisterWrite (part ofs : Nat) (src : WindowAgent) (h : Half) (v : DWord) (s : State) : Host.Outcome State Fault Refusal :=
  .next (if ofs % 8 = 0 then s.regWrite part src ofs h v else s)

end Sys2Proof.Machine
end

