-- ==== Sys2Proof/Machine/Home.lean ====
section
/-! DEFINITION. The home directory (R208 to R215, R221): regions, what a request asks for, the transactions of a line, and what
performing a request at its home does. -/

namespace Sys2Proof.Machine

/-! ## What a request asks of the directory (R210) -/

inductive Ask where
  | load (pol : Policy)
  | own
  | merge (pol : Policy)
  | atomic
  deriving DecidableEq, Repr

/-- Operations performed as one atomic update at the home slice: the atomics, and the typed stores (R283). -/
def MemReq.atomicAtHome (r : MemReq) : Bool :=
  memAtHome r.op || match r.op with | .vpstore _ _ _ => r.typed | _ => false

def MemReq.ask (r : MemReq) : Ask :=
  if r.atomicAtHome then .atomic
  else if memWrites r.op then (if r.pol = .own then .own else .merge r.pol)
  else .load r.pol

def Ask.tracks : Ask → Bool
  | .load .own => true
  | .load .wi => true
  | _ => false

/-! ## Regions (R209, R211, R212) -/

def Region.covers (r : Region) (die ln : Nat) : Bool := r.die == die && decide (r.base ≤ ln) && decide (ln < r.base + 2 ^ r.size)
def State.region? (s : State) (die ln : Nat) : Option Region := s.regions.find? fun r => r.covers die ln
def State.modRegion (s : State) (die base : Nat) (f : Region → Region) : State :=
  { s with regions := modWhere s.regions (fun r => r.die == die && r.base == base) f }

/-- The host's bit of HOLD, and its number as a holder. -/
def hostHolder : Nat := 32

def bitAt (d : Nat) : BitVec 33 := 1#33 <<< d

/-- The action of R210: whom the home asks for what, and the entry's next state. -/
structure DirStep where
  targets : List (Nat × TAct)
  st : RState
  hold : BitVec 33
  owner : Nat

def DirStep.shared (targets : List (Nat × TAct)) (hold : BitVec 33) : DirStep :=
  ⟨targets, if hold = 0 then .i else .s, hold, 0⟩

/-- The table of R210 for a request of die d. The home's own cores (`self`) never stand in HOLD. An owner that asks again, but for
an atomic, keeps its entry. -/
def dirStep (st : RState) (hold : BitVec 33) (owner : Nat) (self : Bool) (d : Nat) (ask : Ask) : DirStep :=
  let me : BitVec 33 := if self then 0 else bitAt d
  let excl (ts : List (Nat × TAct)) : DirStep := if self then ⟨ts, .i, 0, 0⟩ else ⟨ts, .e, 0, d⟩
  match st with
  | .i =>
    match ask with
    | .load p => if p = .own ∨ p = .wi then .shared [] me else ⟨[], .i, 0, 0⟩
    | .own => excl []
    | .merge p => if p = .wi then .shared [] me else ⟨[], .i, 0, 0⟩
    | .atomic => ⟨[], .i, 0, 0⟩
  | .s =>
    let others := (setBits (hold &&& ~~~me)).map fun x => (x, TAct.inval)
    match ask with
    | .load p => if p = .own ∨ p = .wi then .shared [] (hold ||| me) else .shared [] hold
    | .own => excl others
    | .merge p => if p = .wi then .shared others me else .shared others (hold &&& me)
    | .atomic => ⟨(setBits hold).map fun x => (x, TAct.inval), .i, 0, 0⟩
  | .e =>
    match ask with
    | .atomic => ⟨[(owner, .recall)], .i, 0, 0⟩
    | _ =>
      if !self && owner = d then ⟨[], .e, 0, owner⟩
      else
        match ask with
        | .load p => .shared [(owner, .downgrade)] (if p = .own ∨ p = .wi then bitAt owner ||| me else bitAt owner)
        | .own => excl [(owner, .forward)]
        | .merge p => .shared [(owner, .recall)] (if p = .wi then me else 0)
        | .atomic => ⟨[], .i, 0, 0⟩

/-- The size of a new entry: the largest aligned block of at most 64 KiB that overlaps no live one. -/
def State.newSize (s : State) (die ln : Nat) : Nat :=
  ((List.range 11).reverse.find? fun k =>
    let base := ln / 2 ^ k * 2 ^ k
    s.regions.all fun r => r.die != die || decide (r.base + 2 ^ r.size ≤ base) || decide (base + 2 ^ k ≤ r.base)).getD 0

/-- The sets of a die's directory: 262,144 entries, 16 to a set (R209). -/
def dirSets : Nat := 16384
def dirWays : Nat := 16

/-- Whether two entries stand in one set. -/
def sameSet (a b : Nat) : Bool := Config.directorySet a % dirSets == Config.directorySet b % dirSets

/-- The entries of a die in the set of a base, where the set may be full. -/
def State.setEntries (s : State) (die base : Nat) : List Region :=
  let mine := s.regions.filter fun r => r.die == die
  if mine.length < dirWays then [] else mine.filter fun r => sameSet r.base base

/-- The entry that a line without one is given: the largest aligned block of at most 64 KiB that overlaps no other. -/
def State.newRegion (s : State) (die ln : Nat) : Region :=
  let k := s.newSize die ln
  ⟨die, ln / 2 ^ k * 2 ^ k, k, .i, 0, 0, 0, false⟩

def State.dropRegion (s : State) (r : Region) : State :=
  { s with regions := s.regions.filter fun x => !(x.die == r.die && x.base == r.base) }

/-- A conflict splits an entry once (R211). -/
def State.splitRegion (s : State) (r : Region) : State :=
  if r.size = 0 then s
  else
    let half (b : Nat) : Region := { r with base := b, size := r.size - 1, quiet := 0 }
    let rest := s.regions.filter fun x => !(x.die == r.die && x.base == r.base)
    { s with regions := rest ++ [half r.base, half (r.base + 2 ^ (r.size - 1))] }.modDie r.die
      fun d => { d with splits := satInc d.splits }

/-- The other half of an entry's parent. -/
def Region.buddy (r : Region) : Nat := if r.base / 2 ^ r.size % 2 = 0 then r.base + 2 ^ r.size else r.base - 2 ^ r.size

/-- Whether a line is one of an entry's parent region. -/
def Region.parentCovers (r : Region) (die ln : Nat) : Bool := r.die == die && ln / 2 ^ (r.size + 1) == r.base / 2 ^ (r.size + 1)

/-- A transaction on a line counts in QUIET of every entry whose parent holds the line, whether or not the entry's other half has split
further; a conflict restarts the count there (R212). -/
def State.countQuiet (s : State) (die ln : Nat) (conflict : Bool) : State :=
  { s with regions := s.regions.map fun x =>
    if x.parentCovers die ln then { x with quiet := if conflict then 0 else min 65536 (x.quiet + 1) } else x }

/-- The state of two halves merged, if they merge. The new entry goes on with the count of its own parent, which its other half has
kept. -/
def mergedHalf (a b : Region) (quiet : Nat) : Option Region :=
  let lo := if a.base ≤ b.base then a else b
  let m (st : RState) (hold : BitVec 33) (owner : Nat) : Region :=
    { lo with size := a.size + 1, st := st, hold := hold, owner := owner, quiet := quiet, llost := a.llost || b.llost }
  match a.st, b.st with
  | .e, .i => some (m .e 0 a.owner)
  | .i, .e => some (m .e 0 b.owner)
  | .e, _ => none
  | _, .e => none
  | _, _ => some (m (if a.hold ||| b.hold = 0 then .i else .s) (a.hold ||| b.hold) 0)

/-- The count that the entry standing for a parent region goes on with. -/
def State.parentQuiet (s : State) (a : Region) : Nat :=
  let p : Region := { a with base := min a.base a.buddy, size := a.size + 1 }
  ((s.regions.find? fun r => r.die == p.die && r.base == p.buddy && r.size == p.size).map Region.quiet).getD 0

def execRegionMerge (die base : Nat) (s : State) : Host.Outcome State Fault Refusal :=
  match s.regions.find? fun r => r.die == die && r.base == base with
  | none => .next s
  | some a =>
    match s.regions.find? fun r => r.die == die && r.base == a.buddy && r.size == a.size with
    | none => .next s
    | some b =>
      if a.quiet < 65536 || b.quiet < 65536 || 10 ≤ a.size then .next s
      else
        match mergedHalf a b (s.parentQuiet a) with
        | none => .next { s with regions := s.regions.map fun x => if x == a || x == b then { x with quiet := 0 } else x }
        | some m =>
          let rest := s.regions.filter fun x => !(x.die == die && (x.base == a.base || x.base == b.base))
          .next ({ s with regions := rest ++ [m] }.modDie die fun d => { d with merges := satInc d.merges })

/-! ## Copies -/

/-- The bytes of a line written at its home. -/
def State.writeLine (s : State) (ln : Nat) (b : List Byte) : State :=
  { s.inSlice ln true with mem := cellsSet s.mem (64 * ln) b }

/-- The dirty bytes that a die holds of a line reach memory; its copies stay, clean, and what it was writing back is answered (R214). -/
def State.pullLine (s : State) (die ln : Nat) : State :=
  let mine (l : CLine) : Bool := l.die == die && l.line == ln && l.excl && l.dirty != 0
  let back (w : WriteBack) : Bool := w.die == die && w.line == ln && w.owner && w.mask != 0
  if s.lines.any mine || s.wbs.any back then
    let data := s.view (64 * ln) 64
    { s.writeLine ln data with
      lines := s.lines.map fun l => if l.die == die && l.line == ln && l.excl then { l with dirty := 0, data := data } else l
      wbs := s.wbs.map fun w => if w.die == die && w.line == ln && w.owner then { w with owner := false } else w }
  else s

/-- The tracked copies of a line on a die, but for one core's L1, dropped. -/
def State.dropTracked (s : State) (die ln : Nat) (but : Option Nat) : State :=
  { s with lines := s.lines.filter fun l =>
    !(l.line == ln && l.die == die && (l.tracked || l.excl) && (l.core.isNone || l.core != but)) }

/-- The exclusive copies of a line on a die become shared. -/
def State.shareTracked (s : State) (die ln : Nat) : State :=
  { s with lines := s.lines.map fun l => if l.line == ln && l.die == die && l.excl then { l with excl := false, tracked := true } else l }

/-- All 64 bytes. -/
def wholeLine : BitVec 64 := BitVec.allOnes 64

/-- The RDC takes back what its L1s hold exclusively of a line: its copy has the newest bytes, theirs become shared. -/
def State.gatherRdc (s : State) (die ln : Nat) : State :=
  match s.lines.find? fun l => l.die == die && l.core.isSome && l.line == ln && l.excl with
  | none => s
  | some l =>
    { s with lines := s.lines.map fun x =>
      if x == l then { x with excl := false, tracked := true, dirty := 0 }
      else if x.die == die && x.core == none && x.line == ln then { x with data := l.data, dirty := x.dirty ||| l.dirty, excl := true }
      else x }

/-- A cache gives up a line (R214). An L1 hands another home's line that it owns to its die's RDC; an RDC that gives up a line takes it
from its die's L1s too (R207). Dirty bytes leave by a write-back. -/
def State.evictLine (s : State) (l : CLine) : State :=
  let above (x : CLine) : Bool := x.die == l.die && x.core == none && x.line == l.line && x.home == l.home
  if l.core.isSome && l.excl && s.lines.any above then
    let give (x : CLine) : CLine := if above x then { x with data := l.data, dirty := x.dirty ||| l.dirty, excl := true, tracked := true } else x
    { s with lines := (s.lines.filter (· != l)).map give }
  else if l.core == none && !l.window then
    let s := s.gatherRdc l.die l.line
    match s.lines.find? above with
    | none => s
    | some x =>
      let s := { s with lines := s.lines.filter fun y => !(y.die == l.die && y.core.isSome && y.line == l.line && y.home == l.home && !y.window) }
      (s.treatLine .inv x).1
  else (s.treatLine .inv l).1

/-- The lines that a cache holds: an L1, or a remote-data cache (R150). -/
def cacheLines (core : Option Nat) : Nat := if core.isSome then l1Lines else rdcLines

/-- A copy placed in a cache, in place of what it held of the line. A full cache gives up the line that came first: which one is not
architectural (R151). -/
def State.putLine (s : State) (l : CLine) : State :=
  let s := { s with lines := s.lines.filter fun x => !(x.die == l.die && x.core == l.core && x.line == l.line && x.home == l.home) }
  let mine := s.lines.filter fun x => x.die == l.die && x.core == l.core
  let s := match (if cacheLines l.core ≤ mine.length then mine.head? else none) with
    | some x => s.evictLine x
    | none => s
  { s with lines := s.lines ++ [l] }

/-- What a holder does on one line of an entry; `want` is the die that a forward goes to, none for the home. -/
def State.actOn (s : State) (home die ln : Nat) (act : TAct) (want : Option Nat) : State :=
  match act, want with
  | .inval, _ => (s.pullLine die ln).dropTracked die ln none
  | .recall, _ => (s.pullLine die ln).dropTracked die ln none
  | .downgrade, _ => (s.pullLine die ln).shareTracked die ln
  | .forward, none => (s.pullLine die ln).dropTracked die ln none
  | .forward, some d =>
    let data := s.view (64 * ln) 64
    let dirty := ((s.lines.filter fun l => l.line == ln && l.die == die && l.excl).map CLine.dirty).foldl (· ||| ·) 0
      ||| ((s.wbs.filter fun w => w.line == ln && w.die == die && w.owner).map WriteBack.mask).foldl (· ||| ·) 0
    let left := s.wbs.map fun (w : WriteBack) => if w.line == ln && w.die == die && w.owner then { w with owner := false } else w
    { s.dropTracked die ln none with wbs := left }.putLine ⟨d, none, ln, data, wholeLine, dirty, true, true, false, home⟩

/-- The lines of an entry that a holder has, the requested one included. -/
def State.heldLines (s : State) (die base size : Nat) : List Nat :=
  (((s.lines.filter fun l => l.die == die && decide (base ≤ l.line) && decide (l.line < base + 2 ^ size)).map CLine.line)
    ++ ((s.wbs.filter fun w => w.die == die && w.owner && decide (base ≤ w.line) && decide (w.line < base + 2 ^ size)).map
      WriteBack.line)).eraseDups

/-- A holder acts on the requested line and on the entry's others (R211). -/
def State.actTarget (s : State) (t : Txn) (die : Nat) (act : TAct) : State :=
  let want := if t.from_ = t.die then none else some t.from_
  (s.heldLines die t.base t.size).foldl (fun s ln =>
    if ln = t.line then s.actOn t.die die ln act want
    else s.actOn t.die die ln (match act with | .forward => .recall | a => a) none) s

/-! ## Leases as the home keeps them (R216) -/

/-- A grant starts the lease anew at the home. A lease of an earlier life of the home is the holder's alone (R220). -/
def State.grantLease (s : State) (home die : Nat) : State :=
  let now := s.clockOf home
  match s.lease? home die with
  | some _ => s.modLease home die fun l => { l with granted := now }
  | none =>
    let l : Lease := ⟨home, die, now, s.clockOf die, s.clockOf die, (s.die home).leaseLog2, s.lifeOf home, false⟩
    { s with leases := s.leases ++ [l] }

/-! ## The rows of the memory (R26, R176) -/

/-- The row of a line, and its bank on its die. -/
def rowOf (ln : Nat) : Nat := (hbmPlace ln).row
def bankOf (ln : Nat) : Nat := (hbmPlace ln).number

/-- An access opens its row, and the idle timer restarts. -/
def State.openRow (s : State) (die ln : Nat) : State :=
  { s with banks := (s.banks.filter fun b => !(b.die == die && b.bank == bankOf ln))
      ++ [⟨die, bankOf ln, some (rowOf ln), s.clockOf die⟩] }

/-- An access at the home slice (R150, R152): a line that the L2 does not hold comes from its row. -/
def State.touchSlice (s : State) (home ln : Nat) (wr : Bool) : State :=
  if locKind (64 * ln) ≠ 0 then s else ((if s.inL2 ln then s else s.openRow home ln).inSlice ln wr)

/-! ## Replies -/

def State.liveReqs (s : State) (ids : List Nat) : List MemReq := ids.filterMap s.req?

/-- The lanes of a message have been performed or have failed at the home: a prefetch ends, the others' replies leave. -/
def State.replyReqs (s : State) (home : Nat) (rs : List MemReq) : State :=
  let die := (rs.head?.map (·.die)).getD home
  let life := (rs.head?.map (·.reqLife)).getD 0
  let away := home != die
  let s := rs.foldl (fun s r =>
    if r.op = .prefetch then s.dropReq r.id
    else s.modReq r.id fun q => { q with stage := if away then .returning else .answered }) s
  let ids := (rs.filter fun r => r.op != .prefetch).map MemReq.id
  let s := if rs.any (·.phase.isSome) then s.publish die else s
  if away then
    (packLanes MemReq.backBytes (s.liveReqs ids)).foldl (fun s g => s.sendWith life home die 1 (.reply (g.map MemReq.id))) s
  else s

/-- Every lane of a message fails. -/
def State.replyFault (s : State) (home : Nat) (rs : List MemReq) (code : Byte) : State :=
  (rs.foldl (fun s r => s.modReq r.id fun q => { q with fault := some code }) s).replyReqs home rs

/-! ## Performing requests -/

/-- One lane performed on the bytes of its line: its result or fault, and the line. -/
def State.lineReq (s : State) (r : MemReq) (b : List Byte) : State × List Byte :=
  let fin (s : State) (res : List Byte) : State := s.modReq r.id fun q => { q with result := res }
  let obj := (b.drop (r.loc % 64)).take 32
  match r.op, s.troupe? r.wg r.trix with
  | .depinit node rec depth, some t =>
    let (s, code, obj) := s.depInit t r.loc r.lane node (leNat r.val) depth rec obj
    (fin s (natLe 4 code), putAt b (r.loc % 64) obj)
  | .depdec, some t =>
    let (s, code, obj) := s.depDec t r.loc obj
    (fin s (natLe 4 code), putAt b (r.loc % 64) obj)
  | _, _ =>
    match lineStep r.op r.typed (r.loc % 64) r.bytes r.val r.val2 b with
    | .ok res b => (fin s res, b)
    | .bad code => (s.modReq r.id fun q => { q with fault := some code }, b)

/-- The lanes of a message performed in ascending order on the line. -/
def State.lineReqs (s : State) (rs : List MemReq) (b : List Byte) : State × List Byte :=
  rs.foldl (fun p r => p.1.lineReq r p.2) (s, b)

/-- The bytes that the stores of a message write. -/
def storeMask (rs : List MemReq) : BitVec 64 :=
  BitVec.ofNat 64 (maskNat (fun i => rs.any fun r => memWrites r.op && decide (r.loc % 64 ≤ i) && decide (i < r.loc % 64 + r.bytes)) 64)

/-- A whole-line write (R172): one instruction's stores cover the line. -/
def wholeWrite (rs : List MemReq) : Bool :=
  storeMask rs == wholeLine && rs.all (fun r => memWrites r.op && !r.atomicAtHome)
    && rs.all fun r => some r.split == rs.head?.map (·.split)

/-- A copy's bytes with those that a store writes put in. -/
def MemReq.overlay (r : MemReq) (b : List Byte) : List Byte :=
  match lineStep r.op r.typed (r.loc % 64) r.bytes r.val r.val2 b with
  | .ok _ b => b
  | .bad _ => b

/-- The issuing die's own copies after a store or an atomic performed at the home (R203 to R205, R467, R468): the RDC's and the issuing
L1's take the store's own bytes, the other L1s drop their tracked copies. -/
def State.ownCopies (s : State) (r : MemReq) : State :=
  let keep (l : CLine) : Option CLine :=
    if l.line != r.line || l.die != r.die || l.home != r.home || l.window then some l
    else if r.atomicAtHome then (if l.core == none || l.core == some r.core || l.tracked || l.excl then none else some l)
    else if l.core == none then some { l with data := r.overlay l.data }
    else if l.core == some r.core then (if r.pol == .wt then none else some { l with data := r.overlay l.data })
    else if l.tracked || l.excl then none
    else some l
  { s with lines := s.lines.filterMap keep }

/-- The copies that a served load leaves on its die: in the L1, and for another home's line in the RDC (R203). -/
def State.fillCopies (s : State) (r : MemReq) (excl : Bool) : State :=
  let bytes := s.view (64 * r.line) 64
  let tr := excl || r.ask.tracks
  let l1 : CLine := ⟨r.die, some r.core, r.line, bytes, wholeLine, 0, tr, false, false, r.home⟩
  let rdc : CLine := ⟨r.die, none, r.line, bytes, wholeLine, 0, tr, excl, false, r.home⟩
  let has := s.lines.find? fun l => l.die == r.die && l.core == none && l.line == r.line && l.home == r.home
  let s :=
    if r.home = r.die then s
    else
      match has with
      | some l => if l.tracked || l.excl then (if excl then s.putLine { l with excl := true } else s) else s.putLine rdc
      | none => s.putLine rdc
  s.putLine l1

/-- An own store performed in its L1, which becomes the exclusive holder on its die. -/
def State.storeInL1 (s : State) (rs : List MemReq) : State :=
  match rs.head? with
  | none => s
  | some r =>
    let ln := r.line
    let rdc := s.lines.find? fun l => l.die == r.die && l.core == none && l.line == ln && l.home == r.home
    let mine := s.lines.filter fun l => l.die == r.die && l.line == ln && l.excl
    let dirty := (mine.map CLine.dirty).foldl (· ||| ·) 0
    let (s1, b) := s.lineReqs rs (s.view (64 * ln) 64)
    let s1 := if wholeWrite rs then s1.undamage ln else s1
    let s1 := s1.dropTracked r.die ln none
    let s1 := match rdc with
      | some l => s1.putLine { l with data := b, dirty := 0, tracked := true, excl := true, valid := wholeLine }
      | none => s1
    s1.putLine ⟨r.die, some r.core, ln, b, wholeLine, dirty ||| storeMask rs, true, true, false, r.home⟩

/-- The home's own L1s, reached through its order network (R209, R210): a load has their dirty bytes, everything else takes their
copies, but for that of a core of the home that writes itself. -/
def State.snoopHome (s : State) (home : Nat) (r : MemReq) : State :=
  let s := s.pullLine home r.line
  match r.ask with
  | .load _ => s.shareTracked home r.line
  | .atomic => s.dropTracked home r.line none
  | _ => s.dropTracked home r.line (if r.die = home then some r.core else none)

/-- The home performs a message whose holders have answered: the access, the copies. -/
def State.performAt (s : State) (home : Nat) (rs : List MemReq) : State :=
  match rs.head? with
  | none => s
  | some r =>
    let ln := r.line
    let s := s.touchSlice home ln (memWrites r.op)
    match r.ask with
    | .load _ =>
      let (s, _) := s.lineReqs rs (s.view (64 * ln) 64)
      let s := match r.pol with
        | .wt => s.refresh r.die r.core ln
        | _ => s.fillCopies r false
      s.replyReqs home rs
    | .own => (s.storeInL1 rs).replyReqs home rs
    | _ =>
      let (s, b) := s.lineReqs rs (s.view (64 * ln) 64)
      let s := { s with mem := cellsSet s.mem (64 * ln) b }
      let s := if wholeWrite rs then s.undamage ln else s
      (rs.foldl State.ownCopies s).replyReqs home rs

/-! ## Transactions (R208) -/

/-- A request before another by the order-network slot that it took on its die, then by its place in its instruction (R206, R233). -/
def insertSlot (r : MemReq) : List MemReq → List MemReq
  | [] => [r]
  | q :: l => if q.slot < r.slot ∨ (q.slot = r.slot ∧ q.id ≤ r.id) then q :: insertSlot r l else r :: q :: l

/-- Requests of a line that the home has not taken yet, of one message, in the order in which they are performed (R213). -/
def State.waitingAt (s : State) (r : MemReq) : List MemReq :=
  (s.reqs.filter fun q => q.stage == .atHome && q.arrival == r.arrival && q.home == r.home && q.line == r.line).foldl
    (fun l q => insertSlot q l) []

/-- Whether the message must wait: a transaction of the line stands, or the eviction of its entry, an earlier message waits, or a
write-back of the line by the home's own die has not been merged (R208 to R210). A write-back from another die stands before the
requests of that die by its sequence number (R34). -/
def State.lineBusy (s : State) (r : MemReq) : Bool :=
  s.txns.any (fun t => t.die == r.home && (t.line == r.line || (t.evict && decide (t.base ≤ r.line) && decide (r.line < t.base + 2 ^ t.size))))
  || s.reqs.any (fun q => (q.stage == .atHome || q.stage == .awaitLine) && q.home == r.home && q.line == r.line
      && decide (q.arrival < r.arrival))
  || s.wbs.any fun w => w.die == r.home && w.home == r.home && w.line == r.line

/-- The entry's next state written. -/
def State.setDir (s : State) (home ln : Nat) (d : DirStep) : State :=
  let s := if (s.region? home ln).isNone && d.st != .i then { s with regions := s.regions ++ [s.newRegion home ln] } else s
  match s.region? home ln with
  | none => s
  | some r => s.modRegion home r.base fun x => { x with st := d.st, hold := d.hold, owner := d.owner }

def State.txn? (s : State) (id : Nat) : Option Txn := s.txns.find? fun t => t.id == id
def State.modTxn (s : State) (id : Nat) (f : Txn → Txn) : State := { s with txns := modWhere s.txns (fun t => t.id == id) f }
def State.dropTxn (s : State) (id : Nat) : State := { s with txns := s.txns.filter fun x => x.id != id }

/-- A transaction begins: each holder is sent what it must do, on the forward/snoop channel (R31). The host is asked over CXL. -/
def State.startTxn (s : State) (t : Txn) : State :=
  ((t.targets.filter fun x => x.1 != hostHolder).map Prod.fst).foldl (fun s d => s.send t.die d 2 (.snoop t.id))
    { s with txns := s.txns ++ [t], fresh := s.fresh + 1 }

/-- The cycle by which the host must answer, where it is asked (R221). -/
def State.hostDue (s : State) (home : Nat) (targets : List (Nat × TAct)) : Option Nat :=
  if targets.any (·.1 == hostHolder) then some (s.clockOf home + 2 ^ (s.die home).leaseLog2) else none

/-- A transaction whose holders have all answered: it ends at once, or its grant leaves with the lease's length (R208, R216). An entry
that has given up every copy goes (R209). -/
def State.advanceTxn (s : State) (t : Txn) : State :=
  if t.granted || t.targets != [] || t.acks != [] then s
  else if t.evict then
    let lost := (s.region? t.die t.base).filter (·.llost)
    let s := match lost with
      | some r => s.report [.line t.die r.base leaseCode]
      | none => s
    ((s.dropTxn t.id).dropRegion ⟨t.die, t.base, t.size, .i, 0, 0, 0, false⟩).modDie t.die fun d => { d with evict := satInc d.evict }
  else
    let rs := (s.liveReqs t.reqs).filter fun r => r.stage == .inTxn
    match rs.head? with
    | none => s.dropTxn t.id
    | some r =>
      let len := (s.die t.die).leaseLog2
      if r.die != t.die && (r.ask.tracks || r.ask == .own) then
        let s := (s.touchSlice t.die t.line false).grantLease t.die r.die
        (s.modTxn t.id fun x => { x with granted := true, len := len }).send t.die r.die 1 (.grant t.id)
      else if r.die != t.die && r.ask == .merge .wi then
        let s := (s.dropTxn t.id).grantLease t.die r.die
        (rs.foldl (fun s q => s.modReq q.id fun q => { q with lease := some len }) s).performAt t.die rs
      else (s.dropTxn t.id).performAt t.die rs

/-- An entry's copies are asked for, because its place is needed (R209): the request that needs it waits. -/
def State.startEvict (s : State) (r : Region) : State :=
  let targets : List (Nat × TAct) := if r.st = .e then [(r.owner, .recall)] else (setBits r.hold).map fun d => (d, .inval)
  s.startTxn ⟨s.fresh, r.die, r.base, [], r.die, r.base, r.size, targets, [], false, false, s.hostDue r.die targets, 0, true⟩

/-- Whether a transaction stands on a line of an entry. -/
def State.regionBusy (s : State) (r : Region) : Bool :=
  s.txns.any fun t => t.die == r.die && decide (t.line < r.base + 2 ^ r.size) && decide (r.base < t.line + 2 ^ (if t.evict then t.size else 0))

/-- Room for a new entry (R209), and whether there is: an entry that tracks nothing makes way at once, then a live one once its copies
have been given up, and last one that only remembers a lapsed lease, which the error core is told of. -/
def State.roomFor (s : State) (home ln : Nat) : State × Bool :=
  let base := (s.newRegion home ln).base
  let set := s.setEntries home base
  if set.length < dirWays then (s, true)
  else
    match set.find? fun r => r.st == .i && !r.llost && !s.regionBusy r with
    | some r => (s.dropRegion r, true)
    | none =>
      if s.txns.any fun t => t.evict && t.die == home && sameSet t.base base then (s, false)
      else
        match set.find? fun r => r.st != .i && !s.regionBusy r with
        | some r => (s.startEvict r, false)
        | none =>
          match set.find? fun r => r.st == .i && !s.regionBusy r with
          | some r => ((s.dropRegion r).report [.line home r.base leaseCode], true)
          | none => (s, false)

/-- What R210 says of a request in the state that its line's entry has. -/
def State.dirNow (s : State) (r : MemReq) : DirStep :=
  match s.region? r.home r.line with
  | some g => dirStep g.st g.hold g.owner (r.die == r.home) r.die r.ask
  | none => dirStep .i 0 0 (r.die == r.home) r.die r.ask

/-- The directory takes a message (R210, R211); one whose line needs an entry for which there is no room yet waits. -/
def State.directory (s : State) (rs : List MemReq) : State :=
  match rs.head? with
  | none => s
  | some r =>
    let home := r.home
    let ln := r.line
    let (s, room) := if (s.region? home ln).isNone && (s.dirNow r).st != .i then s.roomFor home ln else (s, true)
    if !room then s
    else
      let conflict := (s.dirNow r).targets.any fun t => t.1 != r.die
      let s := s.countQuiet home ln conflict
      let s := match s.region? home ln with
        | some g => if conflict then s.splitRegion g else s
        | none => s
      let d := s.dirNow r
      let (base, size) := match s.region? home ln with | some g => (g.base, g.size) | none => (ln, 0)
      let s := (s.setDir home ln d).snoopHome home r
      let s := rs.foldl (fun s q => s.modReq q.id fun q => { q with stage := .inTxn }) s
      let t : Txn := ⟨s.fresh, home, ln, rs.map MemReq.id, r.die, base, size, d.targets, [], false, false, s.hostDue home d.targets, 0, false⟩
      (s.startTxn t).advanceTxn t

/-! ## Requests at their home -/

/-- A lane at a register window. -/
def State.windowLane (s : State) (r : MemReq) : State :=
  match s.ctx? r.ctx with
  | none => s.replyFault r.home [r] xlate
  | some c =>
    match s.regLane c.part (r.loc % 2 ^ 48) r.bytes r.op r.val with
    | none => s.replyFault r.home [r] xlate
    | some (s, b) => (s.modReq r.id fun q => { q with result := b }).replyReqs r.home [r]

/-- Lanes on memory that no directory keeps: a peer's, or a line in a non-coherent window (R224). -/
def State.rawLanes (s : State) (home : Nat) (rs : List MemReq) (ln : Nat) : State :=
  let s := s.touchSlice home ln (rs.any fun r => memWrites r.op)
  let (s, b) := s.lineReqs rs (cellsGet s.mem (64 * ln) 64)
  let s := if wholeWrite rs then s.undamage ln else s
  { s with mem := cellsSet s.mem (64 * ln) b }

/-- A window copy of a line after a fill with bytes, `v` of which are good: those already dirty stay (R224). What the copy holds then. -/
def State.fillWindow (s : State) (r : MemReq) (core : Option Nat) (b : List Byte) (v : BitVec 64) : State × List Byte :=
  match s.lines.find? fun l => l.die == r.die && l.core == core && l.line == r.line && l.home == r.home && l.window with
  | some l =>
    let data := (List.range 64).map fun i => if l.dirty.getLsbD i || !v.getLsbD i then l.data.getD i 0 else b.getD i 0
    (s.putLine { l with data := data, valid := l.valid ||| v }, data)
  | none => (s.putLine ⟨r.die, core, r.line, b, v, 0, false, false, true, r.home⟩, b)

/-- The levels that a window load fills (R222, R224): L1 and RDC, or the RDC alone; the RDC holds only other homes' lines. The bytes that
the load then reads. -/
def State.windowFill (s : State) (r : MemReq) (cl : WinCl) (b : List Byte) : State × List Byte :=
  let (s, b) := if cl != .uncached && r.home != r.die then s.fillWindow r none b wholeLine else (s, b)
  if cl = .both then s.fillWindow r (some r.core) b wholeLine else (s, b)

/-- Lanes on a line of a non-coherent window at its home. -/
def State.windowLanes (s : State) (rs : List MemReq) (r : MemReq) (cl : WinCl) : State :=
  if memLoads r.op || r.op == .prefetch then
    let s := s.touchSlice r.home r.line false
    let (s, b) := s.windowFill r cl (cellsGet s.mem (64 * r.line) 64)
    (s.lineReqs rs b).1
  else s.rawLanes r.home rs r.line

/-- The line fetched or present (R172): none when the message must wait for it. -/
def State.presentFor (s : State) (rs : List MemReq) (r : MemReq) : Option State :=
  match s.migrOf? (64 * r.line) with
  | none => some s
  | some m =>
    if wholeWrite rs && !m.fetching.getLsbD (r.line % 64) then
      let migrs := modWhere s.migrs (fun x => x.die == m.die && x.frame == m.frame)
        fun x => { x with present := x.present ||| (1#64 <<< (r.line % 64)) }
      some { s with migrs := migrs }
    else none

/-- A message of `depinit` lanes that waits for a page of the vat, with the page asked for. -/
def State.messagePark (s : State) (rs : List MemReq) : Option State :=
  match rs.head? with
  | none => none
  | some r =>
    match r.op, s.troupe? r.wg r.trix with
    | .depinit node _ _, some t => s.depPark t node rs.length
    | _, _ => none

/-- The directory accepts a message (R208, R210, R218, R178, R172). -/
def execHomeRequest (req : Nat) (s : State) : Host.Outcome State Fault Refusal :=
  match s.req? req with
  | none => .next s
  | some r =>
    let rs := s.waitingAt r
    if r.stage ≠ .atHome || s.lineBusy r then .next s
    else if r.kind = 15 then .next (rs.foldl State.windowLane s)
    else if (r.kind = 8 || r.kind = 9) && s.cxlCut r.kind then .next (s.replyFault r.home rs linkerr)
    else if r.kind = 10 then
      match (s.ctx? r.ctx).bind fun c => s.peerFault c r.loc r.bytes with
      | some e => .next (s.replyFault r.home rs e)
      | none => .next ((s.rawLanes r.home rs r.line).replyReqs r.home rs)
    else
      match s.messagePark rs with
      | some s => .next s
      | none =>
        match s.lost? r.home r.line with
        | some g => .next ((s.takeLost g).replyFault r.home rs leaseCode)
        | none =>
          match s.presentFor rs r with
          | none => .next (rs.foldl (fun s q => s.modReq q.id fun q => { q with stage := .awaitLine }) (s.fetchLines r.loc 1))
          | some s =>
            if s.isFailing r.line && !wholeWrite rs then .next ((s.enterDamaged r.home r.line).replyFault r.home rs memerr)
            else if s.isDamaged r.line && !wholeWrite rs then .next (s.replyFault r.home rs damagedCode)
            else
              match r.win with
              | some cl => .next ((s.windowLanes rs r cl).replyReqs r.home rs)
              | none => .next (s.directory rs)

/-- A holder has acted: its acknowledgement is on its way, on the response channel. -/
def State.answerTxn (s : State) (t : Txn) (die : Nat) : State :=
  (s.modTxn t.id fun x => { x with targets := x.targets.filter (·.1 != die), acks := x.acks ++ [die] }).send die t.die 1 (.ack t.id)

/-- What a home has asked of a holder arrives: it takes a slot of the holder's order network (R206), the copies are treated, and the
acknowledgement leaves (R207, R211). Where the data has left, the write-back buffer answers (R214). -/
def State.snoopArrives (s : State) (t : Txn) (die : Nat) (act : TAct) : State :=
  match s.bringLoad t.die die (.snoop t.id) with
  | (s, true) => (((s.takeSlot die).actTarget t die act).answerTxn t die)
  | (s, false) => s

/-- An invalidation at a holder, which drops its tracked copies (R207). -/
def execInvalidationReceive (txn die : Nat) (s : State) : Host.Outcome State Fault Refusal :=
  match s.txn? txn with
  | none => .next s
  | some t => if t.targets.contains (die, .inval) && die != hostHolder then .next (s.snoopArrives t die .inval) else .next s

/-- A recall, a downgrade or a forward at the owner. -/
def execRecallReceive (txn die : Nat) (s : State) : Host.Outcome State Fault Refusal :=
  match s.txn? txn with
  | none => .next s
  | some t =>
    match t.targets.find? fun x => x.1 == die && x.2 != .inval with
    | some (_, act) => if die = hostHolder then .next s else .next (s.snoopArrives t die act)
    | none => .next s

/-- The grant at its requester: copies, the access, and the acknowledgement to the home (R208, R216). -/
def execGrantReceive (txn : Nat) (s : State) : Host.Outcome State Fault Refusal :=
  match s.txn? txn with
  | none => .next s
  | some t =>
    if !t.granted || t.grantAck then .next s
    else
      match s.bringIf t.die t.from_ (· == .grant txn) with
      | (s, none) => .next s
      | (s, some p) =>
        let rs := (s.liveReqs t.reqs).filter fun r => r.stage == .inTxn
        let s := (s.modTxn txn fun x => { x with grantAck := true }).send t.from_ t.die 1 (.ack txn)
        let s := s.holdLease t.die t.from_ t.len p.reqLife
        match rs.head? with
        | none => .next s
        | some r =>
          let own := r.ask == .own
          let s := s.fillCopies r own
          let s := if own then s.storeInL1 rs else (s.lineReqs rs (s.view (64 * t.line) 64)).1
          .next (s.replyReqs r.die rs)

/-- An acknowledgement arrives, if one is on its way; one that the base could not carry is taken as given. -/
def State.ackArrives (s : State) (t : Txn) (die : Nat) : State × Bool :=
  match s.packetIf die t.die (· == .ack t.id) with
  | none => (s, true)
  | some _ => s.bringLoad die t.die (.ack t.id)

/-- An acknowledgement at the home: of a holder, of the requester that has its grant, or of the host (R208, R221). -/
def execHomeAckReceive (txn die : Nat) (s : State) : Host.Outcome State Fault Refusal :=
  match s.txn? txn with
  | none => .next s
  | some t =>
    if t.granted then
      if t.grantAck && die == t.from_ then
        match s.ackArrives t die with
        | (s, true) => .next (s.dropTxn txn)
        | (s, false) => .next s
      else .next s
    else
      let t' := { t with acks := t.acks.filter (· != die), targets := t.targets.filter (·.1 != die) }
      if die = hostHolder then
        if t.targets.any (·.1 == hostHolder) then .next ((s.modTxn txn fun _ => t').advanceTxn t') else .next s
      else if t.acks.contains die then
        match s.ackArrives t die with
        | (s, true) => .next ((s.modTxn txn fun _ => t').advanceTxn t')
        | (s, false) => .next s
      else .next s

/-! ## The end of a lease at its home (R218, R220, R221) -/

/-- The count of regions whose data a lapse has lost. -/
def State.countLapses (s : State) (home n : Nat) : State :=
  s.modDie home fun d => { d with lapses := (List.range n).foldl (fun n _ => satInc n) d.lapses }

/-- What a transaction still awaits of a die whose lease has lapsed: shared copies are taken as given up; dirty data that the owner has
not supplied is lost, the entry flagged, and the request that asked for it is the next access of R218. -/
def State.lapseTxn (s : State) (die : Nat) (t : Txn) : State :=
  let owed := t.targets.any fun x => x.1 == die && x.2 != .inval
  let t' := { t with targets := t.targets.filter (·.1 != die), acks := t.acks.filter (· != die), hostDue := if die = hostHolder then none else t.hostDue }
  let s := s.modTxn t.id fun _ => t'
  if !owed then s.advanceTxn t'
  else
    let flag (r : Region) : Region := if r.covers t.die t.line then { r with st := .i, hold := 0, owner := 0, llost := true } else r
    let s := { s with regions := s.regions.map flag }.countLapses t.die 1
    if t.evict then s.advanceTxn t'
    else
      let s := match s.lost? t.die t.line with
        | some r => s.takeLost r
        | none => s
      (s.dropTxn t.id).replyFault t.die ((s.liveReqs t.reqs).filter fun r => r.stage == .inTxn) leaseCode

/-- A lease lapses at its home (R218). The holder has dropped its copies by then (R219), and data that it was writing back comes too
late. -/
def State.lapseAt (s : State) (home die : Nat) : State :=
  let s := s.dropHome die home
  let s := { s with wbs := s.wbs.map fun (w : WriteBack) => if w.die == die && w.home == home && !w.window then { w with owner := false } else w }
  let owed := s.txns.filter fun t => t.die == home && !t.granted && (t.targets.any (·.1 == die) || t.acks.contains die)
  let lost := (s.regions.filter fun r => r.die == home && r.st == RState.e && r.owner == die
    && !owed.any fun t => r.covers home t.line).length
  let s := { s with regions := s.regions.map fun (r : Region) =>
    if r.die != home then r
    else if r.st == RState.e && r.owner == die && !owed.any (fun t => r.covers home t.line) then { r with st := .i, owner := 0, hold := 0, llost := true }
    else if r.hold.getLsbD die then
      { r with hold := r.hold &&& ~~~(bitAt die), st := if r.hold &&& ~~~(bitAt die) = 0 then .i else r.st }
    else r }
  (owed.foldl (fun s t => s.lapseTxn die t) (s.countLapses home lost)).sweep

/-- A host that answers no back-invalidate in time loses its lease (R221). -/
def execBackinvalTimeout (txn : Nat) (s : State) : Host.Outcome State Fault Refusal :=
  match s.txn? txn with
  | none => .next s
  | some t =>
    match t.hostDue with
    | none => .next s
    | some due =>
      if t.targets.any (·.1 == hostHolder) && decide (due ≤ s.clockOf t.die) then .next (s.lapseAt t.die hostHolder) else .next s

/-! ## Write-backs and evictions (R210, R214) -/

/-- Whether a die owns another line of an entry, or is writing one back. -/
def State.ownsMore (s : State) (r : Region) (die ln : Nat) : Bool :=
  s.lines.any (fun l => l.die == die && l.home == r.die && l.excl && l.line != ln && r.covers r.die l.line)
    || s.wbs.any fun w => w.die == die && w.home == r.die && w.owner && w.line != ln && r.covers r.die w.line

/-- A write-back at its home (R210, R224): the owner's dirty bytes and a window's are merged, all others are discarded. The entry of an
owner that keeps no line of it has no holder any more (log entry 80). An owner that has been asked for the line is still its owner. -/
def State.mergeBack (s : State) (w : WriteBack) : State :=
  let merged := (List.range 64).map fun i =>
    if w.mask.getLsbD i then w.data.getD i 0 else cellGet s.mem (64 * w.line + i)
  let entry := (s.region? w.home w.line).filter fun r => r.st == .e && r.owner == w.die
  let asked := s.txns.any fun t => t.die == w.home && decide (t.base ≤ w.line) && decide (w.line < t.base + 2 ^ t.size)
    && t.targets.any fun x => x.1 == w.die && x.2 != .inval
  if w.window || (w.owner && (w.home == w.die || asked)) then s.writeLine w.line merged
  else
    match entry with
    | some r =>
      if !w.owner then s
      else
        let s := s.writeLine w.line merged
        if w.keep || s.ownsMore r w.die w.line then s
        else s.modRegion w.home r.base fun x => { x with st := .i, hold := 0, owner := 0 }
    | none => s

/-- A write-back arrives, in the order in which its die sent it, and is acknowledged. -/
def execWriteBackArrival (id : Nat) (s : State) : Host.Outcome State Fault Refusal :=
  match s.wbs.find? fun w => w.id == id with
  | none => .next s
  | some w =>
    if w.taken then .next s
    else if w.home = w.die then
      if s.wbs.any fun x => x.die == w.die && x.line == w.line && x.home == w.home && decide (x.id < w.id) then .next s
      else .next ((s.mergeBack w).endWb id)
    else
      match s.bringLoad w.die w.home (.wb id) with
      | (s, false) => .next s
      | (s, true) =>
        let s := (s.mergeBack w)
        let s := { s with wbs := modWhere s.wbs (fun x => x.id == id) fun x => { x with taken := true, owner := false } }
        .next (s.send w.home w.die 1 (.wbAck id))

/-- A cache gives up a line. -/
def execLineEviction (die : Nat) (core : Option Nat) (line : Nat) (s : State) : Host.Outcome State Fault Refusal :=
  match s.lines.find? fun l => l.die == die && l.line == line && l.core == core with
  | none => .next s
  | some l => .next (s.evictLine l)

end Sys2Proof.Machine
end

