-- ==== Sys2Proof/Machine/Notice.lean ====
section
/-! DEFINITION. The order network of a die (R206, R207): a request takes its slot, is served by its L1 or its die's RDC, or goes to
its home; non-coherent windows (R224); combined stores (R213). -/

namespace Sys2Proof.Machine

/-! ## The lanes of one message -/

/-- The lanes of one instruction on one line, the lowest first. -/
def State.groupOf (s : State) (r : MemReq) : List MemReq :=
  s.reqs.filter fun q => q.split == r.split && q.stage == .ready && q.line == r.line

/-- Whether the message is not offered to the order network yet: an earlier access of its troupe to a common location is not performed
(R233), or a store or atomic of its die to the line is under way, which what the die answers must follow (R206, R388). -/
def State.noticeHeld (s : State) (rs : List MemReq) : Bool :=
  rs.any fun r => s.blockedReq r || (!memWrites r.op && s.storeUnder r.die r.line)

def State.copy? (s : State) (r : MemReq) (core : Option Nat) (window : Bool) : Option CLine :=
  s.lines.find? fun l => l.die == r.die && l.core == core && l.line == r.line && l.home == r.home && l.window == window
def State.l1? (s : State) (r : MemReq) : Option CLine := s.copy? r (some r.core) false
def State.rdc? (s : State) (r : MemReq) : Option CLine := s.copy? r none false

/-- Whether a copy holds every byte that a message reads; a typed access reads the whole block. -/
def CLine.holds (l : CLine) (rs : List MemReq) : Bool :=
  l.valid == wholeLine || rs.all fun r =>
    !(r.typed && memTyped r.op) && (List.range r.bytes).all fun i => l.valid.getLsbD (r.loc % 64 + i)

/-- The lanes of a message answered on their die. -/
def State.answerHere (s : State) (rs : List MemReq) : State := s.replyReqs ((rs.head?.map (·.die)).getD 0) rs

/-! ## Served on the die (R203, R207) -/

/-- The untracked copy of the issuing L1 refreshed by a load that its RDC serves as the home would (R205, R207). -/
def State.refreshL1 (s : State) (r : MemReq) (b : List Byte) : State :=
  match s.l1? r with
  | some l => if l.tracked || l.excl then s else { s with lines := s.lines.map fun x => if x == l then { x with data := b } else x }
  | none => s

/-- A load served by a copy; what it leaves in the L1 follows its policy. -/
def State.serveLoad (s : State) (r : MemReq) (rs : List MemReq) (l : CLine) (fill : Bool) : State :=
  let (s, _) := s.lineReqs rs l.data
  let s :=
    if !fill then s
    else if r.pol == .wt then s.refreshL1 r l.data
    else s.putLine ⟨r.die, some r.core, r.line, l.data, wholeLine, 0, r.ask.tracks && (l.tracked || l.excl), false, false, r.home⟩
  s.answerHere rs

/-- A store performed in the RDC that holds the line exclusive: the other L1s drop their tracked copies, and the issuing one follows its
policy (R203, R207). -/
def State.storeInRdc (s : State) (r : MemReq) (rs : List MemReq) (l : CLine) : State :=
  let (s, b) := s.lineReqs rs l.data
  let s := if wholeWrite rs then s.undamage r.line else s
  let s := rs.foldl State.ownCopies s
  let own (x : CLine) : Bool := x.core == some r.core && x.die == r.die && x.line == r.line && x.home == r.home && !x.window
  let s := { s with lines := s.lines.map fun x => if own x then { x with excl := false, dirty := 0 } else x }
  (s.putLine { l with data := b, dirty := l.dirty ||| storeMask rs, excl := true, tracked := true }).answerHere rs

/-- The copy in the issuing L1 that serves a load: an exclusive one serves any, a tracked one all but `.wt`, an untracked one `.si`
alone (R203). -/
def State.l1For (s : State) (r : MemReq) (p : Policy) : Option CLine :=
  (s.l1? r).filter fun l => l.excl || (l.tracked && p != .wt) || p == .si

/-- The copy in the RDC that serves a load: for the lines that it tracks the RDC acts as the home does (R207). -/
def State.rdcFor (s : State) (r : MemReq) (p : Policy) : Option CLine :=
  (s.rdc? r).filter fun l => l.tracked || l.excl || p == .si

/-- What a die does itself with a message outside non-coherent windows; none when the home must serve it. -/
def State.serveHere (s : State) (r : MemReq) (rs : List MemReq) : Option State :=
  match r.ask with
  | .atomic => none
  | .load p =>
    match s.l1For r p with
    | some l => some (s.serveLoad r rs l false)
    | none =>
      if r.home = r.die then none
      else
        let s := s.gatherRdc r.die r.line
        (s.rdcFor r p).map fun l => s.serveLoad r rs l true
  | .own =>
    match (s.l1? r).filter (·.excl) with
    | some _ => some ((s.storeInL1 rs).answerHere rs)
    | none =>
      if r.home = r.die then none
      else
        let s := s.gatherRdc r.die r.line
        ((s.rdc? r).filter (·.excl)).map fun _ => (s.storeInL1 rs).answerHere rs
  | .merge _ =>
    if r.home = r.die then none
    else
      let s := s.gatherRdc r.die r.line
      ((s.rdc? r).filter (·.excl)).map fun l => s.storeInRdc r rs l

/-! ## Non-coherent windows (R224) -/

/-- A window store in a cached copy, without a fetch. -/
def State.windowStore (s : State) (r : MemReq) (rs : List MemReq) (core : Option Nat) : State :=
  let old : CLine := (s.copy? r core true).getD ⟨r.die, core, r.line, List.replicate 64 0, 0, 0, false, false, true, r.home⟩
  let (s, b) := s.lineReqs rs old.data
  let m := storeMask rs
  (s.putLine { old with data := b, valid := old.valid ||| m, dirty := old.dirty ||| m }).answerHere rs

/-- An atomic's window copies leave for the home before it. -/
def State.windowFlush (s : State) (r : MemReq) : State :=
  (s.lines.filter fun l => l.window && l.die == r.die && l.line == r.line && l.home == r.home && (l.core == none || l.core == some r.core)).foldl
    (fun s l => (s.treatLine .inv l).1) s

/-- A window load: the L1's copy where it holds the bytes, else the RDC's, which fills the L1 where the window is cached there. -/
def State.windowLoad (s : State) (r : MemReq) (rs : List MemReq) (cl : WinCl) : Option State :=
  match (if cl = .both then (s.copy? r (some r.core) true).filter (·.holds rs) else none) with
  | some l => some ((s.lineReqs rs l.data).1.answerHere rs)
  | none =>
    if cl = .uncached || r.home = r.die then none
    else
      ((s.copy? r none true).filter (·.holds rs)).map fun l =>
        let (s, b) := if cl = .both then s.fillWindow r (some r.core) l.data l.valid else (s, l.data)
        (s.lineReqs rs b).1.answerHere rs

def State.serveWindow (s : State) (r : MemReq) (rs : List MemReq) (cl : WinCl) : Option State :=
  match r.ask with
  | .atomic => none
  | .load _ => s.windowLoad r rs cl
  | _ =>
    if cl = .both then some (s.windowStore r rs (some r.core))
    else if cl = .rdcOnly && r.home != r.die then some (s.windowStore r rs none)
    else none

/-! ## On to the home -/

/-- The cycle by which a request that leaves the package must be answered (R44). -/
def State.dueOf (s : State) (r : MemReq) : Option Nat :=
  if r.kind = 0 || r.kind = 15 then none else some (s.clockOf r.die + 2 ^ s.timeoutK)

def State.setStage (s : State) (rs : List MemReq) (st : Stage) : State :=
  let due := (rs.head?.map s.dueOf).getD none
  rs.foldl (fun s r => s.modReq r.id fun q => { q with stage := st, deadline := due }) s

def State.combine? (s : State) (die ln : Nat) : Option Combine := s.combines.find? fun c => c.die == die && c.line == ln

/-- The combined stores of an entry leave in one message: one line's bytes with a mask. -/
def State.flushCombine (s : State) (c : Combine) : State :=
  let s := { s with combines := s.combines.filter fun x => !(x.die == c.die && x.line == c.line) }
  match s.liveReqs c.reqs with
  | [] => s
  | r :: rs => s.send c.die r.home 0 (.mem ((r :: rs).map MemReq.id))

/-- Whether stores may join those of an entry: of one policy, on one home's line, all in windows or none. -/
def State.joins (s : State) (c : Combine) (r : MemReq) : Bool :=
  (s.liveReqs c.reqs).all fun q => q.ask == r.ask && q.home == r.home && q.win == r.win

/-- A message leaves for its home: on the die itself, over the mesh, or as combined stores (R213). -/
def State.goHome (s : State) (r : MemReq) (rs : List MemReq) : State :=
  let ids := rs.map MemReq.id
  if r.home = r.die then (s.setStage rs .atHome).joinHome ids
  else
    let s := s.setStage rs .travelling
    let alone (s : State) : State := match r.ask with
      | .merge _ => { s with combines := s.combines ++ [⟨r.die, r.line, ids⟩] }
      | _ => s.sendLanesTo r.die r.home rs
    match s.combine? r.die r.line with
    | none => alone s
    | some c =>
      if (match r.ask with | .merge _ => true | _ => false) && s.joins c r then
        { s with combines := s.combines.map fun x => if x.die == c.die && x.line == c.line then { x with reqs := x.reqs ++ ids } else x }
      else alone (s.flushCombine c)

/-- The number of the slot that a message takes on its die (R206). -/
def State.inSlot (s : State) (r : MemReq) (rs : List MemReq) : State :=
  let n := (s.die r.die).slots
  rs.foldl (fun s q => s.modReq q.id fun q => { q with slot := n }) (s.takeSlot r.die)

/-- A message in its slot. -/
def State.notice (s : State) (r : MemReq) (rs : List MemReq) : State :=
  let s := s.inSlot r rs
  if r.kind = 10 then (s.setStage rs .travelling).sendPeer rs
  else if r.kind = 15 then (s.setStage rs .atHome).joinHome (rs.map MemReq.id)
  else
    match r.win with
    | some cl =>
      match s.serveWindow r rs cl with
      | some s => s
      | none => (if r.ask = .atomic then s.windowFlush r else s).goHome r rs
    | none =>
      match s.serveHere r rs with
      | some s => s
      | none => s.goHome r rs

/-- Whether an offered message may take its slot. -/
def State.noticeReady (s : State) (o : Offered) : Bool :=
  match s.req? o.req with
  | none => true
  | some r => r.stage != .ready || !s.noticeHeld (s.groupOf r)

/-- The next slot of a die's order network goes to the first message, by cycle and core, that may take it (R206); releases whose waits are
over join first. What acts, acts in the order of the slots. -/
def execOrderNetworkNotice (die : Nat) (s : State) : Host.Outcome State Fault Refusal :=
  let s := s.admitHeld die
  match (s.die die).notices.find? s.noticeReady with
  | none => .next s
  | some o =>
    let s1 := s.modDie die fun d => { d with notices := d.notices.erase o }
    match s.req? o.req with
    | none => .next s1
    | some r => if r.stage ≠ .ready then .next s1 else .next (s1.notice r (s.groupOf r))

def execRdcCombineFlush (die line : Nat) (s : State) : Host.Outcome State Fault Refusal :=
  match s.combine? die line with
  | none => .next s
  | some c => .next (s.flushCombine c)

end Sys2Proof.Machine
end

