-- ==== Sys2Proof/Machine/LeaseEv.lean ====
section
/-! DEFINITION. Leases between dies (R216 to R220): renewals, lapses, drops. -/

namespace Sys2Proof.Machine

/-- Whether a die holds tracked copies of a home's lines (R216). -/
def State.holdsOf (s : State) (die home : Nat) : Bool :=
  s.lines.any fun l => l.die == die && (l.tracked || l.excl) && l.home == home

/-- The RDC sends a renewal, with the life that the home had when it granted the lease (R220). -/
def State.renew (s : State) (l : Lease) : State :=
  if l.renewing || l.home == l.die || !s.holdsOf l.die l.home then s
  else
    let now := s.clockOf l.die
    (s.modLease l.home l.die fun l => { l with renewing := true, sent := now }).sendWith l.life l.die l.home 0 .renew

def execLeaseRenewalSend (die home : Nat) (s : State) : Host.Outcome State Fault Refusal :=
  .next ((s.lease? home die).elim s s.renew)

/-- The renewals of a die that have become due go out: 2^(LEASELOG2 - 1) of its cycles after the last one (R217). -/
def State.renewDue (s : State) (die : Nat) : State :=
  (s.leases.filter fun l => l.die == die && decide (l.sent + 2 ^ (l.len - 1) ≤ s.clockOf die)).foldl State.renew s

/-- A renewal at the home: the lease starts anew, and the acknowledgement leaves with its length (R217, R218). One of an earlier life is
refused (R220). -/
def execLeaseRenewalReceive (home die : Nat) (s : State) : Host.Outcome State Fault Refusal :=
  match s.bringLoad die home .renew with
  | (s, false) => .next s
  | (s, true) =>
    let live := (s.lease? home die).any fun l => l.life == s.lifeOf home
    let now := s.clockOf home
    let s := if live then s.modLease home die fun l => { l with granted := now } else s
    .next (s.send home die 1 (.renewed (if live then some (s.die home).leaseLog2 else none)))

/-- The acknowledgement at the holder, or the refusal, after which it drops the home's lines (R219, R220). -/
def execRenewalAckReceive (die home : Nat) (s : State) : Host.Outcome State Fault Refusal :=
  match s.bringIf home die (fun p => match p with | .renewed _ => true | _ => false) with
  | (s, none) => .next s
  | (s, some p) =>
    let now := s.clockOf die
    match p.load with
    | .renewed (some n) => .next (s.modLease home die fun l => { l with renewing := false, acked := now, len := n })
    | _ =>
      let s := (s.dropHome die home).learnLife die home
      .next { s with leases := s.leases.filter fun x => !(x.home == home && x.die == die) }

/-- The home's clock has passed the lease (R218). -/
def execLeaseLapse (home die : Nat) (s : State) : Host.Outcome State Fault Refusal :=
  match s.lease? home die with
  | none => .next s
  | some l =>
    if l.life == s.lifeOf home && decide (l.granted + 2 ^ (s.die home).leaseLog2 ≤ s.clockOf home) then
      let s := s.lapseAt home die
      .next { s with leases := s.leases.filter fun x => !(x.home == home && x.die == die) }
    else .next s

/-- The holder's clock has passed three quarters of the lease without an acknowledgement (R219). -/
def execLeaseDrop (die home : Nat) (s : State) : Host.Outcome State Fault Refusal :=
  match s.lease? home die with
  | none => .next s
  | some l =>
    if decide (l.acked + (2 ^ l.len - 2 ^ (l.len - 2)) ≤ s.clockOf die) then .next (s.dropHome die home) else .next s

end Sys2Proof.Machine
end

