-- ==== Sys2Proof/Machine/Tables.lean ====
section
/-! DEFINITION. What the memory core and the shard engine do to page tables: frames of kind 0x0 (R25, R81), entries (R160, R161), the
leaves of a context, and the change of a leaf (R170). -/

namespace Sys2Proof.Machine

/-! ## Frames -/

/-- The first location of a frame of kind 0x0. -/
def Ctx.frameLoc (c : Ctx) (f : Nat) : Nat := (c.locOf (f * 4096)).getD 0

/-- A byte range of memory that reads as zeros, with no copy or mark of its lines left. -/
def State.zeroRange (s : State) (loc n : Nat) : State :=
  let inside (l : Nat) : Bool := decide (loc ≤ 64 * l) && decide (64 * l < loc + n)
  { s with
    mem := s.mem.filter fun x => !(decide (loc ≤ x.1) && decide (x.1 < loc + n))
    lines := s.lines.filter fun l => !inside l.line
    wbs := s.wbs.map fun w => if inside w.line then { w with mask := 0 } else w
    dies := s.dies.map fun d => { d with damaged := d.damaged.filter fun l => !inside l, failing := d.failing.filter fun l => !inside l } }

/-- Whether invalidations of a page are outstanding. -/
def State.stale (s : State) (key page : Nat) : Bool := s.invals.any fun i => i.ctx == key && i.page == page

/-- Requests translated to a frame and not performed. -/
def State.frameBusy (s : State) (loc : Nat) : Bool :=
  s.reqs.any fun r => !r.over && r.loc != 0 && r.loc / 4096 == loc / 4096

/-- Whether a freed frame may be reused: its invalidations are acknowledged, and no request translated to it is under way (R170). -/
def State.frameGone (s : State) (x : Frame) : Bool :=
  match s.ctx? x.ctx, x.going with
  | some c, some page => !s.stale x.ctx page && !s.frameBusy (c.frameLoc x.f)
  | some _, none => false
  | none, _ => true

/-- Whether a frame of a context is free: a home takes it, and no context has it (R25). -/
def State.frameFree (s : State) (c : Ctx) (f : Nat) : Bool :=
  match c.homeFrame f with
  | none => false
  | some h => s.frames.all fun x => match s.ctx? x.ctx with | some c' => c'.homeFrame x.f != some h || s.frameGone x | none => true

/-- The first frame that meets a test, from a place of the memory core's choice: none that a home takes lies above 2^28 (R25). -/
def State.pickFrame (s : State) (ok : Nat → Bool) : Option Nat := firstFrom ok (2 ^ 28) (2 ^ 28) (Config.frameStart s.fresh)

/-- A zero-filled frame taken for a context; `ok` limits the choice. -/
def State.takeFrame (s : State) (c : Ctx) (ok : Nat → Bool) : Option (Nat × State) :=
  match s.pickFrame fun f => ok f && s.frameFree c f with
  | none => none
  | some f =>
    let die := (c.homeFrame f).elim 0 Prod.fst
    let fr : Frame := ⟨c.key, f, s.lifeOf die, none⟩
    let s := s.zeroRange (c.frameLoc f) 4096
    some (f, { s with frames := (s.frames.filter fun x => !s.frameGone x) ++ [fr], fresh := s.fresh + 1 })

def State.freeFrame (s : State) (c : Ctx) (f : Nat) : State :=
  { s with frames := s.frames.filter fun x => !(x.ctx == c.key && x.f == f) }

/-- A frame that is free once the invalidations of a page are over. -/
def State.letGo (s : State) (c : Ctx) (f page : Nat) : State :=
  { s with frames := modWhere s.frames (fun x => x.ctx == c.key && x.f == f) fun x => { x with going := some page } }

/-- A frame's home die has reset since the frame was taken, or is in reset (R188). -/
def State.frameLost (s : State) (c : Ctx) (f : Nat) : Bool :=
  let die := (c.homeFrame f).elim 0 Prod.fst
  (s.router die).inReset || s.frames.any fun x => x.ctx == c.key && x.f == f && x.life != s.lifeOf die

/-! ## Entries -/

/-- An entry written by the memory core or the shard engine. -/
def State.setPte (s : State) (loc : Nat) (p : DWord) : State := s.viewWrite loc (natLe 8 p.toNat)

/-- An entry with another share state and frame. -/
def ptePoint (p : DWord) (share f : Nat) : DWord :=
  (p &&& 0x1FF0000000000FFF#64) ||| BitVec.ofNat 64 (share * 2 ^ 61 + f % 2 ^ 40 * 2 ^ 12)

/-- A leaf of the tables: its virtual address, level, entry and location. -/
structure LeafAt where
  va : Nat
  level : Nat
  pte : DWord
  loc : Nat
  deriving DecidableEq, Repr

/-- Every leaf under a table at a level (1 to 4). -/
def State.leavesFrom (s : State) (c : Ctx) : Nat → Nat → Nat → List LeafAt
  | 0, _, _ => []
  | level + 1, table, va =>
    (List.range 512).flatMap fun i =>
      match c.locOf (table + 8 * i) with
      | none => []
      | some loc =>
        let p := s.viewD loc
        let va := va + i * 2 ^ (12 + 9 * level)
        if p = 0 then []
        else if pteLeaf p then (if pteShare p = 0 then [] else [⟨va, level + 1, p, loc⟩])
        else if pteShare p = 1 then s.leavesFrom c level (ptePfn p * 4096) va
        else []

def State.leaves (s : State) (c : Ctx) : List LeafAt :=
  if c.ptb.getLsbD 0 then s.leavesFrom c 4 (fieldD c.ptb 51 12 * 4096) 0 else []

/-- The tables under a table, itself first. -/
def State.tablesFrom (s : State) (c : Ctx) : Nat → Nat → List Nat
  | 0, _ => []
  | level + 1, f =>
    f :: (List.range 512).flatMap fun i =>
      match c.locOf (f * 4096 + 8 * i) with
      | none => []
      | some loc =>
        let p := s.viewD loc
        if p = 0 || pteLeaf p || pteShare p != 1 then [] else s.tablesFrom c level (ptePfn p)

/-- The leaf of a 4 KiB page. -/
def State.pageLeaf (s : State) (c : Ctx) (page : Nat) : Option LeafAt :=
  match s.walk c (BitVec.ofNat 64 (4096 * page)) with
  | .leaf p level loc => some ⟨4096 * page, level, p, loc⟩
  | _ => none

/-- The invalidations of a page's cached translations on every die of its context, for a change (R170). -/
def State.invalidate (s : State) (c : Ctx) (page change : Nat) : State :=
  { s with invals := s.invals ++ c.dies.map fun d => ⟨d, c.key, page, change⟩ }

/-- A leaf changed under R170: the entry is written, then the invalidations leave. -/
def State.changeLeaf (s : State) (c : Ctx) (page loc : Nat) (p : DWord) : State :=
  ({ s.setPte loc p with fresh := s.fresh + 1 }).invalidate c page s.fresh

end Sys2Proof.Machine
end

