-- ==== Sys2Proof/Machine/Shard.lean ====
section
/-! DEFINITION. The shard engine (R179 to R202): groups, gathers, partial pages, deliveries, reductions and rounds. -/

namespace Sys2Proof.Machine

/-! ## Groups (R180, R182, R185, R186) -/

def ShGroup.reset (g now : Nat) : ShGroup := ⟨g, 0, [], (List.range 64).map fun m => (m, now), now, [], [], []⟩
def Ctx.group (c : Ctx) (g : Nat) : ShGroup := (c.groups.find? fun x => x.group == g).getD (ShGroup.reset g 0)
def Ctx.setGroup (c : Ctx) (g : ShGroup) : Ctx := { c with groups := (c.groups.filter fun x => x.group != g.group) ++ [g] }
def State.modGroup (s : State) (key g : Nat) (f : ShGroup → ShGroup) : State := s.modCtx key fun c => c.setGroup (f (c.group g))

/-- The entry of a group that meets the checks of R181. -/
def State.liveEntry (s : State) (c : Ctx) (g : Nat) : Option (List Byte) :=
  if c.shard.getLsbD 0 then (s.groupEntry c g).filter (groupOk c) else none

/-- The blocks that member k of n owns: the first, and how many. -/
def shardBlocks (n k : Nat) : Nat × Nat := (64 * k / n, 64 * (k + 1) / n - 64 * k / n)

/-- The members other than this one that are not declared dead. -/
def liveOthers (e : List Byte) (g : ShGroup) : List Nat :=
  (List.range (geN e)).filter fun m => m != geSelf e && !g.dead.contains m

def ShGroup.lifeKnown (g : ShGroup) (m : Nat) : BitVec 16 := ((g.lives.find? fun x => x.1 == m).map Prod.snd).getD 0

/-- A message leaves for another member through the fabric, in order behind this device's earlier ones to it (R43, R184). -/
def State.tell (s : State) (c : Ctx) (g peer : Nat) (e : List Byte) (kind : ShKind) (page : Nat) (round : BitVec 16)
    (role rfmt lost : Bool) (data : List Byte) : State :=
  let m : ShardMsg := ⟨c.key, g, geSelf e, page, geGid e, round, c.memberLife, (c.group g).lifeKnown peer, role, rfmt, lost, data⟩
  match c.peers.find? fun p => p.e == gePeer e peer with
  | some p => s.sendFab p.pod none (.note (.shard peer kind m))
  | none => s

/-- The same message to several members. -/
def State.tellAll (s : State) (c : Ctx) (g : Nat) (tos : List Nat) (e : List Byte) (kind : ShKind) (page : Nat) (round : BitVec 16)
    (lost : Bool) : State :=
  tos.foldl (fun s m => s.tell c g m e kind page round false false lost []) s

/-- A message from a member renews its lease (R186). -/
def State.heard (s : State) (c : Ctx) (g m : Nat) : State :=
  s.modGroup c.key g fun x => { x with heard := (x.heard.filter fun h => h.1 != m) ++ [(m, s.clockOf c.lowDie)] }

/-- Bytes read from and written to a frame at its coherence point. -/
def State.frameRead (s : State) (c : Ctx) (f ofs n : Nat) : List Byte := s.view (c.frameLoc f + ofs) n
def State.frameWrite (s : State) (c : Ctx) (f ofs : Nat) (b : List Byte) : State := s.viewWrite (c.frameLoc f + ofs) b

/-- Why a read of a frame fails (R188). -/
def State.frameFault (s : State) (c : Ctx) (f ofs n : Nat) : Option Byte :=
  match c.locOf (f * 4096) with
  | none => some xlate
  | some loc =>
    if (s.badLines (loc + ofs) n).isSome then s.badLines (loc + ofs) n
    else if (s.lostIn? c c.lowDie (loc + ofs) n).isSome then some leaseCode
    else none

def Ctx.frameDie (c : Ctx) (f : Nat) : Nat := (c.homeFrame f).elim 0 Prod.fst

/-- A page of the sharded family with its entry. -/
def State.shardLeaf (s : State) (c : Ctx) (page : Nat) : Option LeafAt :=
  (s.pageLeaf c page).filter fun l => pteShare l.pte = 2 || pteShare l.pte = 3 || pteShare l.pte = 4

/-- The members of a group but this one. -/
def othersOf (e : List Byte) : List Nat := (List.range (geN e)).filter (· != geSelf e)

/-- The partial table's entry of a page (R193). -/
def State.partial? (s : State) (key page : Nat) : Option Part := s.parts.find? fun p => p.ctx == key && p.page == page
def State.modPartial (s : State) (key page : Nat) (f : Part → Part) : State :=
  { s with parts := modWhere s.parts (fun p => p.ctx == key && p.page == page) f }

/-- The shard frame of a page (R183). -/
def State.shardFrame (s : State) (c : Ctx) (page : Nat) : Option Nat :=
  match s.partial? c.key page with
  | some p => some p.shardFrame
  | none => (s.shardLeaf c page).map fun l => ptePfn l.pte % 2 ^ 40

/-! ## Reductions (R195, R196) -/

/-- Bytes of the staging pool in use by a group. -/
def State.stageUsed (s : State) (key g : Nat) : Nat :=
  ((s.reductions.filter fun r => r.ctx == key && r.group == g).map Reduction.reserved).foldl (· + ·) 0

/-- The record of a page and round that takes contributions. One that is done has ended: it only counts towards DONE (R195, R196). -/
def State.reduction? (s : State) (key page : Nat) (r : BitVec 16) : Option Reduction :=
  s.reductions.find? fun x => x.ctx == key && x.page == page && x.round == r && x.st == .collecting
def State.modReduction (s : State) (key page : Nat) (r : BitVec 16) (f : Reduction → Reduction) : State :=
  { s with reductions := modWhere s.reductions (fun x => x.ctx == key && x.page == page && x.round == r && x.st == .collecting) f }

/-- The record of a page that is being added to the blocks. -/
def State.addingTo (s : State) (key page : Nat) : Option Reduction :=
  s.reductions.find? fun x => x.ctx == key && x.page == page && x.st == .adding

/-- An open of a member in a round: none when the staging pool cannot reserve its room. -/
def State.openFor (s : State) (c : Ctx) (g page : Nat) (e : List Byte) (m : Nat) (life : BitVec 16) (r : BitVec 16) : Option State :=
  let b := (shardBlocks (geN e) (geSelf e)).2
  let room (n : Nat) : Bool := decide (s.stageUsed c.key g + n ≤ geStageSize e)
  match s.reduction? c.key page r with
  | none =>
    if room (geN e * b * 64) then
      let red : Reduction := ⟨c.frameDie ((s.shardFrame c page).getD 0), c.key, page, g, r, [⟨m, life, 1, []⟩], geN e * b * 64, .collecting⟩
      some { s with reductions := s.reductions ++ [red] }
    else none
  | some x =>
    match x.contribs.find? fun k => k.member == m with
    | none => some (s.modReduction c.key page r fun x => { x with contribs := x.contribs ++ [⟨m, life, 1, []⟩] })
    | some _ =>
      if room (b * 64) then
        some (s.modReduction c.key page r fun x => { x with
          reserved := x.reserved + b * 64
          contribs := x.contribs.map fun k => if k.member == m then { k with opened := k.opened + 1 } else k })
      else none

/-- A contribution staged. -/
def State.stage (s : State) (key page : Nat) (r : BitVec 16) (m : Nat) (data : List Byte) : State :=
  s.modReduction key page r fun x => { x with
    contribs := x.contribs.map fun k => if k.member == m then { k with staged := k.staged ++ [data] } else k }

/-- A record that ends, with LOST or without. -/
def State.endReduction (s : State) (x : Reduction) (lost : Bool) : State :=
  { s with reductions := modWhere s.reductions (· == x) fun x => { x with contribs := [], reserved := 0, st := .done lost } }

/-- A record that ends with LOST (R195). -/
def State.loseRecord (s : State) (x : Reduction) : State :=
  (s.endReduction x true).modDie x.die fun d => { d with roundLost := satInc d.roundLost }

/-- One element added in its format. -/
def addElem (f : Fmt) (n : Nat) (a b : List Byte) : List Byte :=
  natLe n (f.code (f.round .rne ((f.value (leNat a)).add (f.value (leNat b)))))

/-- Contributions added to the owned blocks element by element. -/
def addBlocks (fp32fmt : Bool) (shard c : List Byte) : List Byte :=
  let n := if fp32fmt then 4 else 2
  (List.range (shard.length / n)).flatMap fun i =>
    addElem (if fp32fmt then fp32 else bf16) n ((shard.drop (n * i)).take n) ((c.drop (n * i)).take n)

/-- The addition of a record: ascending members, each member's contributions as they arrived. -/
def State.addRecord (s : State) (c : Ctx) (e : List Byte) (x : Reduction) : State :=
  match s.shardFrame c x.page, s.shardLeaf c x.page with
  | some f, some l =>
    let (b0, b) := shardBlocks (geN e) (geSelf e)
    let order := (List.range (geN e)).flatMap fun m => (x.contribs.filter fun k => k.member == m).flatMap Contrib.staged
    let sum := order.foldl (fun acc d => addBlocks (pteRfmt l.pte) acc d) (s.frameRead c f (64 * b0) (64 * b))
    (s.frameWrite c f (64 * b0) sum).endReduction x false
  | _, _ => s.loseRecord x

/-- Whether every member not declared dead has closed a round. -/
def ShGroup.allClosed (g : ShGroup) (e : List Byte) (r : BitVec 16) : Bool :=
  (List.range (geN e)).all fun m => g.dead.contains m || g.closes.contains (m, r)

/-- The records of a round that are complete enter adding; when all are done the owner sends DONE to every other member, and the round's
CLOSE messages have served (R195, R196). -/
def State.settleRound (s : State) (key g : Nat) (r : BitVec 16) : State :=
  match s.ctx? key with
  | none => s
  | some c =>
    match s.liveEntry c g with
    | none => s
    | some e =>
      if !(c.group g).allClosed e r then s
      else
        let mine (s : State) : List Reduction := s.reductions.filter fun x => x.ctx == key && x.group == g && x.round == r
        let ready (x : Reduction) : Bool := x.ctx == key && x.group == g && x.round == r && x.st == .collecting
          && x.contribs.all fun k => k.staged.length == k.opened
        let s := { s with reductions := modWhere s.reductions ready fun x => { x with st := .adding } }
        if (mine s).any fun x => x.st == .collecting || x.st == .adding then s
        else
          let lost := (mine s).any fun x => x.st == .done true
          let s := { s with reductions := s.reductions.filter fun x => !(x.ctx == key && x.group == g && x.round == r) }
          let s := s.tellAll c g (othersOf e) e .done 0 r lost
          s.modGroup key g fun x => { x with closes := x.closes.filter fun k => k.2 != r, dones := x.dones ++ [(geSelf e, r, lost)] }

/-! ## Gathers (R187, R189, R190) -/

def State.gather? (s : State) (key page : Nat) : Option Gather := s.gathers.find? fun g => g.ctx == key && g.page == page
def State.modGather (s : State) (key page : Nat) (f : Gather → Gather) : State :=
  { s with gathers := modWhere s.gathers (fun g => g.ctx == key && g.page == page) f }

def State.failGather (s : State) (key page : Nat) : State :=
  match s.gather? key page, s.ctx? key with
  | some g, some c =>
    if g.fail then s
    else
      let s := s.modGather key page fun g => { g with fail := true }
      s.modDie (c.frameDie ((s.shardFrame c page).getD 0)) fun d => { d with gfail := satInc d.gfail }
  | _, _ => s

/-- A gather that has every member's blocks: the page is gathered, but not while its own blocks are being added to, which no mapping
reads then (R195). -/
def State.settleGather (s : State) (key page : Nat) : State :=
  match s.gather? key page, s.ctx? key with
  | some g, some c =>
    if g.fail || g.waiting != [] || (s.addingTo key page).isSome then s
    else
      match s.shardLeaf c page with
      | some l =>
        if pteShare l.pte = 2 then
          { s.changeLeaf c page l.loc (ptePoint l.pte 3 (ptePfn l.pte)) with
            gathers := s.gathers.filter fun x => !(x.ctx == key && x.page == page) }
        else s
      | none => s
  | _, _ => s

/-- A gather starts, or fails at once where a member is dead. -/
def State.startGather (s : State) (c : Ctx) (page : Nat) (l : LeafAt) (e : List Byte) : State :=
  if (s.gather? c.key page).isSome then s
  else
    let g := pteGroup l.pte
    let others := othersOf e
    let new : Gather := ⟨c.key, page, g, others, [], false⟩
    let s := { s with gathers := s.gathers ++ [new] }
    if others.any (c.group g).dead.contains then s.failGather c.key page
    else
      let s := others.foldl (fun s m => s.tell c g m e .gather page 0 (pteRole l.pte) (pteRfmt l.pte) false []) s
      s.settleGather c.key page

/-! ## Partial pages (R192 to R194) -/

/-- An open that has every answer: the page becomes partial. -/
def State.settleOpen (s : State) (key page : Nat) : State :=
  match s.partial? key page, s.ctx? key with
  | some p, some c =>
    if p.opening != [] || p.busy != [] || p.isOpen || p.delivering.isSome then s
    else
      match s.shardLeaf c page with
      | some l =>
        (s.changeLeaf c page l.loc (ptePoint l.pte 4 p.partFrame)).modPartial key page fun p => { p with isOpen := true }
      | none => s
  | _, _ => s

/-- A delivery begins: the page takes no more accesses. -/
def State.startDelivery (s : State) (c : Ctx) (page : Nat) : State :=
  match s.partial? c.key page, s.shardLeaf c page with
  | some p, some l =>
    if p.isOpen && p.delivering.isNone then
      (s.changeLeaf c page l.loc (ptePoint l.pte 2 p.shardFrame)).modPartial c.key page fun p => { p with delivering := some [] }
    else s
  | _, _ => s

/-- A delivery that every member has acknowledged: the partial frame and its entry are free. -/
def State.settleDelivery (s : State) (c : Ctx) (page : Nat) : State :=
  match s.partial? c.key page with
  | some p =>
    if !p.isOpen && p.delivering == some [] then
      { s.freeFrame c p.partFrame with parts := s.parts.filter fun x => !(x.ctx == c.key && x.page == page) }
    else s
  | none => s

/-- The DELIVER messages leave once no translation and no request reaches the partial frame (R170). A dead owner's DONE of the round
counts as received, with LOST (R197). -/
def State.pumpDelivery (s : State) (c : Ctx) (page : Nat) : State :=
  match s.partial? c.key page with
  | some p =>
    if !(p.isOpen && p.delivering.isSome) || s.stale c.key page || s.frameBusy (c.frameLoc p.partFrame) then s
    else
      match s.liveEntry c p.group with
      | none => s
      | some e =>
        let others := liveOthers e (c.group p.group)
        let part (m : Nat) : List Byte :=
          let (b0, b) := shardBlocks (geN e) m
          s.frameRead c p.partFrame (64 * b0) (64 * b)
        let gone (x : ShGroup) : ShGroup := { x with dones := x.dones ++ x.dead.map fun m => (m, p.round, true) }
        let s1 := others.foldl (fun s m => s.tell c p.group m e .deliver page p.round false false false (part m)) (s.modGroup c.key p.group gone)
        let s1 := s1.stage c.key page p.round (geSelf e) (part (geSelf e))
        let s1 := s1.modPartial c.key page fun p => { p with isOpen := false, delivering := some others }
        s1.settleDelivery c page
  | none => s

def partTable : Nat := 1024

/-- The partial page that an early delivery takes (R193). -/
def State.earlyPage (s : State) (c : Ctx) (die : Nat) : Option Part :=
  let here := s.parts.filter fun p => p.die == die && p.isOpen && p.delivering.isNone
  (here.find? fun p => p.ctx == c.key).orElse fun _ => here.head?

def State.deliverEarly (s : State) (p : Part) : State :=
  match s.ctx? p.ctx with
  | none => s
  | some c => ((s.startDelivery c p.page).pumpDelivery c p.page).modDie p.die fun d => { d with early := satInc d.early }

/-- A partial page is opened, or room is made for it: in the partial table, or in memory (R193). -/
def State.startOpen (s : State) (c : Ctx) (page : Nat) (l : LeafAt) (e : List Byte) : State :=
  if (s.partial? c.key page).isSome then s
  else
    let g := pteGroup l.pte
    let frame := ptePfn l.pte % 2 ^ 40
    let die := c.frameDie frame
    let here := s.parts.filter fun p => p.die == die
    if partTable ≤ here.length then
      if here.any fun p => p.delivering.isSome then s else (s.earlyPage c die).elim s s.deliverEarly
    else
      match s.takeFrame c fun _ => true with
      | none => if here.any fun p => p.delivering.isSome then s else (s.earlyPage c die).elim s s.deliverEarly
      | some (f, s) =>
        let r := (c.group g).round
        let others := liveOthers e (c.group g)
        let self := s.openFor c g page e (geSelf e) c.memberLife r
        let p : Part := ⟨die, c.key, page, g, frame, f, r, others, if self.isNone then [(geSelf e, s.clockOf die)] else [], none, false⟩
        let s := self.getD s
        let s := { s with parts := s.parts ++ [p] }
        (s.tellAll c g others e .opn page r false).settleOpen c.key page

/-! ## The resolver of a page (R166, R187, R192) -/

/-- Whether the first parked touch of a page writes; the lanes' come before the agents' (log entry 84). -/
def State.parkedWrite (s : State) (key page : Nat) : Bool :=
  let mine := s.reqs.filter fun r => r.stage == .parked && r.ctx == key && r.va.toNat / 4096 == page
  match mine.find? fun r => mine.all fun q => decide (r.arrival ≤ q.arrival) with
  | some r => (memNeed r.op).writes
  | none => s.opens.contains (key, page)

/-- The shard engine takes up a page that has been handed to it. A touch parks behind a gather, an open or a delivery (R202). -/
def State.startResolver (s : State) (key page : Nat) : State :=
  match s.ctx? key with
  | none => s
  | some c =>
    match s.shardLeaf c page with
    | none => s
    | some l =>
      match s.liveEntry c (pteGroup l.pte) with
      | none => s
      | some e =>
        if (s.partial? key page).isSome then s.pumpDelivery c page
        else if (s.gather? key page).isSome then s.settleGather key page
        else if s.parkedWrite key page && pteRole l.pte && pteShare l.pte != 4 then s.startOpen c page l e
        else if pteShare l.pte = 2 then s.startGather c page l e
        else s

/-! ## Messages -/

/-- The context and entry that a message is for: the group of the same tag. -/
def State.forGroup (s : State) (m : ShardMsg) : Option (Ctx × List Byte) :=
  match s.ctx? m.ctx with
  | none => none
  | some c =>
    match s.liveEntry c m.group with
    | some e => if geGid e = m.gid && m.member < geN e then some (c, e) else none
    | none => none

/-- The answer of R188 to a GATHER, and the data where it is DATA. -/
def State.answerGather (s : State) (c : Ctx) (e : List Byte) (m : ShardMsg) : ShKind × List Byte × Option Byte :=
  if m.target ≠ c.memberLife then (.life, [], none)
  else
    match (s.shardLeaf c m.page).filter fun l => pteGroup l.pte == m.group && pteRole l.pte == m.role && pteRfmt l.pte == m.rfmt,
          s.shardFrame c m.page with
    | some _, some f =>
      if s.frameLost c f then (.lost, [], none)
      else if c.phase = .saving || (s.addingTo c.key m.page).isSome then (.deferred, [], none)
      else
        let (b0, b) := shardBlocks (geN e) (geSelf e)
        match s.frameFault c f (64 * b0) (64 * b) with
        | some code => (.lost, [], some code)
        | none => (.data, s.frameRead c f (64 * b0) (64 * b), none)
    | _, _ => (.notshard, [], none)

/-- The answer where no entry has the group's tag: NOTSHARD, but LIFE from a context that has another life. A context that is there
gives its own life with it (R185). -/
def State.answerless (s : State) (m : ShardMsg) : ShKind × ShardMsg :=
  let back : ShardMsg := { m with data := [], lost := false }
  match s.ctx? m.ctx with
  | some c => (if m.target ≠ c.memberLife then .life else .notshard, { back with own := c.memberLife, target := m.own })
  | none => (.notshard, back)

/-- A GATHER answered. -/
def State.serveGather (s : State) (m : ShardMsg) : State :=
  match s.forGroup m with
  | none => { s with out := s.out ++ [.shard m.member (s.answerless m).1 (s.answerless m).2] }
  | some (c, e) =>
    let (k, data, bad) := s.answerGather c e m
    let s := match bad with | some code => s.report [.page c.key (BitVec.ofNat 64 (4096 * m.page)) code] | none => s
    let s := if k = .deferred then { s with deferred := s.deferred ++ [⟨c.key, m.group, m.member, m.page⟩] } else s
    s.tell c m.group m.member e k m.page 0 m.role m.rfmt false data

/-- A gather that a save or an addition deferred is answered now (R188). -/
def State.answerDeferred (s : State) (c : Ctx) (d : Deferred) : State :=
  match s.liveEntry c d.group, s.shardLeaf c d.page with
  | some e, some l =>
    let m : ShardMsg := ⟨d.ctx, d.group, d.member, d.page, geGid e, 0, 0, c.memberLife, pteRole l.pte, pteRfmt l.pte, false, []⟩
    s.serveGather m
  | some e, none => s.tell c d.group d.member e .lost d.page 0 false false false []
  | none, _ => s

/-- The addition of a page's record ends (R195): the gathers that it deferred are answered, a gather of this device that waited for it
goes on, and the round may be done. -/
def State.endAddition (s : State) (key page : Nat) (r : BitVec 16) : State :=
  match s.ctx? key, s.addingTo key page with
  | some c, some x =>
    match s.liveEntry c x.group with
    | none => s.loseRecord x
    | some e =>
      if x.round ≠ r then s
      else
        let s := s.addRecord c e x
        let mine (d : Deferred) : Bool := d.ctx == key && d.page == page && c.phase != .saving
        let ds := s.deferred.filter mine
        let s := ds.foldl (fun s d => s.answerDeferred c d) { s with deferred := s.deferred.filter fun d => !mine d }
        (s.settleGather key page).settleRound key x.group r
  | _, _ => s

/-- The memory core evicts a gathered page (R202): its copy is dropped. -/
def State.evictPage (s : State) (key page : Nat) : State :=
  match (s.ctx? key).bind fun c => (s.shardLeaf c page).map fun l => (c, l) with
  | some (c, l) => if pteShare l.pte = 3 && (s.partial? key page).isNone then s.changeLeaf c page l.loc (ptePoint l.pte 2 (ptePfn l.pte)) else s
  | none => s

/-- The memory core evicts a partial page (R193): it is delivered early. -/
def State.evictPartial (s : State) (key page : Nat) : State :=
  match s.partial? key page with
  | some p => if p.isOpen && p.delivering.isNone then s.deliverEarly p else s
  | none => s

def execGatherReceive (m : ShardMsg) (s : State) : Host.Outcome State Fault Refusal :=
  let s := match s.forGroup m with | some (c, _) => s.heard c m.group m.member | none => s
  .next (s.serveGather m)

def execDataReceive (m : ShardMsg) (s : State) : Host.Outcome State Fault Refusal :=
  match s.forGroup m, s.gather? m.ctx m.page with
  | none, _ => .next s
  | some (c, _), none => .next (s.heard c m.group m.member)
  | some (c, e), some g =>
    let s := s.heard c m.group m.member
    if !g.waiting.contains m.member || g.fail then .next s
    else
      match s.shardFrame c m.page with
      | none => .next s
      | some f =>
        let (b0, b) := shardBlocks (geN e) m.member
        let s := s.frameWrite c f (64 * b0) (m.data.take (64 * b))
        .next ((s.modGather m.ctx m.page fun g => { g with waiting := g.waiting.filter (· != m.member) }).settleGather m.ctx m.page)

def execDeferredReceive (m : ShardMsg) (s : State) : Host.Outcome State Fault Refusal :=
  match s.forGroup m with
  | none => .next s
  | some (c, _) =>
    let s := s.heard c m.group m.member
    .next (s.modDie (c.frameDie ((s.shardFrame c m.page).getD 0)) fun d => { d with defer := satInc d.defer })

/-- LIFE: one more GATHER with the new life; a second one counts as LOST. -/
def execLifeReceive (m : ShardMsg) (s : State) : Host.Outcome State Fault Refusal :=
  match s.forGroup m, s.gather? m.ctx m.page with
  | none, _ => .next s
  | some (c, _), none => .next (s.heard c m.group m.member)
  | some (c, e), some g =>
    let s := s.heard c m.group m.member
    if g.again.contains m.member then .next (s.failGather m.ctx m.page)
    else
      let s := s.modGroup c.key m.group fun x => { x with lives := (x.lives.filter fun l => l.1 != m.member) ++ [(m.member, m.own)] }
      let s := s.modGather m.ctx m.page fun g => { g with again := g.again ++ [m.member] }
      match s.ctx? m.ctx, s.shardLeaf c m.page with
      | some c, some l => .next (s.tell c m.group m.member e .gather m.page 0 (pteRole l.pte) (pteRfmt l.pte) false [])
      | _, _ => .next s

/-- LOST or NOTSHARD. -/
def execLostReceive (m : ShardMsg) (s : State) : Host.Outcome State Fault Refusal :=
  match s.forGroup m with
  | none => .next s
  | some (c, _) => .next ((s.heard c m.group m.member).failGather m.ctx m.page)

def execOpenReceive (m : ShardMsg) (s : State) : Host.Outcome State Fault Refusal :=
  match s.forGroup m with
  | none => .next s
  | some (c, e) =>
    let s := s.heard c m.group m.member
    match s.openFor c m.group m.page e m.member m.own m.round with
    | some s => .next (s.tell c m.group m.member e .openok m.page m.round false false false [])
    | none => .next (s.tell c m.group m.member e .busy m.page m.round false false false [])

def execOpenokReceive (m : ShardMsg) (s : State) : Host.Outcome State Fault Refusal :=
  match s.forGroup m with
  | none => .next s
  | some (c, _) =>
    let s := s.heard c m.group m.member
    .next ((s.modPartial m.ctx m.page fun p => { p with opening := p.opening.filter (· != m.member) }).settleOpen m.ctx m.page)

def execBusyReceive (m : ShardMsg) (s : State) : Host.Outcome State Fault Refusal :=
  match s.forGroup m with
  | none => .next s
  | some (c, _) =>
    let s := s.heard c m.group m.member
    .next (s.modPartial m.ctx m.page fun p =>
      if p.opening.contains m.member then
        { p with opening := p.opening.filter (· != m.member), busy := p.busy ++ [(m.member, s.clockOf p.die)] }
      else p)

/-- A busy OPEN is sent again after 1,024 cycles; the engine's own open is tried again. -/
def execBusyResend (ctx page member : Nat) (s : State) : Host.Outcome State Fault Refusal :=
  match s.partial? ctx page, s.ctx? ctx with
  | some p, some c =>
    if !(p.busy.any fun b => b.1 == member && decide (b.2 + 1024 ≤ s.clockOf p.die)) then .next s
    else
      match s.liveEntry c p.group with
      | none => .next s
      | some e =>
        let drop (p : Part) : Part := { p with busy := p.busy.filter fun b => b.1 != member }
        if member = geSelf e then
          match s.openFor c p.group page e member c.memberLife p.round with
          | some s => .next ((s.modPartial ctx page drop).settleOpen ctx page)
          | none => .next (s.modPartial ctx page fun p => { drop p with busy := (drop p).busy ++ [(member, s.clockOf p.die)] })
        else
          let s := s.modPartial ctx page fun p => { drop p with opening := p.opening ++ [member] }
          .next (s.tell c p.group member e .opn page p.round false false false [])
  | _, _ => .next s

/-- A contribution at its owner: staged and acknowledged, or its record lost where the life has changed. -/
def execDeliverReceive (m : ShardMsg) (s : State) : Host.Outcome State Fault Refusal :=
  match s.forGroup m with
  | none => .next s
  | some (c, e) =>
    let s := s.heard c m.group m.member
    let s := match s.reduction? m.ctx m.page m.round with
      | none => s
      | some x =>
        if x.contribs.any fun k => k.member == m.member && k.life != m.own then s.loseRecord x
        else if x.st = RedState.collecting then s.stage m.ctx m.page m.round m.member m.data
        else s
    .next ((s.tell c m.group m.member e .delack m.page m.round false false false []).settleRound m.ctx m.group m.round)

def execDelackReceive (m : ShardMsg) (s : State) : Host.Outcome State Fault Refusal :=
  match s.forGroup m with
  | none => .next s
  | some (c, _) =>
    let s := s.heard c m.group m.member
    .next ((s.modPartial m.ctx m.page fun p => { p with
      delivering := p.delivering.map fun d => if p.isOpen then d else d.filter (· != m.member) }).settleDelivery c m.page)

/-- Records of a round whose contributor closes or dies under another life are lost (R195). -/
def State.loseOf (s : State) (key g member : Nat) (bad : Reduction → Contrib → Bool) : State :=
  (s.reductions.filter fun x => x.ctx == key && x.group == g && x.st == RedState.collecting
    && x.contribs.any fun k => k.member == member && bad x k).foldl State.loseRecord s

def execCloseReceive (m : ShardMsg) (s : State) : Host.Outcome State Fault Refusal :=
  match s.forGroup m with
  | none => .next s
  | some (c, _) =>
    let s := s.heard c m.group m.member
    let s := s.modGroup c.key m.group fun x => { x with closes := x.closes ++ [(m.member, m.round)] }
    let s := s.loseOf m.ctx m.group m.member fun x k => x.round == m.round && k.life != m.own
    .next (s.settleRound m.ctx m.group m.round)

def execDoneReceive (m : ShardMsg) (s : State) : Host.Outcome State Fault Refusal :=
  match s.forGroup m with
  | none => .next s
  | some (c, _) =>
    let s := s.heard c m.group m.member
    .next (s.modGroup c.key m.group fun x => { x with dones := x.dones ++ [(m.member, m.round, m.lost)] })

/-- The shard engine of the lowest-numbered die sends RENEW to every other member. -/
def execRenewSend (ctx group : Nat) (s : State) : Host.Outcome State Fault Refusal :=
  match s.ctx? ctx with
  | none => .next s
  | some c =>
    match s.liveEntry c group with
    | none => .next s
    | some e =>
      let s := s.tellAll c group (othersOf e) e .renew 0 0 false
      .next (s.modGroup ctx group fun x => { x with renewed := s.clockOf c.lowDie })

def execRenewReceive (m : ShardMsg) (s : State) : Host.Outcome State Fault Refusal :=
  match s.forGroup m with
  | none => .next s
  | some (c, _) => .next (s.heard c m.group m.member)

/-- A member is declared dead: its lease has passed, or no port reaches it (R186). What waits for it fails or goes on without it
(R189, R192, R194, R195, R197). -/
def execMemberDead (ctx group member : Nat) (s : State) : Host.Outcome State Fault Refusal :=
  match s.ctx? ctx with
  | none => .next s
  | some c =>
    match s.liveEntry c group with
    | none => .next s
    | some e =>
      let g := c.group group
      let last := ((g.heard.find? fun h => h.1 == member).map Prod.snd).getD 0
      let due := decide (last + 2 ^ geLease e ≤ s.clockOf c.lowDie) || s.livePorts == []
      if member = geSelf e || geN e ≤ member || g.dead.contains member || !due then .next s
      else
        let s := s.modGroup ctx group fun x => { x with dead := x.dead ++ [member] }
        let pages := (s.gathers.filter fun x => x.ctx == ctx && x.group == group && x.waiting.contains member).map Gather.page
        let s := pages.foldl (fun s p => s.failGather ctx p) s
        let opens := (s.parts.filter fun p => p.ctx == ctx && p.group == group).map Part.page
        let s := opens.foldl (fun s p => (s.modPartial ctx p fun x => { x with
          opening := x.opening.filter (· != member), busy := x.busy.filter fun b => b.1 != member }).settleOpen ctx p) s
        let skipped := (s.parts.filter fun p => p.ctx == ctx && p.group == group && p.delivering.any fun d => d.contains member).map Part.round
        let s := opens.foldl (fun s p => (s.modPartial ctx p fun x => { x with
          delivering := x.delivering.map fun d => d.filter (· != member) }).settleDelivery c p) s
        let s := s.modGroup ctx group fun x => { x with dones := x.dones ++ skipped.map fun r => (member, r, true) }
        let s := s.loseOf ctx group member fun _ k => k.staged.length != k.opened
        let rounds := ((s.reductions.filter fun x => x.ctx == ctx && x.group == group).map Reduction.round
          ++ g.closes.map Prod.snd).eraseDups
        .next (rounds.foldl (fun s r => s.settleRound ctx group r) s)

/-! ## `shflush` (R199) -/

/-- The status word. -/
def shStatus (r : BitVec 16) (lost dead unsent : Bool) : Word :=
  BitVec.ofNat 32 (r.toNat * 2 ^ 16 + (if lost then 2 ^ 15 else 0) + (if dead then 2 ^ 14 else 0) + (if unsent then 0x13 else 0))

/-- The round is taken: gathered pages go back to their shards, partial ones of this round or earlier are delivered. -/
def State.beginFlush (s : State) (c : Ctx) (g : Nat) (r : BitVec 16) : State :=
  let s := s.modGroup c.key g fun x => { x with round := r + 1, dones := x.dones.filter fun d => d.2.1 != r || x.dead.contains d.1 }
  let mine := (s.leaves c).filter fun l => pteGroup l.pte == g && l.level == 1
  let s := (mine.filter fun l => pteShare l.pte = 3).foldl
    (fun s l => s.changeLeaf c (l.va / 4096) l.loc (ptePoint l.pte 2 (ptePfn l.pte))) s
  ((s.parts.filter fun p => p.ctx == c.key && p.group == g).map Part.page).foldl (fun s p => s.startDelivery c p) s

/-- The DONE messages of a round have served (the round's number comes again after 2^16 rounds). -/
def State.forgetDone (s : State) (key g : Nat) (r : BitVec 16) : State :=
  s.modGroup key g fun x => { x with dones := x.dones.filter fun d => d.2.1 != r }

/-- Whether the deliveries of a flush of round r, and the invalidations of the group's pages, have ended. -/
def State.flushOver (s : State) (c : Ctx) (g : Nat) (r : BitVec 16) : Bool :=
  !(s.parts.any fun p => p.ctx == c.key && p.group == g && p.round != r + 1)
  && !(s.invals.any fun i => i.ctx == c.key && ((s.pageLeaf c i.page).elim false fun l => pteGroup l.pte == g && pteShare l.pte == 2))

/-- CLOSE leaves for every member, and this member's own is recorded. -/
def State.closeRound (s : State) (c : Ctx) (g : Nat) (e : List Byte) (r : BitVec 16) : State :=
  let s := s.tellAll c g (liveOthers e (c.group g)) e .close 0 r false
  let s := s.modGroup c.key g fun x => { x with closes := x.closes ++ [(geSelf e, r)] }
  s.settleRound c.key g r

/-- Whether DONE of a round has come from every member not declared dead. -/
def ShGroup.allDone (g : ShGroup) (e : List Byte) (r : BitVec 16) : Bool :=
  (List.range (geN e)).all fun m => g.dead.contains m || g.dones.any fun d => d.1 == m && d.2.1 == r

def ShGroup.anyLost (g : ShGroup) (r : BitVec 16) : Bool := g.dones.any fun d => d.2.1 == r && d.2.2

end Sys2Proof.Machine
end

