-- ==== Sys2Proof/Machine/Walk.lean ====
section
/-! DEFINITION. Translation misses and walks (R161, R166), resolvers (R167 to R169), invalidations (R170), migration (R171 to R174),
the memory's rows (R176) and its errors (R177, R178). -/

namespace Sys2Proof.Machine

/-! ## Walks -/

def MemReq.page (r : MemReq) : Nat := r.va.toNat / 4096

/-- A miss takes a free walker, joins its page's walk, or waits. -/
def execTranslationMiss (req : Nat) (s : State) : Host.Outcome State Fault Refusal :=
  match s.req? req with
  | none => .next s
  | some r =>
    if r.stage ≠ .untranslated false then .next s
    else .next ((s.modReq req fun r => { r with stage := .untranslated true }).startWalk r.die r.ctx r.page)

/-- The locations of the entries that a walk of a table reads, in order (R160). -/
def State.readsFrom (s : State) (c : Ctx) (va : Nat) : Nat → Nat → List Nat
  | 0, _ => []
  | level + 1, table =>
    match c.locOf (table + 8 * (va / 2 ^ (12 + 9 * level) % 512)) with
    | none => []
    | some loc =>
      let p := s.viewD loc
      if s.isDamaged (loc / 64) || s.isFailing (loc / 64) || pteBad p || pteLeaf p || level = 0 || pteShare p ≠ 1 || pteKind p ≠ 0 then [loc]
      else loc :: s.readsFrom c va level (ptePfn p * 4096)

def State.walkReads (s : State) (c : Ctx) (page : Nat) : List Nat :=
  if c.ptb.getLsbD 0 then s.readsFrom c (4096 * page) 4 (fieldD c.ptb 51 12 * 4096) else []

/-- The entries that a walk uses: those that it goes on from, and its leaf. -/
def usedEntries (reads : List Nat) : WalkEnd → List Nat
  | .leaf _ _ _ => reads
  | _ => reads.dropLast

/-- A walker's read of an entry's line, with the ownership policy (R166): a copy of another home's line stays in the remote-data cache,
tracked, where no other holder must be asked and the line is idle. Else it reads the line's value alone (log entry 81). -/
def State.walkerRead (s : State) (c : Ctx) (die loc : Nat) : State :=
  let ln := loc / 64
  let home := c.homeOf die loc
  let held := s.lines.any fun l => l.die == die && l.core == none && l.line == ln && l.home == home && (l.tracked || l.excl)
  if home = die then s.touchSlice home ln false
  else if held then s
  else
    let s := s.touchSlice home ln false
    let d := match s.region? home ln with
      | some g => dirStep g.st g.hold g.owner false die (.load .own)
      | none => dirStep .i 0 0 false die (.load .own)
    let busy := s.txns.any fun t => t.die == home && (t.line == ln || t.evict)
    let room := (s.region? home ln).isSome || decide ((s.setEntries home (s.newRegion home ln).base).length < dirWays)
    if busy || !room || d.targets != [] then s
    else
      let s := (((s.pullLine home ln).shareTracked home ln).setDir home ln d).grantLease home die
      let s := s.holdLease home die (s.die home).leaseLog2 (s.lifeOf home)
      s.putLine ⟨die, none, ln, s.view (64 * ln) 64, wholeLine, 0, true, false, false, home⟩

/-- The oldest walk that waits on a die takes the walker that has come free. -/
def State.nextWalk (s : State) (die : Nat) : State :=
  match s.walks.find? fun w => w.die == die && !w.running with
  | some w => { s with walks := modWhere s.walks (fun x => x.id == w.id) fun x => { x with running := true } }
  | none => s

/-- The requests of a die that wait for a page's walk. -/
def State.missesOf (s : State) (w : Walk) : List MemReq :=
  s.reqs.filter fun r => r.die == w.die && r.ctx == w.ctx && r.page == w.page && r.stage == .untranslated true

/-! ## Resolvers -/

/-- A request put into a list in order of arrival. -/
def insertReq (r : MemReq) : List MemReq → List MemReq
  | [] => [r]
  | q :: l => if q.arrival ≤ r.arrival then q :: insertReq r l else r :: q :: l

/-- The parked requests of a page, in the order they were parked. -/
def State.parkedAt (s : State) (key page : Nat) : List MemReq :=
  (s.reqs.filter fun r => r.stage == .parked && r.ctx == key && r.page == page).foldl (fun l r => insertReq r l) []

/-- The troupes whose fetch, or whose read of the trap table, has parked on a page. -/
def State.waitersAt (s : State) (key page : Nat) : List Troupe :=
  s.troupes.filter fun t => ((s.wgOf t).map Workgroup.ctx) == some key &&
    match t.wait with
    | .fetch p => p == page
    | .table p _ _ _ _ => p == page
    | _ => false

/-- A waiting fetch or table read goes on, or ends with the resolver's code: a precise trap, or an unhandled one (R165, R247). -/
def State.wakeWaiter (s : State) (t : Troupe) (code : Option Byte) : State :=
  let t' := { t with wait := .none }
  match t.wait, code with
  | .fetch _, none => s.setTroupe t'
  | .fetch _, some e => (s.setTroupe t').takeTrap t' ⟨e, t.pc, 0⟩ t.pc
  | .table _ cause taddr lanes tpc, none => (s.setTroupe t').takeTrap t' ⟨cause, taddr, lanes⟩ tpc
  | .table _ cause taddr lanes tpc, some _ =>
    { s with free := s.free + 1 }.endWorkgroup t.wg (cause == cancelledC) (.trap t.wg t.trix cause tpc taddr lanes t.intrap)
  | _, _ => s

def State.wakeAll (s : State) (key page : Nat) (code : Option Byte) : State :=
  (s.waitersAt key page).foldl (fun s t => match s.troupe? t.wg t.trix with | some t => s.wakeWaiter t code | none => s) s

/-- The troupes of a die and the agents that wait for a page's walk go on, or have its code. -/
def State.tellWaiters (s : State) (die key page : Nat) (code : Option Byte) : State :=
  let mine (a : Nat × Nat × Option Byte) : Bool := a.1 == key && a.2.1 == page
  let s := { s with awaited := match code with
    | some _ => s.awaited.map fun a => if mine a then (key, page, code) else a
    | none => s.awaited.filter fun a => !mine a }
  ((s.waitersAt key page).filter fun t => t.die == die).foldl (fun s t =>
    match s.troupe? t.wg t.trix with | some t => s.wakeWaiter t code | none => s) s

/-- How a walk ends for its die: as the tables say, or with LINKERR where an entry's home cannot be reached (R13, R39). -/
def State.walkEnd (s : State) (c : Ctx) (w : Walk) (reads : List Nat) : WalkEnd :=
  if fieldD (BitVec.ofNat 64 (4096 * w.page)) 63 48 ≠ 0 then .fault xlate
  else if reads.any fun loc => (s.gap w.die (c.homeOf w.die loc)).isSome then .fault linkerr
  else s.walk c (BitVec.ofNat 64 (4096 * w.page))

/-- What the reads of a walk leave behind: failing lines entered (R177), routers' notes (R13), copies (R166), and A in the entries used
(R161). -/
def State.walkDone (s : State) (c : Ctx) (w : Walk) (reads : List Nat) (e : WalkEnd) : State :=
  match reads.find? fun loc => (s.gap w.die (c.homeOf w.die loc)).isSome with
  | some loc => s.noteGap w.die (c.homeOf w.die loc)
  | none =>
    let s := reads.foldl (fun s loc => (s.meetError (c.homeOf w.die loc) loc 8)) s
    let s := (usedEntries reads e).foldl (fun s loc => s.orPte loc 0x40#64) s
    reads.foldl (fun s loc => if s.isDamaged (loc / 64) || s.isFailing (loc / 64) then s else s.walkerRead c w.die loc) s

/-- The leaf that a die caches (R170). -/
def State.cacheLeaf (s : State) (l : Tlb) : State :=
  { s with tlbs := (s.tlbs.filter fun t => !(t.die == l.die && t.ctx == l.ctx && t.page == l.page)) ++ [l] }

/-- Whether an agent or a troupe of the die waits for a page. -/
def State.someWait (s : State) (w : Walk) : Bool :=
  s.awaited.any (fun a => a.1 == w.ctx && a.2.1 == w.page) || (s.waitersAt w.ctx w.page).any fun t => t.die == w.die

/-- A walk ends (R166): what waits for it fails, parks with its resolver, or goes on through the leaf, which the die caches (R170). -/
def execWalkComplete (walk : Nat) (s : State) : Host.Outcome State Fault Refusal :=
  match s.walks.find? fun w => w.id == walk && w.running with
  | none => .next s
  | some w =>
    let s := { s with walks := s.walks.filter fun x => x.id != walk }.nextWalk w.die
    let rs := s.missesOf w
    match s.ctx? w.ctx with
    | none => .next (rs.foldl (fun s r => s.failReq r.id xlate) s)
    | some c =>
      let reads := s.walkReads c w.page
      let e := s.walkEnd c w reads
      let s := s.walkDone c w reads e
      match e with
      | .fault code => .next ((rs.foldl (fun s r => s.failReq r.id code) s).tellWaiters w.die w.ctx w.page (some code))
      | .absent =>
        let s := rs.foldl State.parkReq s
        .next (if s.someWait w then s.resolve w.ctx w.page else s)
      | .leaf p level _ =>
        let s := if pteShare p = 2 then (if s.someWait w then s.resolve w.ctx w.page else s)
          else (s.cacheLeaf ⟨w.die, w.ctx, w.page, p, level⟩).tellWaiters w.die w.ctx w.page none
        let s := rs.foldl (fun s r => if s.parksBehind r then s.parkReq r else s.leafReq c r p level) s
        .next (if s.resolving.contains (w.ctx, w.page) then s.startResolver w.ctx w.page else s)

/-- A resolver that fails (R169): every parked request, waiting fetch and waiting agent has its code. -/
def State.failPage (s : State) (key page : Nat) (code : Byte) : State :=
  let told := s.awaited.map fun (a : Nat × Nat × Option Byte) => if a.1 == key && a.2.1 == page then (key, page, some code) else a
  let s := { s with
    resolving := s.resolving.filter (· != (key, page))
    opens := s.opens.filter (· != (key, page))
    awaited := told }
  let s := (s.parkedAt key page).foldl (fun s r => s.failReq r.id code) s
  s.wakeAll key page (some code)

/-- A resolver that succeeds: the page's parked requests are replayed in order through the new translation. -/
def State.replayPage (s : State) (c : Ctx) (page : Nat) (p : DWord) (level : Nat) : State :=
  let s := { s with
    resolving := s.resolving.filter (· != (c.key, page))
    opens := s.opens.filter (· != (c.key, page))
    awaited := s.awaited.filter fun a => !(a.1 == c.key && a.2.1 == page) }
  let s := (s.parkedAt c.key page).foldl (fun s r => match s.req? r.id with | some r => s.leafReq c r p level | none => s) s
  s.wakeAll c.key page none

/-- Whether a page is absent only while it is being moved (R175). -/
def State.moving (s : State) (key page : Nat) : Bool :=
  s.partitions.any fun p => p.serving.any fun v => v.ctx == key && v.moves.any fun m => m.1 == page

/-- A page's resolver moves: the memory core for an absent page, which fails unless the page has been mapped; the shard engine for a
sharded one. It ends when no invalidation of the page is outstanding (R169, R170). -/
def execResolverFinish (ctx page : Nat) (s : State) : Host.Outcome State Fault Refusal :=
  if !s.resolving.contains (ctx, page) then .next s
  else
    let s := s.startResolver ctx page
    match s.ctx? ctx with
    | none => .next (s.failPage ctx page xlate)
    | some c =>
      match s.gather? ctx page, s.partial? ctx page with
      | some g, _ =>
        if g.fail then
          .next ({ s with gathers := s.gathers.filter fun x => !(x.ctx == ctx && x.page == page) }.failPage ctx page shardfail)
        else .next s
      | none, some p =>
        if s.stale ctx page || !p.isOpen || p.delivering.isSome then .next s
        else
          match s.pageLeaf c page with
          | some l => .next (s.replayPage c page l.pte l.level)
          | none => .next s
      | none, none =>
        if s.stale ctx page then .next s
        else
          match s.walk c (BitVec.ofNat 64 (4096 * page)) with
          | .leaf p level _ =>
            if pteShare p = 2 || (pteShare p = 3 && s.parkedWrite ctx page && pteRole p) then .next s else .next (s.replayPage c page p level)
          | .fault e => .next (s.failPage ctx page e)
          | .absent => .next (if s.moving ctx page then s else s.failPage ctx page xlate)

/-- A die drops the cached translation of a changed page and acknowledges (R170). -/
def execTranslationInvalidate (die : Nat) (s : State) : Host.Outcome State Fault Refusal :=
  match s.invals.find? fun i => i.die == die with
  | none => .next s
  | some i =>
    let s := { s with
      invals := s.invals.erase i
      tlbs := s.tlbs.filter fun t => !(t.die == die && t.ctx == i.ctx && t.page == i.page) }
    match s.ctx? i.ctx with
    | some c => .next (s.pumpDelivery c i.page)
    | none => .next s

/-! ## Migration (R172 to R174) -/

/-- Why the fetch of a line from its old place fails (R173). -/
def State.oldFault (s : State) (m : Migr) (line : Nat) : Option Byte :=
  let loc := m.old * 4096 + 64 * line
  match s.ctx? m.ctx with
  | none => s.badLines loc 64
  | some c =>
    if (s.gap m.die (c.homeOf m.die loc)).isSome then some linkerr
    else (s.farFault c loc 64).orElse fun _ => s.badLines loc 64

/-- The engine takes the lowest lines that are neither present nor in fetch, up to 4 at a time (R172). -/
def Migr.topUp : Nat → Migr → Migr
  | 0, m => m
  | n + 1, m =>
    if 4 ≤ popcount m.engine then m
    else
      match (List.range 64).find? fun i => !m.present.getLsbD i && !m.fetching.getLsbD i with
      | some i => Migr.topUp n { m with fetching := m.fetching ||| (1#64 <<< i), engine := m.engine ||| (1#64 <<< i) }
      | none => m

/-- Every line of the frame is present: the leaf becomes local and the entry is free (R174). -/
def State.settleMigration (s : State) (m : Migr) : State :=
  let m' := s.migrs.find? fun x => x.die == m.die && x.frame == m.frame
  if (m'.map Migr.present) = some (BitVec.allOnes 64) then
    let s := { s with migrs := s.migrs.filter fun x => !(x.die == m.die && x.frame == m.frame) }
    match s.ctx? m.ctx with
    | none => s
    | some c =>
      match s.pageLeaf c m.page with
      | some l => if pteShare l.pte = 5 then s.setPte l.loc (ptePoint l.pte 1 (ptePfn l.pte)) else s
      | none => s
  else s

/-- A line of a migrating frame that is in fetch arrives from its old place (R172, R173): its waiting accesses are served in arrival
order, and the engine goes on. -/
def execMigrationLineFetch (die frame line : Nat) (s : State) : Host.Outcome State Fault Refusal :=
  let upd (s : State) (m : Migr) : State := { s with migrs := modWhere s.migrs (fun x => x.die == die && x.frame == frame) fun _ => m }
  match (s.migrs.find? fun m => m.die == die && m.frame == frame).map (Migr.topUp 4) with
  | none => .next s
  | some m =>
    if line ≥ 64 || !m.fetching.getLsbD line then .next ((upd s m).settleMigration m)
    else
      let ln := 64 * frame + line
      let s := s.recallLine (64 * m.old + line)
      let bytes := cellsGet s.mem (m.old * 4096 + 64 * line) 64
      let waiting : List MemReq := s.reqs.filter fun r => r.stage == .awaitLine && r.line == ln && r.home == die
      let first := (waiting.map MemReq.arrival).foldl min s.fresh
      let bad := s.oldFault m line
      let bit : BitVec 64 := 1#64 <<< line
      let s := upd s (Migr.topUp 4 { m with present := m.present ||| bit, fetching := m.fetching &&& ~~~bit, engine := m.engine &&& ~~~bit })
      let s := match bad with
        | none => { s.inSlice ln true with mem := cellsSet s.mem (64 * ln) bytes }
        | some _ => s.enterDamaged die ln
      let s := match bad with
        | some e =>
          let cause := waiting.filter fun (r : MemReq) => r.arrival == first
          s.replyFault die cause e
        | none => s
      let s := waiting.foldl (fun s r => s.modReq r.id fun q => if q.stage = Stage.awaitLine then { q with stage := .atHome } else q) s
      .next ((s.wakeAll m.ctx m.page none).settleMigration m)

/-! ## The memory's rows (R176) and errors (R177, R178) -/

def State.modBank (s : State) (die bank : Nat) (f : Bank → Bank) : State :=
  { s with banks := modWhere s.banks (fun b => b.die == die && b.bank == bank) f }

/-- The idle timer of a bank has run out, and no queued request hits its open row. -/
def execHbmIdlePrecharge (die bank : Nat) (s : State) : Host.Outcome State Fault Refusal :=
  match s.banks.find? fun b => b.die == die && b.bank == bank with
  | none => .next s
  | some b =>
    let due := decide (b.last + (s.die die).idle.toNat ≤ s.clockOf die)
    let hit := s.reqs.any fun r => r.stage == .atHome && r.home == die && r.kind == 0 && bankOf r.line == bank && some (rowOf r.line) == b.row
    .next (if due && !hit then s.modBank die bank fun b => { b with row := none } else s)

/-- A refresh closes the row; programs do not see it. -/
def execHbmRefresh (die bank : Nat) (s : State) : Host.Outcome State Fault Refusal :=
  .next (s.modBank die bank fun b => { b with row := none })

def State.corrected (s : State) (die : Nat) : State :=
  s.modDie die fun d => { d with corr := if d.corr = 0xFFFFFFFF#32 then d.corr else d.corr + 1 }
def State.uncorrected (s : State) (die : Nat) : State := s.modDie die fun d => { d with uncorr := satInc d.uncorr }

/-- A line whose data fails at its next read. -/
def State.addFailing (s : State) (die ln : Nat) : State :=
  s.modDie die fun d => if d.failing.contains ln then d else { d with failing := d.failing ++ [ln] }

/-- A line leaves its home's L2. -/
def State.dropL2 (s : State) (ln : Nat) : State := { s with l2 := s.l2.filter fun x => x.line != ln }

/-- An ECC error (R177). A soft one is corrected and counted; what a hard one does depends on where it is. A dirty line is lost: the next
access that reaches its home meets the error there, and enters it. -/
def execEccError (e : EccEvent) (s : State) : Host.Outcome State Fault Refusal :=
  match e with
  | .hbm die ln hard => .next (if hard then s.addFailing die ln else s.corrected die)
  | .pte die loc hard => .next (if hard then (s.dropL2 (loc / 64)).addFailing die (loc / 64) else s.corrected die)
  | .l2 die ln hard =>
    match s.l2.find? fun x => x.line == ln with
    | none => .next (if hard then s else s.corrected die)
    | some x =>
      if !hard then .next (s.corrected die)
      else if x.dirty then .next ((s.dropL2 ln).addFailing die ln)
      else .next ((s.dropL2 ln).corrected die)
  | .cache die core ln hard =>
    match s.lines.find? fun l => l.die == die && l.core == core && l.line == ln with
    | none => .next (if hard then s else s.corrected die)
    | some l =>
      if !hard then .next (s.corrected die)
      else if l.dirty = 0 then .next ({ s with lines := s.lines.filter (· != l) }.corrected die)
      else if l.window then .next (({ s with lines := s.lines.filter (· != l) }.dropL2 ln).addFailing l.home ln)
      else .next (((s.dropTracked die ln none).dropL2 ln).addFailing l.home ln)
  | .scratch die core buf block hard =>
    if hard then
      .next ((s.modBuf (8 * die + core) buf fun b => { b with damaged := if b.damaged.contains block then b.damaged else b.damaged ++ [block] }).uncorrected die)
    else .next (s.corrected die)
  | .vreg wg trix name hard =>
    match s.troupe? wg trix with
    | none => .next s
    | some t =>
      if hard then
        .next ((s.modTroupe wg trix fun t => { t with regs := t.regs.map fun r => if r.name == name then { r with damaged := true } else r }).uncorrected t.die)
      else .next (s.corrected t.die)
  | .sreg wg trix n hard =>
    match s.troupe? wg trix with
    | none => .next s
    | some t =>
      if hard then
        .next ((s.modTroupe wg trix fun t => { t with badS := if t.badS.contains n then t.badS else t.badS ++ [n] }).uncorrected t.die)
      else .next (s.corrected t.die)
  | .weight pipe slot hard =>
    if hard then
      .next ((s.modPipe pipe fun p => { p with slots := p.slots.map fun x =>
        if x.1 ≤ slot ∧ slot < x.1 + x.2.slots then (x.1, { x.2 with damaged := true }) else x }).uncorrected (pipeDie pipe))
    else .next (s.corrected (pipeDie pipe))

end Sys2Proof.Machine
end

