-- ==== Sys2Proof/Machine/Replies.lean ====
section
/-! DEFINITION. What comes back to a troupe: lane replies and store acknowledgements (R143, R250, R254), the results of
variable latency and the completion of fences, phases, special reads and `shflush` (R142), the queue engine's replies (R440 to R444). -/

namespace Sys2Proof.Machine

/-! ## Lanes -/

/-- A request put into a list by address. -/
def insertVa (r : MemReq) : List MemReq → List MemReq
  | [] => [r]
  | q :: l => if q.va.toNat ≤ r.va.toNat then q :: insertVa r l else r :: q :: l

/-- The result of a lane from its parts: a packed element is put together from its lines' bytes (R382). -/
def laneResult (parts : List MemReq) : List Byte :=
  match parts with
  | [] => []
  | r :: _ =>
    match r.op, r.typed with
    | .vpload w len true, false => packedWords w len ((parts.foldl (fun l q => insertVa q l) []).flatMap MemReq.result)
    | _, _ => r.result

/-- The parts of a lane leave, and their bytes are metered (R62). -/
def State.takeLane (s : State) (parts : List MemReq) : State :=
  let n := (parts.map MemReq.bytes).foldl (· + ·) 0
  let s := { s with reqs := s.reqs.filter fun q => !(parts.any fun p => p.id == q.id) }
  match parts.head? with
  | some r => s.moveBytes r.wg n
  | none => s

def execLaneReply (req : Nat) (s : State) : Host.Outcome State Fault Refusal :=
  match s.req? req with
  | none => .next s
  | some r =>
    match s.split? r.split with
    | none => .next s
    | some p =>
      let parts := s.laneReqs r
      if p.posted || !(parts.all fun q => q.stage == .answered) then .next s
      else
        let s := s.takeLane parts
        let now := (s.die r.die).cycle
        let s := s.modTroupe p.wg p.trix fun t =>
          (match lowestFault parts with
          | some (e, va) => t.errorArrival r.lane (p.ac.getD 0) e va
          | none => t.land now p r.lane (laneResult parts)).reached p.id r.lane
        .next (s.laneDone p.id)

/-- A posted store is acknowledged, or has failed: STFAIL, the error core's record, and the item status of its workgroup. -/
def execStoreAck (req : Nat) (s : State) : Host.Outcome State Fault Refusal :=
  match s.req? req with
  | none => .next s
  | some r =>
    match s.split? r.split with
    | none => .next s
    | some p =>
      let parts := s.laneReqs r
      if !p.posted || !(parts.all fun q => q.stage == .answered) then .next s
      else
        let s := s.takeLane parts
        let s := match lowestFault parts with
          | some (e, va) =>
            let s := s.modTroupe p.wg p.trix fun t => { t with stfail := true }
            (s.modWg p.wg fun w => { w with failed := true }).report [.lane p.wg p.trix r.lane e va]
          | none => s
        .next (s.laneDone p.id)

/-! ## Results and completions -/

def Troupe.pend? (t : Troupe) (k : Nat) : Option Pend := t.pend.find? fun p => p.k == k

/-- An instruction under way is over: its flag clears, and `f` gives its result. -/
def State.endPend (s : State) (t : Troupe) (p : Pend) (f : Troupe → Troupe) : State :=
  s.modTroupe t.wg t.trix fun u => f { u with
    pend := u.pend.filter fun q => q.k != p.k
    hazards := u.hazards.filter fun h => !h.order.ends p.k
    flags := match p.flag with | some fl => u.flags &&& ~~~(1#12 <<< fl) | none => u.flags }

/-- Whether the troupe's earlier loads, atomics and typed loads have all landed or failed. -/
def State.landedBefore (s : State) (t : Troupe) (k : Nat) : Bool :=
  !(s.splits.any fun p => p.wg == t.wg && p.trix == t.trix && decide (p.id < k) && !p.posted)

/-- The answer to `lvlid` (R447). -/
def State.lvlWord (s : State) (t : Troupe) (sel : Nat) : Word :=
  match s.selLevel t sel with
  | none => 1
  | some l => if (s.cancelOf l.id).isSome then 2 else 0

/-- Whether the earlier results that `mrdy` waits for are in place (R436). -/
def Troupe.resultsIn (t : Troupe) (k : Nat) : Bool :=
  t.pend.all fun p => decide (k ≤ p.k) ||
    match p.act with
    | .sregs _ => false
    | .vregs _ _ _ => false
    | .phadv (some _) => false
    | .special _ _ => false
    | .rcnt _ _ => false
    | .lvlid _ _ => false
    | .shflush _ _ _ _ _ _ => false
    | .emit _ _ _ _ _ _ _ _ => false
    | .deq _ _ _ _ => false
    | _ => true

/-- The context of a troupe with its key. -/
def State.keyOf (s : State) (t : Troupe) : Nat := (s.wgOf t).elim 0 Workgroup.ctx

def State.setAct (s : State) (t : Troupe) (p : Pend) (a : PendAct) : State :=
  s.modTroupe t.wg t.trix fun u => { u with pend := u.pend.map fun q => if q.k == p.k then { q with act := a } else q }

/-- Whether an earlier call of the group is in progress (R199). -/
def State.flushAhead (s : State) (t : Troupe) (key g k : Nat) : Bool :=
  s.troupes.any fun u => s.keyOf u == key && u.pend.any fun p =>
    match p.act with
    | .shflush _ g' _ _ _ stage => g' == g && (decide (1 ≤ stage) || decide (p.k < k)) && !(u.wg == t.wg && u.trix == t.trix && p.k == k)
    | _ => false

/-- One step of `shflush` (R199): stage 0, its turn comes, its group is checked and its release begins; 1, the release ends and the round
is taken; 2, the deliveries end and CLOSE leaves; 3, DONE comes from every member. -/
def State.flushStep (s : State) (t : Troupe) (p : Pend) (d g : Nat) (r : BitVec 16) (wait unsent : Bool) (stage : Nat) : State :=
  let key := s.keyOf t
  match s.ctx? key with
  | none => s.endPend t p fun u => u.lateS (s.now t) d 4
  | some c =>
    match s.liveEntry c g with
    | none => s.endPend t p fun u => u.lateS (s.now t) d 4
    | some e =>
      if stage = 0 then
        if s.lagging t.die || s.flushAhead t key g p.k then s
        else
          let (s1, t1) := s.closePhase t
          (s1.setTroupe t1).setAct t1 p (.shflush d g t1.sph wait unsent 1)
      else if stage = 1 then
        if !s.releaseDone t p.k .dev r then s
        else
          let now := (c.group g).round
          let s := s.modTroupe t.wg t.trix fun u => { u with sent := s.sentNow u }
          (s.beginFlush c g now).setAct t p (.shflush d g now wait ((c.group g).dead != []) 2)
      else if stage = 2 then
        let mine := (s.parts.filter fun x => x.ctx == key && x.group == g && x.round != r + 1).map Part.page
        let s := mine.foldl (fun s x => (s.startDelivery c x).pumpDelivery c x) s
        if !s.flushOver c g r then s
        else
          let unsent := unsent || (((s.ctx? key).getD c).group g).dead != []
          let s := s.closeRound ((s.ctx? key).getD c) g e r
          if wait then s.setAct t p (.shflush d g r wait unsent 3)
          else
            (s.endPend t p fun u => u.lateS (s.now t) d (shStatus r false ((((s.ctx? key).getD c).group g).dead != []) unsent)).forgetDone key g r
      else
        let x := c.group g
        if !x.allDone e r then s
        else
          let s := s.endPend t p fun u => u.lateS (s.now t) d (shStatus r (x.anyLost r) (x.dead != []) unsent)
          (s.forgetDone key g r).acquire t.die t.core .sys

/-- What an instruction under way does when its time has come; the state is unchanged while it has not. -/
def State.pendStep (s : State) (t : Troupe) (p : Pend) : State :=
  let now := s.now t
  match p.act with
  | .done => s.endPend t p id
  | .sregs ws => s.endPend t p fun u => ws.foldl (fun u w => u.lateS now w.1 w.2) u
  | .vregs ws lanes vals =>
    (s.endPend t p fun u => (ws.zip vals).foldl (fun u x => u.lateV now x.1.1 x.1.2 lanes x.2) u).freeZombies (ws.map Prod.snd)
  | .fence acq rel sc =>
    if (rel && !s.releaseDone t p.k sc t.sph) || (acq && !s.landedBefore t p.k) then s
    else
      let s := s.endPend t p fun u => if rel && sc.wide then { u with sent := s.sentNow u } else u
      if acq then s.acquire t.die t.core sc else s
  | .phadv d =>
    if s.lagging t.die then s
    else
      let (s1, t1) := s.closePhase t
      (s1.setTroupe t1).endPend t p fun u => match d with | some n => u.lateS now n (t1.sph.setWidth 32) | none => u
  | .phwait h ph => if s.phaseAt t h ph then s.endPend t p id else s
  | .range wbs => if wbs = [] then s.endPend t p id else s
  | .special v d => s.endPend t p fun u => (u.lateS now d (loW v)).lateS now (d + 1) (hiW v)
  | .rcnt c d =>
    let v := (s.ctx? (s.keyOf t)).elim 0 (Ctx.counter · c)
    s.endPend t p fun u => u.lateS now d v
  | .rcntadd c v ph =>
    if !s.releaseDone t p.k .dev ph then s
    else
      let key := s.keyOf t
      let s := s.endPend t p fun u => { u with sent := s.sentNow u }
      (s.modCtx key fun x => x.setCounter c (x.counter c + v)).fireArmed key c
  | .lvlid sel d =>
    let v := s.lvlWord t sel
    s.endPend t p fun u => u.lateS now d v
  | .lvlcancel _ =>
    let waiting := ((s.wgOf t).bind fun w => s.part w.part).elim false fun q => q.cancels.any fun x => x.1 == p.k
    if waiting then s else s.endPend t p id
  | .shflush d g r wait unsent stage => s.flushStep t p d g r wait unsent stage
  | .mrdy => if s.landedBefore t p.k && t.resultsIn p.k then s.endPend t p id else s
  | _ => s

def execVariableResultWrite (wg trix k : Nat) (s : State) : Host.Outcome State Fault Refusal :=
  match s.troupe? wg trix with
  | none => .next s
  | some t =>
    match t.pend? k with
    | none => .next s
    | some p => .next (s.pendStep t p)

/-- Whether an operation of a troupe on its core's segment of a node waits for the next cycle, and that it has been applied (R111). -/
def State.engineHeld (s : State) (t : Troupe) (node : Nat) (o : QOp) : Bool :=
  (s.graphOf t).any fun g => s.engineBusy g node (s.coreOf g t) o
def State.engineTook (s : State) (t : Troupe) (node : Nat) (o : QOp) : State :=
  match s.graphOf t with
  | none => s
  | some g => s.engineRan g.lvl node (s.coreOf g t) o

/-- The queue engine, or the dispatch unit, replies (R440 to R444). Its operation is applied in the cycle in which it arrives, in the
order of R111. -/
def execQueueEngineReply (wg trix k : Nat) (s : State) : Host.Outcome State Fault Refusal :=
  match s.troupe? wg trix with
  | none => .next s
  | some t =>
    match t.pend? k with
    | none => .next s
    | some p =>
      match p.act with
      | .emit head node pred vd token lanes recs ph =>
        if !s.releaseDone t k .dev ph || s.engineHeld t node (.emit t) then .next s
        else
          match s.applyEmit t head node pred vd token lanes recs with
          | .error s => .next s
          | .ok s =>
            let sent := s.sentNow t
            .next (((s.engineTook t node (.emit t)).endPend t p fun u => { u with sent := sent }).freeZombies [token])
      | .deq node pred vd lanes =>
        if s.engineHeld t node .deq then .next s
        else .next ((((s.applyDeq t node pred vd lanes).engineTook t node .deq).endPend t p id).freeZombies (vd.map Prod.snd))
      | .gexit lanes => if s.releaseDone t k .tr 0 then .next ((s.applyGexit t lanes).endPend t p id) else .next s
      | _ => .next s

end Sys2Proof.Machine
end

