-- ==== Sys2Proof/Machine/CopyEv.lean ====
section
/-! DEFINITION. Copies as their engines run them (R411 to R416, R240) and signals of receive counters (R419). -/

namespace Sys2Proof.Machine

/-! ## The layout record (R411) -/

structure Layout where
  kind : Nat
  srcPad : Bool
  esize : Nat
  dims : Nat
  sig : Nat
  peer : Nat
  sigidx : Nat
  src : DWord
  dst : DWord
  ext : List Nat
  sstr : List DWord
  dstr : List DWord
  sigaddr : DWord

def stride (b : List Byte) (n : Nat) : DWord := (BitVec.ofNat 32 (leAt b n 4)).signExtend 64

/-- The record as its bytes give it; dimensions beyond DIMS have one element. -/
def layoutOf (b : List Byte) : Layout where
  kind := byteAt b 0 % 8
  srcPad := (b.getD 0 0).getLsbD 3
  esize := byteAt b 1
  dims := byteAt b 2
  sig := byteAt b 3
  peer := leAt b 4 2
  sigidx := leAt b 6 2
  src := BitVec.ofNat 64 (leAt b 8 8)
  dst := BitVec.ofNat 64 (leAt b 16 8)
  ext := (List.range 4).map fun d => if d < byteAt b 2 then leAt b (24 + 2 * d) 2 else 1
  sstr := (List.range 3).map fun d => stride b (32 + 4 * d)
  dstr := (List.range 3).map fun d => stride b (44 + 4 * d)
  sigaddr := BitVec.ofNat 64 (leAt b 56 8)

def Layout.count (l : Layout) : Nat := l.ext.foldl (· * ·) 1
def Layout.bytes (l : Layout) : Nat := l.count * 2 ^ l.esize

/-- The checks of R413 and of the fields of R411. -/
def Layout.ok (l : Layout) (b : List Byte) : Bool :=
  decide (byteAt b 0 < 16) && decide (l.kind ≤ 4) && decide (l.esize ≤ 3) && decide (1 ≤ l.dims) && decide (l.dims ≤ 4)
  && decide (l.sig ≤ 2) && l.ext.all (fun e => e != 0)
  && (match l.kind with | 2 => decide (l.peer ≤ 255) | 3 => decide (l.peer ≤ 255) | 4 => decide (l.peer ≤ 63) | _ => l.peer == 0)
  && (if l.sig = 2 then decide (l.sigidx ≤ 255) else l.sigidx == 0)
  && (l.sig == 1 || l.kind == 3 || l.sigaddr == 0)
  && !(l.sig == 1 && (l.kind == 1 || l.kind == 3 || l.kind == 4)) && !(l.sig == 2 && l.kind == 4)
  && decide (l.bytes ≤ 2 ^ 32 - 1)

/-- The offset of element i from a base, with the strides of one side. -/
def Layout.offset (l : Layout) (coords : List Word) (strides : List DWord) (i : Nat) : DWord :=
  let c (d : Nat) : DWord := (coords.getD d 0).signExtend 64
  let e0 := i % l.ext.getD 0 1
  let e1 := i / l.ext.getD 0 1 % l.ext.getD 1 1
  let e2 := i / (l.ext.getD 0 1 * l.ext.getD 1 1) % l.ext.getD 2 1
  let e3 := i / (l.ext.getD 0 1 * l.ext.getD 1 1 * l.ext.getD 2 1)
  let at_ (d e : Nat) : DWord := if d < l.dims then (c d + BitVec.ofNat 64 e) * strides.getD (d - 1) 0 else 0
  (c 0 + BitVec.ofNat 64 e0) * BitVec.ofNat 64 (2 ^ l.esize) + at_ 1 e1 + at_ 2 e2 + at_ 3 e3

def Layout.srcAt (l : Layout) (coords : List Word) (i : Nat) : DWord := l.src + l.offset coords l.sstr i
def Layout.dstAt (l : Layout) (coords : List Word) (i : Nat) : DWord := l.dst + l.offset coords l.dstr i

/-! ## Moving elements (R413, R414) -/

/-- Whether a destination byte of the copy is one of its source bytes too. -/
def Layout.overlaps (l : Layout) (coords : List Word) (a : DWord) : Bool :=
  ((l.kind == 0 && !l.srcPad) || (l.kind == 1 && l.srcPad))
    && (List.range l.count).any fun i => decide ((a - l.srcAt coords i).toNat < 2 ^ l.esize)

/-- One side's read: bytes, a fault code, or a wait. -/
def State.copyRead (s : State) (c : Ctx) (w : Workgroup) (die : Nat) (pad : Bool) (a : DWord) (n : Nat) : ReadEnd :=
  if pad then
    match w.scratch? (a.toNat % 2 ^ 32) n with
    | none => .fault scrown
    | some (core, i, ofs) =>
      match s.padRead core i ofs n with
      | .ok b => .bytes b
      | .error e => .fault e
  else s.readVa c die .read 2 a n

/-- The peer that a copy names, or the code of the fault (R42). -/
def State.copyPeer (s : State) (c : Ctx) (e : Nat) : Except Byte PeerEntry :=
  match c.peers.find? fun p => p.e == e with
  | none => .error xlate
  | some p =>
    if p.pod = s.boot.pod.toNat then .error xlate
    else if s.livePorts = [] then .error linkerr
    else .ok p

/-- The location of an offset into a peer's window. -/
def peerLoc (e ofs : Nat) : Nat := 10 * 2 ^ 48 + e * 2 ^ 40 + ofs

/-- A copy's bytes in local memory: what its die's untracked copies hold of the lines goes, so that a troupe that has seen the copy's end
reads what the copy wrote (R240). -/
def State.dropUntracked (s : State) (die loc n : Nat) : State :=
  { s with lines := s.lines.filter fun l =>
      !(l.die == die && !l.tracked && !l.excl && !l.window && (linesOf loc n).contains l.line) }

/-- The write of a run of elements that lie side by side in one 256-byte block (R40): one transaction. A peer's scratchpad takes it, or
the peer answers SCROWN, which this device does not decide. -/
def State.copyWrite (s : State) (c : Ctx) (w : Workgroup) (die : Nat) (l : Layout) (id : Nat) (a : DWord) (b : List Byte) : WriteEnd :=
  match l.kind with
  | 0 =>
    match s.writeVa c die a b with
    | .done s =>
      match s.translate c die .write a with
      | .at loc _ => .done (s.dropUntracked die loc b.length)
      | _ => .done s
    | e => e
  | 1 =>
    match w.scratch? (a.toNat % 2 ^ 32) b.length with
    | none => .fault scrown s
    | some (core, i, ofs) =>
      .done ((s.padWrite core i ofs b).modBuf core i fun x => x.heal fun k => decide (ofs ≤ k) && decide (k < ofs + b.length))
  | 2 =>
    match s.copyPeer c l.peer with
    | .error e => .fault e s
    | .ok p =>
      if 2 ^ 40 ≤ a.toNat then .fault protect s
      else
        match s.peerFault c (peerLoc l.peer a.toNat) b.length with
        | some e => .fault e s
        | none => .done (s.sendFab p.pod (some id) (.data (peerLoc l.peer a.toNat) b))
  | 3 =>
    match s.copyPeer c l.peer with
    | .error e => .fault e s
    | .ok p =>
      if (Config.freeWord s.free (2 ^ 28 + id)).getLsbD 0 then .fault scrown s
      else
        let o : Outgoing := .pad p.pod p.part p.ctx (l.sigaddr.toNat % 2 ^ 32) (l.sigaddr.toNat / 2 ^ 32) (a.toNat % 2 ^ 32) b
        .done (s.sendFab p.pod (some id) (.note o))
  | _ => .done s

/-- The bytes of an element as they are written: unspecified where source and destination overlap. -/
def Layout.blur (l : Layout) (coords : List Word) (free i : Nat) (a : DWord) (b : List Byte) : List Byte :=
  (List.range b.length).map fun k =>
    if l.overlaps coords (a + BitVec.ofNat 64 k) then (Config.freeWord free (2 ^ 29 + 8 * i + k)).extractLsb' 0 8 else b.getD k 0

/-- How far the elements of a copy have come: what it has moved, and the fault or the wait that stops it. -/
structure Moved where
  s : State
  bytes : Nat
  sent : List Byte
  fault : Option Byte
  wait : Option (Need × DWord × Nat)

/-- The elements of a copy in ascending order, cut into runs that lie side by side in one 256-byte block of the destination. -/
def Layout.runs (l : Layout) (coords : List Word) : List (List Nat) :=
  let joins (i : Nat) : Bool :=
    l.dstAt coords (i + 1) == l.dstAt coords i + BitVec.ofNat 64 (2 ^ l.esize)
      && (l.dstAt coords (i + 1)).toNat / 256 == (l.dstAt coords i).toNat / 256
  (List.range l.count).foldr (fun i rs =>
    match rs with
    | (j :: run) :: rest => if joins i then (i :: j :: run) :: rest else [i] :: (j :: run) :: rest
    | _ => [[i]]) []

/-- The runs in the order in which they move: any order may be taken, and the model's is a free rotation, up or down. -/
def Layout.order (l : Layout) (coords : List Word) (free id : Nat) : List (List Nat) :=
  let rs := l.runs coords
  let k := (Config.freeWord free (2 ^ 27 + id)).toNat % max 1 rs.length
  let up := rs.drop k ++ rs.take k
  if (Config.freeWord free (2 ^ 27 + id)).getLsbD 31 then up.reverse else up

/-- One element read, behind those that its run has read. -/
def State.readOne (c : Ctx) (w : Workgroup) (die : Nat) (l : Layout) (x : Copy) (m : Moved) (i : Nat) : Moved :=
  if m.fault.isSome || m.wait.isSome then m
  else
    let n := 2 ^ l.esize
    let a := l.srcAt x.coords i
    match m.s.copyRead c w die l.srcPad a n with
    | .fault e => { m with fault := some e, s := if l.srcPad then m.s else m.s.clearLost c die .read 2 a n }
    | .park => { m with wait := some (.read, a, n) }
    | .bytes b => { m with sent := m.sent ++ (if l.kind = 4 then b else l.blur x.coords m.s.free i (l.dstAt x.coords i) b) }

/-- A run moved: its elements are read, then written in one transaction. A network send only gathers them. -/
def State.moveRun (c : Ctx) (w : Workgroup) (die : Nat) (l : Layout) (x : Copy) (m : Moved) (run : List Nat) : Moved :=
  if m.fault.isSome || m.wait.isSome then m
  else
    let r := run.foldl (State.readOne c w die l x) { m with sent := if l.kind = 4 then m.sent else [] }
    let n := 2 ^ l.esize * run.length
    if r.fault.isSome || r.wait.isSome then r
    else if l.kind = 4 then { r with bytes := r.bytes + n }
    else
      let a := l.dstAt x.coords (run.headD 0)
      match r.s.copyWrite c w die l x.id a r.sent with
      | .done s => { r with s := s, bytes := r.bytes + n }
      | .fault e s => { r with s := s, fault := some e }
      | .park _ => { r with wait := some (.write, a, n) }

/-- Packets of at most 4,096 bytes (R45). -/
def sendPackets : Nat → List Byte → List (List Byte)
  | 0, _ => []
  | n + 1, b => if b = [] then [] else b.take 4096 :: sendPackets n (b.drop 4096)

/-- The Ethernet ports that take traffic: up, and on an X-die that is there (R16, R46). -/
def State.liveEth (s : State) : List Nat := (List.range 2).filter fun p => !s.ethDown.contains p && s.socketOn (49 + p)

/-- The packets of a network send (R45, R46): those of a reliable unordered message are spread over the ports, those of an ordered flow
stay on one. The delivery mode of a queue is the link core's (log entry 83). -/
def State.sends (s : State) (part queue : Nat) (b : List Byte) : List Outgoing :=
  let ordered := Config.queueOrdered part queue
  let ps := sendPackets (b.length / 4096 + 1) b
  (ps.zip (List.range ps.length)).map fun p =>
    .send part queue (s.liveEth.getD ((if ordered then queue else p.2) % max 1 s.liveEth.length) 0) ordered p.1

/-- Buffers that a copy uses (R158). -/
def Layout.buffers (l : Layout) (w : Workgroup) (x : Copy) : List (Nat × Nat) :=
  let of (a : DWord) : List (Nat × Nat) := ((w.scratch? (a.toNat % 2 ^ 32) 1).map fun p => (p.1, p.2.1)).toList
  ((List.range l.count).flatMap fun i =>
    (if l.srcPad then of (l.srcAt x.coords i) else []) ++ (if l.kind = 1 then of (l.dstAt x.coords i) else [])).eraseDups

def State.modCopy (s : State) (id : Nat) (f : Copy → Copy) : State := { s with copies := modWhere s.copies (fun x => x.id == id) f }

/-- A copy that has moved what it moves: its layout's fields and its status stand in its record. -/
def State.copyMoved (s : State) (x : Copy) (l : Layout) (w : Workgroup) (bytes : Nat) (fault : Option Byte) : State :=
  let s := s.moveBytes w.id bytes
  s.modCopy x.id fun y => { y with
    stage := if fault.isSome then .signalled else .moved
    kind := l.kind, peer := l.peer, sig := l.sig, sigidx := l.sigidx, sigaddr := l.sigaddr
    size := bytes, bufs := l.buffers w x
    status := if fault.isSome then 1 else 0, fault := fault.getD 0
    due := if l.kind = 2 || l.kind = 3 then some (s.clockOf x.die + 2 ^ s.timeoutK) else none }

/-- Whether what a copy reads is there (R413, R240, R388): what its troupe stored before it is performed, and so is what its die has under
way. -/
def State.copyReady (s : State) (x : Copy) : Bool :=
  (match s.troupe? x.wg x.trix with
    | some t => s.releaseDone t x.id .wg 0
    | none => true)
  && (s.reqs.all fun r => !(r.wg == x.wg && r.trix == x.trix && decide (r.id < x.id) && memWrites r.op) || r.over)
  && s.dieQuiet x.die x.id

/-- A malformed copy, or one whose record cannot be read: it moves nothing. -/
def State.badCopy (s : State) (id : Nat) : State := s.modCopy id fun y => { y with stage := .signalled, status := 2, fault := 2 }

/-- The elements of a copy move, or it waits for a page or for lines. -/
def State.moveCopy (s : State) (c : Ctx) (w : Workgroup) (x : Copy) (l : Layout) : State :=
  let order := if l.kind = 4 then l.runs x.coords else l.order x.coords s.free x.id
  let m := order.foldl (State.moveRun c w x.die l x) ⟨s, 0, [], none, none⟩
  match m.wait with
  | some (need, a, n) =>
    match s.agentPark c x.die need a n with
    | .ok s => s
    | .error e => e.2.copyMoved x l w 0 (some e.1)
  | none =>
    let outs := if l.kind = 4 && m.fault.isNone then s.sends c.part l.peer m.sent else []
    ({ m.s with free := s.free + 1, out := m.s.out ++ outs }).copyMoved x l w m.bytes m.fault

/-- The engine starts a copy once its troupe's earlier writes are visible: it reads the layout record and moves the elements. One to a
network send queue waits while no Ethernet port takes traffic (log entry 83). -/
def execCopyEngineStart (copy : Nat) (s : State) : Host.Outcome State Fault Refusal :=
  match s.copies.find? fun x => x.id == copy && x.stage == .waiting with
  | none => .next s
  | some x =>
    match s.ctx? x.ctx, s.wg? x.wg with
    | some c, some w =>
      if !s.copyReady x then .next s
      else
        match s.readVa c x.die .read 2 x.layout 64 with
        | .fault _ => .next ((s.clearLost c x.die .read 2 x.layout 64).badCopy copy)
        | .park => match s.agentPark c x.die .read x.layout 64 with
          | .ok s => .next s
          | .error e => .next (e.2.badCopy copy)
        | .bytes b =>
          let l := layoutOf b
          if !l.ok b then .next (s.badCopy copy)
          else if l.kind = 4 && s.liveEth = [] then .next s
          else .next (s.moveCopy c w x l)
    | _, _ => .next { s with copies := s.copies.filter fun y => y.id != copy }

/-! ## Completion (R415 to R417) -/

/-- A barrier object's signal at its home: the status and fault of the copy, or a page to wait for. -/
def State.copySignal (s : State) (c : Ctx) (x : Copy) : Option (State × Byte × Byte) :=
  let act (s : State) (loc : Nat) (raw : Bool) : State × Byte × Byte :=
    let b := if raw then cellsGet s.mem loc 64 else s.view loc 64
    let r := objSignal b x.gen.toNat
    let s := if raw then { s with mem := cellsSet s.mem loc r.2 } else s.viewWrite loc r.2
    if r.1 = 0x20 then (s, 3, barstale) else (s, 0, 0)
  if x.sigaddr.toNat % 64 ≠ 0 then some (s, 1, misalign)
  else if x.kind = 2 then
    if 2 ^ 40 ≤ x.sigaddr.toNat then some (s, 1, protect)
    else
      match s.peerFault c (peerLoc x.peer x.sigaddr.toNat) 64 with
      | some e => some (s, 1, e)
      | none => some (act s (peerLoc x.peer x.sigaddr.toNat) true)
  else
    match s.translate c x.die .atom x.sigaddr with
    | .fault e => some (s, 1, e)
    | .park _ => match s.agentPark c x.die .atom x.sigaddr 64 with
      | .ok _ => none
      | .error e => some (e.2, 1, e.1)
    | .at loc pte =>
      if locKind loc = 15 || (c.windowOf pte x.sigaddr).any (·.2) then some (s, 1, protect)
      else
        match s.atomEnd c x.die loc 64 with
        | .fault e s => some (s, 1, e)
        | .wait => none
        | .go => some ((act s loc false).1.markDirty c x.sigaddr, (act s loc false).2)

/-- The signal of a copy: its state moves to the record and the tag. A page that must be resolved is handed over. -/
def State.signalStep (s : State) (c : Ctx) (x : Copy) : State :=
  let on (s : State) (st f : Byte) : State := s.modCopy x.id fun y => { y with stage := .signalled, status := st, fault := f }
  match x.sig with
  | 1 =>
    match s.copySignal c x with
    | some (s, st, f) => on s st f
    | none => (s.agentPark c x.die .atom x.sigaddr 64).toOption.getD s
  | 2 =>
    if x.kind = 2 ∨ x.kind = 3 then
      match s.copyPeer c x.peer with
      | .error e => on s 1 e
      | .ok p => on (s.sendFab p.pod (some x.id) (.note (.count p.pod p.part p.ctx x.sigidx))) 0 0
    else on { s with signals := s.signals ++ [(x.ctx, x.sigidx)] } 0 0
  | _ => on s 0 0

/-- A completion record (R416). -/
def copyRecord (x : Copy) (seq : Nat) : List Byte :=
  natLe 8 seq ++ natLe 8 x.size ++ [x.status, x.fault, BitVec.ofNat 8 (ctlTag x.ctl), BitVec.ofNat 8 (ctlCid x.ctl)]
    ++ natLe 4 x.lvlk.toNat ++ List.replicate 8 0

/-- The record of a copy that asks for one: none while its page is to be resolved. -/
def State.writeRecord (s : State) (c : Ctx) (x : Copy) : Except State State :=
  if !ctlRec x.ctl || !c.comp.getLsbD 0 then .ok s
  else
    let va : DWord := BitVec.ofNat 64 (fieldD c.comp 47 12 * 4096 + 32 * (c.seq % 2 ^ (7 + fieldD c.comp 11 8)))
    let count (s : State) : State := s.modCtx c.key fun c => { c with seq := c.seq + 1 }
    match s.writeVa c c.lowDie va (copyRecord x c.seq) with
    | .park s => .error s
    | .done s => .ok (count s)
    | .fault e s => .ok ((count s).report [.page c.key va e])

/-- Whether a copy's status makes its workgroup's item failed (R102). -/
def copyFails (st : Byte) : Bool := st == 1 || st == 2 || st == 4 || st == 5

/-- The buffers of a pre-empted workgroup that no copy in flight uses are saved, and their physical buffers freed (R158). -/
def State.saveBufs (s : State) (wg : Nat) : State :=
  match s.wg? wg with
  | none => s
  | some w =>
    (w.binds.filter fun b => b.saved.isNone && !s.bufBusy wg b.core b.idx).foldl (fun s b =>
      match s.buf? b.core b.idx with
      | none => s
      | some x =>
        let s := { s with bufs := s.bufs.filter fun y => !(y.core == b.core && y.idx == b.idx) }
        s.modWg wg fun w => { w with binds := w.binds.map fun y => if y.handle == b.handle then { y with saved := some x } else y }) s

/-- The tag's state, and the end of the copy. -/
def State.endCopy (s : State) (x : Copy) : State :=
  let s := s.modTag x.wg (ctlTag x.ctl) fun g =>
    let n := g.count - 1
    { g with count := n, done := g.done || n == 0
             stat := if g.stat = 0 then x.status else g.stat
             fault := if g.stat = 0 then x.fault else g.fault }
  let s := s.modWg x.wg fun w => { w with failed := w.failed || copyFails x.status }
  let s := { s with copies := s.copies.filter fun y => y.id != x.id }
  match s.wg? x.wg with
  | some w => if w.status = .saved ∨ w.status = .halted then s.saveBufs x.wg else s
  | none => s

/-- The next step of a copy's completion. -/
def execCopyComplete (copy : Nat) (s : State) : Host.Outcome State Fault Refusal :=
  match s.copies.find? fun x => x.id == copy with
  | none => .next s
  | some x =>
    match x.stage, s.ctx? x.ctx with
    | .moved, some c => .next (if s.copyQueued copy then s else s.signalStep c x)
    | .signalled, some c =>
      if s.copyQueued copy || (x.sig = 2 && x.status = 0 && s.signals.contains (x.ctx, x.sigidx)) then .next s
      else
        match s.writeRecord c x with
        | .error s => .next s
        | .ok s => .next (s.endCopy x)
    | .signalled, none => .next (s.endCopy x)
    | _, _ => .next s

/-- A copy signal, of this device or of a peer, increments a receive counter, and the armed copies are checked (R419, R421). -/
def execReceiveCounterSignal (ctx idx : Nat) (s : State) : Host.Outcome State Fault Refusal :=
  match s.ctx? ctx with
  | none => .next s
  | some _ =>
    if idx ≥ 256 then .next s
    else
      let s := { s with signals := s.signals.erase (ctx, idx) }
      .next ((s.modCtx ctx fun c => c.setCounter idx (c.counter idx + 1)).fireArmed ctx idx)

end Sys2Proof.Machine
end

