-- ==== Sys2Proof/Machine/Pages.lean ====
section
/-! DEFINITION. Mapping and unmapping pages (R81, R160 to R164, R170), and reads of descriptors by a command complex. -/

namespace Sys2Proof.Machine

/-! ## Entries -/

/-- An entry that points to a table (R163). -/
def tablePte (f : Nat) : DWord := BitVec.ofNat 64 (2 ^ 61 + f % 2 ^ 40 * 2 ^ 12)

/-- What a mapping gives every leaf (R161). -/
structure LeafSpec where
  share : Nat
  group : Nat
  role : Bool
  rfmt : Bool
  typed : Bool
  x : Bool
  w : Bool
  r : Bool
  c64 : Bool
  deriving DecidableEq, Repr

/-- The leaf of a frame. -/
def LeafSpec.pte (l : LeafSpec) (f : Nat) : DWord :=
  let b (v : Bool) (n : Nat) : Nat := if v then 2 ^ n else 0
  BitVec.ofNat 64 (l.share % 8 * 2 ^ 61 + l.group % 16 * 2 ^ 57 + b l.role 56 + b l.rfmt 55 + b l.typed 54 + f % 2 ^ 40 * 2 ^ 12
    + b l.x 5 + b l.w 4 + b l.r 3 + 4 + b l.c64 1)

def ctxRoot (c : Ctx) : Nat := fieldD c.ptb 51 12

/-- The location of the entry for an address at a level, tables being allocated where there are none; none when no frame is free. -/
def State.entryFrom (s : State) (c : Ctx) (va target : Nat) : Nat → Nat → Option (State × Nat)
  | 0, _ => none
  | level + 1, table =>
    match c.locOf (table + 8 * (va / 2 ^ (12 + 9 * level) % 512)) with
    | none => none
    | some loc =>
      if level + 1 = target then some (s, loc)
      else
        let p := s.viewD loc
        if pteShare p = 1 && !pteLeaf p then s.entryFrom c va target level (ptePfn p * 4096)
        else
          match s.takeFrame c fun _ => true with
          | none => none
          | some (f, s) => (s.setPte loc (tablePte f)).entryFrom c va target level (f * 4096)

/-- A page mapped at a level by an entry. -/
def State.mapEntry (s : State) (c : Ctx) (va level : Nat) (p : DWord) : Option State :=
  (s.entryFrom c va level 4 (ctxRoot c * 4096)).map fun (s, loc) => s.setPte loc p

/-- Whether any page of a range of addresses is mapped. -/
def State.anyMapped (s : State) (c : Ctx) (va len : Nat) : Bool :=
  (s.leaves c).any fun l => decide (l.va < va + len) && decide (va < l.va + 2 ^ (12 + 9 * (l.level - 1)))

/-- n frames that stand together, aligned to n, all free (R160). -/
def State.takeRun (s : State) (c : Ctx) (n : Nat) : Option (Nat × State) :=
  match s.pickFrame fun f => f % n == 0 && (List.range n).all fun i => s.frameFree c (f + i) with
  | none => none
  | some f =>
    some (f, (List.range n).foldl (fun s i => match s.takeFrame c (· == f + i) with | some (_, s) => s | none => s) s)

/-! ## Unmapping -/

/-- A 4 KiB leaf set absent (R81): its frame, if it is of kind 0x0, is free once R170's wait has ended. An entry of the migration
table goes with it. -/
def State.unmapPage (s : State) (c : Ctx) (page : Nat) : State :=
  match s.pageLeaf c page with
  | none => s
  | some l =>
    let share := pteShare l.pte
    let s := s.changeLeaf c page l.loc 0
    let s := { s with
      migrs := s.migrs.filter fun m => !(m.ctx == c.key && m.page == page)
      gathers := s.gathers.filter fun g => !(g.ctx == c.key && g.page == page) }
    if share = 6 then s else s.letGo c (ptePfn l.pte) page

/-! ## Pages of the device's own (R130) -/

/-- The page that holds the device's copy of a job's inline bytes: its place in the context is the device's choice. -/
def State.inlinePage (s : State) (c : Ctx) : Option Nat :=
  firstFrom (fun p => !s.anyMapped c (4096 * p) 4096) (2 ^ 36) (2 ^ 36) (Config.inlinePage s.fresh)

/-- Inline bytes copied into a page that programs may read; none where no frame is free. -/
def State.copyInline (s : State) (c : Ctx) (bytes : List Byte) : Option (DWord × State) :=
  match s.inlinePage c with
  | none => none
  | some page =>
    match s.takeFrame c fun _ => true with
    | none => none
    | some (f, s) =>
      (s.mapEntry c (4096 * page) 1 ((⟨1, 0, false, false, false, false, false, true, false⟩ : LeafSpec).pte f)).map fun s =>
        (BitVec.ofNat 64 (4096 * page), s.viewWrite (c.frameLoc f) bytes)

/-! ## Reads by a command complex -/

/-- How a read of a descriptor ends. -/
inductive DescEnd where
  | fault (code : Byte) (s : State)
  | park (s : State)
  | bytes (b : List Byte)

/-- n bytes that a core of a die's complex reads by address. -/
def State.descRead (s : State) (c : Ctx) (die : Nat) (va : DWord) (n : Nat) : DescEnd :=
  match s.readVa c die .read (n / 4096 + 2) va n with
  | .bytes b => .bytes b
  | .fault e => .fault e s
  | .park =>
    match s.agentPark c die .read va n with
    | .ok s => .park s
    | .error e => .fault e.1 e.2

end Sys2Proof.Machine
end

