-- ==== Sys2Proof/Machine/Levels.lean ====
section
/-! DEFINITION. Levels (R86 to R90, R101, R103): identifiers, checks of descriptors, cancellation, and the end of a level. -/

namespace Sys2Proof.Machine

/-! ## New levels (R86) -/

/-- An identifier that no live level of the context has. -/
def State.newIdent (s : State) (key : Nat) : Word :=
  let used := (s.levels.filter fun l => l.ctx == key).map Level.ident
  (((List.range (used.length + 2)).map fun i => Config.levelIdent s.fresh + BitVec.ofNat 32 i).find? fun w =>
    w != noLevel && !used.contains w).getD 0

/-- A level that has just begun. -/
def newLevel (id : Nat) (ident : Word) (kind : LvlKind) (c : Ctx) (dev : Nat) (up : Option Nat) (job total : Nat)
    (sig : Option (DWord × DWord)) : Level where
  id := id
  ident := ident
  part := c.part
  dev := dev
  ctx := c.key
  kind := kind
  up := up
  job := job
  counter := 0
  total := total
  sig := sig
  failed := false
  cancelledItem := false
  cancel := false
  admitted := false
  status := 0
  members := []
  next := 0
  kdesc := none
  desc := 0
  x := 0
  y := 0
  z := 0
  args := 0
  nextW := []
  preempted := []

/-- A level added; `f` fills in what its kind needs. The answer is its number. -/
def State.addLevel (s : State) (kind : LvlKind) (c : Ctx) (dev : Nat) (up : Option Nat) (job total : Nat)
    (sig : Option (DWord × DWord)) (f : Level → Level) : Nat × State :=
  let l := f (newLevel s.fresh (s.newIdent c.key) kind c dev up job total sig)
  (s.fresh, { s with levels := s.levels ++ [l], fresh := s.fresh + 1 })

/-- The leading die of a level's device. -/
def State.leadOf (s : State) (l : Level) : Nat := (s.ctx? l.ctx).elim 0 fun c => c.lead l.dev

/-! ## Kernel descriptors (R327, R328) -/

/-- A descriptor from its 64 bytes. -/
def kdescOf (b : List Byte) : Kdesc where
  entry := BitVec.ofNat 64 (leAt b 0 8)
  allot := byteAt b 8
  troupes := byteAt b 9
  peak := leAt b 10 2
  bufs := byteAt b 12
  tags := byteAt b 13
  bars := byteAt b 14
  energy := leAt b 16 6
  recsize := leAt b 24 2
  ndepth := byteAt b 26
  hold := leAt b 28 4

/-- The first row of R328: a field out of its range. `node` says that a graph node names the kernel. -/
def kdescBad (node : Bool) (b : List Byte) : Bool :=
  let k := kdescOf b
  k.allot == 0 || k.troupes == 0 || decide (16 < k.troupes) || decide (64 < k.bufs) || decide (64 < k.tags) || decide (16 < k.bars)
    || byteAt b 15 != (if node then 1 else 0) || leAt b 22 2 != 0 || byteAt b 27 != 1 || leAt b 0 8 % 4 != 0
    || leNat (b.drop 36) != 0
    || (if node then decide (31 < k.ndepth) || k.recsize % 16 != 0 || decide (k.recsize < 16) || decide (256 < k.recsize)
        else k.recsize != 0 || k.ndepth != 0 || k.hold != 0)

/-- The save slot of a workgroup (R258). -/
def Kdesc.slotSize (k : Kdesc) : Nat := cdiv (1024 + 2048 * k.troupes + 1536 * k.peak + 8192 * k.bufs) 4096 * 4096

/-- The save pool of a context in bytes; 0 where it is not valid. -/
def Ctx.pool (c : Ctx) : Nat := if c.save.getLsbD 0 then fieldD c.save 63 48 * 2 ^ 20 else 0

/-- The status that R328 gives a descriptor, 0 where it gives none. -/
def State.kdescStatus (s : State) (c : Ctx) (die : Nat) (node : Bool) (b : List Byte) : Byte :=
  let k := kdescOf b
  if kdescBad node b then 3
  else if (s.die die).ceil.toNat < k.energy then 4
  else if 512 < k.peak || c.pool < k.slotSize then 5
  else 0

/-! ## Energy (R62) -/

/-- An estimate leaves HELD. -/
def State.unhold (s : State) (part e : Nat) : State := s.modPart part fun p => { p with held := p.held - e }

/-- The admissions that meet a test are withdrawn; a granted one lowers HELD by its estimate. -/
def State.dropAdms (s : State) (p : Adm → Bool) : State :=
  let s1 := (s.adms.filter fun a => p a && a.st == .granted).foldl (fun s a =>
    match s.partOfDie a.die with
    | some n => s.unhold n a.energy
    | none => s) s
  { s1 with adms := s1.adms.filter fun a => !p a }

/-! ## Cancellation (R101, R122, R422) -/

/-- The kinds of item in the error core's records. -/
def itemWorkgroup : Nat := 0
def itemRecord : Nat := 1
def itemCopy : Nat := 2

/-- Whether a level lies inside another, or is it. -/
def State.insideUp (s : State) (top : Nat) : Nat → Option Nat → Bool
  | 0, _ => false
  | fuel + 1, some l => l == top || s.insideUp top fuel ((s.level? l).bind Level.up)
  | _, none => false

def State.inside (s : State) (top lvl : Nat) : Bool := s.insideUp top 6 (some lvl)

/-- The next index that a launch starts on its i-th die (R91). -/
def Level.nextOn (l : Level) (die i : Nat) : Nat := ((l.nextW.find? fun x => x.1 == die).map Prod.snd).getD i

/-- The workgroups of a launch that have been started. -/
def Level.started (l : Level) (dies : List Nat) : Nat :=
  ((dies.zip (List.range dies.length)).map fun x => (l.nextOn x.1 x.2 - x.2) / max 1 dies.length).foldl (· + ·) 0

/-- The workgroups of a launch that never started are cancelled. -/
def State.cancelLaunch (s : State) (l : Level) : State :=
  let dies := s.levelDies l
  let closed := dies.all fun d => decide (l.total ≤ (l.nextW.find? fun x => x.1 == d).elim 0 Prod.snd)
  let n := if closed && l.nextW != [] then 0 else l.total - l.started dies
  let s := s.dropAdms fun a => match a.what with | .kernel v _ => v == l.id | _ => false
  let s := s.modLevel l.id fun l => { l with
    counter := l.counter + n, cancelledItem := l.cancelledItem || n != 0, nextW := dies.map fun d => (d, l.total) }
  s.report (List.replicate n (.item itemWorkgroup l.id))

/-- A record of a graph that is cancelled or has failed: its slot is freed and the counter falls (R118). -/
def State.endRecord (s : State) (lvl node core slot : Nat) : State :=
  (s.modGraph lvl fun g => { g.freeSlot node core slot with counter := g.counter - 1 }).report [.item itemRecord lvl]

/-- Records of a segment that meet a test end as cancelled. -/
def State.cancelRecords (s : State) (lvl node core : Nat) (slots : List Nat) : State :=
  let s := slots.foldl (fun s k => s.endRecord lvl node core k) s
  if slots = [] then s else s.modLevel lvl fun l => { l with cancelledItem := true }

/-- Records that a steal gives back to a segment, at its tail: a cancel that has been applied meets them there (R120, R122). -/
def State.giveBack (s : State) (lvl node core : Nat) (rs : List GRec) : State :=
  match s.graph? lvl with
  | none => s
  | some g =>
    if s.graphCancelled g then s.cancelRecords lvl node core (rs.map GRec.slot)
    else s.modGraph lvl fun g => rs.foldl (fun g r => g.place node core false r) g

def State.cancelGraph (s : State) (l : Level) : State :=
  match s.graph? l.id with
  | none => s.modLevel l.id fun l => { l with cancelledItem := true }
  | some g =>
    let s := s.dropAdms fun a => match a.what with | .node v _ _ => v == l.id | _ => false
    let s := { s with offers := s.offers.filter fun o => o.lvl != l.id }
    g.segs.foldl (fun s x => s.cancelRecords l.id x.node x.core ((x.recs.filter GRec.takeable).map GRec.slot ++ x.deps)) s

/-- The armed copies of a level's workgroups complete with status 0x06. -/
def State.cancelArmed (s : State) (lvl : Nat) : State :=
  let mine (id : Nat) : Bool := (s.wg? id).elim false fun w => s.inside lvl w.lvl
  { s with copies := s.copies.map fun (x : Copy) =>
    match x.stage with
    | .armed _ => if mine x.wg then { x with stage := .signalled, status := 6 } else x
    | _ => x }

/-- A cancel is applied to a level and to every level inside it. -/
def State.cancelLevel (s : State) (lvl : Nat) : State :=
  match s.level? lvl with
  | none => s
  | some _ =>
    let s := s.modLevel lvl fun l => { l with cancel := true }
    let ins := s.levels.filter fun l => s.inside lvl l.id
    let s := ins.foldl (fun s l =>
      match l.kind with
      | .launch => s.cancelLaunch l
      | .graph => s.cancelGraph l
      | _ => s) s
    s.cancelArmed lvl

/-- The leader applies the cancel at the head of its list (R101). -/
def execLevelCancelApply (part : Nat) (s : State) : Host.Outcome State Fault Refusal :=
  match (s.part part).bind fun p => p.cancels.head? with
  | none => .next s
  | some (_, lvl) => .next ((s.modPart part fun p => { p with cancels := p.cancels.drop 1 }).cancelLevel lvl)

/-! ## The end of a level (R88, R78) -/

/-- Whether a level's items have all ended. -/
def State.levelOver (s : State) (l : Level) : Bool :=
  !(s.levels.any fun x => x.up == some l.id && x.kind != .nodeLaunch)
  && ((l.status != 0 && (s.graph? l.id).all fun g => g.running == 0) ||
    match l.kind with
    | .graph => match s.graph? l.id with | some g => g.counter == 0 | none => (s.cancelOf l.id).isSome
    | .nodeLaunch => false
    | _ => decide (l.total ≤ l.counter))

def State.levelStatus (s : State) (l : Level) : Byte :=
  if l.status ≠ 0 then l.status
  else if l.failed then 2
  else if l.cancelledItem && (s.cancelOf l.id).isSome then 1
  else 0

/-- A signal word: the status, and bits [55:0] of the value asked for. -/
def signalWord (st : Byte) (v : DWord) : DWord := st ++ v.extractLsb' 0 56

/-- The write of a signal word: the state while its page is to be resolved. A write that fails goes to the error core. -/
def State.writeSignal (s : State) (c : Ctx) (die : Nat) (sig : Option (DWord × DWord)) (st : Byte) : Except State State :=
  match sig with
  | none => .ok s
  | some (va, v) =>
    match s.writeVa c die va (natLe 8 (signalWord st v).toNat) with
    | .done s => .ok s
    | .park s => .error s
    | .fault e s => .ok (s.report [.page c.key va e])

def State.job? (s : State) (id : Nat) : Option Job := s.jobs.find? fun j => j.id == id

/-- A job's record goes, with the device's copy of its inline bytes; its host is told where it asked to be (R78). What the deputy holds
of it stands until the release reaches it (R69). -/
def State.endJob (s : State) (c : Ctx) (j : Job) (st : Byte) : State :=
  let s := { s with jobs :=
    if j.deputy = .acked then modWhere s.jobs (fun x => x.id == j.id) fun x => { x with deputy := .releasing }
    else s.jobs.filter fun x => x.id != j.id }
  let s := if j.inl = 0 then s else s.unmapPage c (j.inl.toNat / 4096)
  if j.flags.getLsbD 2 then { s with out := s.out ++ [.msix j.part j.q, .jobNote j.part j.tag st j.q j.slot] } else s

/-- A level that has ended: it is counted by the level above, and its items' failures and cancellations pass up. -/
def State.closeLevel (s : State) (c : Ctx) (l : Level) (st : Byte) : State :=
  let s := { s with
    levels := s.levels.filter fun x => x.id != l.id && x.up != some l.id
    graphs := s.graphs.filter fun g => g.lvl != l.id }
  let s := match l.up with
    | none => s
    | some u => s.modLevel u fun x => { x with
        counter := x.counter + 1, failed := x.failed || st == 2, cancelledItem := x.cancelledItem || st == 1
        status := if 3 ≤ st.toNat && x.status = 0 then st else x.status }
  match l.kind, s.job? l.job with
  | .job, some j => s.endJob c j st
  | _, _ => s

/-- The dirty lines of non-coherent windows that a device's caches hold leave for their homes (R88, step 1). -/
def State.flushWindows (s : State) (dies : List Nat) : State :=
  (s.lines.filter fun l => l.window && l.dirty != 0 && dies.contains l.die).foldl (fun s l => (s.treatLine .wb l).1) s

/-- Whether a level's writes are all done (R88, step 1): window lines and combined stores have left the device's caches and arrived, and the
level's stores and atomics are performed. -/
def State.levelFlushed (s : State) (l : Level) (dies : List Nat) : Bool :=
  !(s.lines.any fun x => x.window && x.dirty != 0 && dies.contains x.die)
  && !(s.wbs.any fun w => w.window && dies.contains w.die)
  && !(s.combines.any fun x => dies.contains x.die)
  && s.reqs.all fun r => r.ctx != l.ctx || !dies.contains r.die || !memWrites r.op || r.over
    || (s.wg? r.wg).any fun w => !s.inside l.id w.lvl

/-- The die that writes a level's signal word: the leading die, or its deputy where the leading die is in reset (R70). -/
def State.writerOf (s : State) (c : Ctx) (dev : Nat) : Nat :=
  if (s.router (c.lead dev)).inReset then ((c.devDies dev)[1]?).getD (c.lead dev) else c.lead dev

/-- A level ends once its device's caches are flushed and its writes are done (R88, step 1); then its signal word is written. -/
def execLevelEnd (lvl : Nat) (s : State) : Host.Outcome State Fault Refusal :=
  match s.level? lvl with
  | none => .next s
  | some l =>
    match s.ctx? l.ctx with
    | none => .next s
    | some c =>
      if !s.levelOver l then .next s
      else if !s.levelFlushed l (c.devDies l.dev) then .next (s.flushWindows (c.devDies l.dev))
      else
        let st := s.levelStatus l
        match s.writeSignal c (s.writerOf c l.dev) l.sig st with
        | .error s => .next s
        | .ok s => .next (s.closeLevel c l st)

end Sys2Proof.Machine
end

