-- ==== Sys2Proof/Machine/Sched.lean ====
section
/-! DEFINITION. Scheduling (R85, R87, R90 to R94, R102): members of a step, the admission of launches, start queues, the start and
the retirement of workgroups, the energy account (R61, R62). -/

namespace Sys2Proof.Machine

/-! ## Members of a step (R87, R90) -/

/-- The next member starts once the one before it has ended. A cancelled step admits none: its remaining members are cancelled. -/
def execStepMemberStart (lvl : Nat) (s : State) : Host.Outcome State Fault Refusal :=
  match s.level? lvl with
  | none => .next s
  | some l =>
    match s.ctx? l.ctx, l.members[l.next]? with
    | some c, some m =>
      if l.kind ≠ .step || l.status != 0 || (s.levels.any fun x => x.up == some lvl) then .next s
      else if (s.cancelOf lvl).isSome then
        .next (s.modLevel lvl fun l => { l with
          counter := l.total, next := l.members.length, cancelledItem := true })
      else
        let s := s.modLevel lvl fun l => { l with next := l.next + 1 }
        .next (s.addLevel (if m.kernel then .launch else .graph) c l.dev (some lvl) l.job (m.x * m.y * m.z) m.sig fun v =>
          { v with desc := m.desc, x := m.x, y := m.y, z := m.z, args := m.args }).2
    | _, _ => .next s

/-- A launch's kernel descriptor is read and checked, and the launch admitted (R90, R328): it joins the end of the admission
order. -/
def execKernelLaunchAdmit (lvl : Nat) (s : State) : Host.Outcome State Fault Refusal :=
  match s.level? lvl with
  | none => .next s
  | some l =>
    match s.ctx? l.ctx with
    | none => .next s
    | some c =>
      if l.kind ≠ .launch || l.admitted || l.status != 0 || (s.cancelOf lvl).isSome then .next s
      else
        match s.descRead c (c.lead l.dev) l.desc 64 with
        | .park s => .next s
        | .fault _ s => .next (s.modLevel lvl fun l => { l with status := 3 })
        | .bytes b =>
          let st := s.kdescStatus c (c.lead l.dev) false b
          if st ≠ 0 then .next (s.modLevel lvl fun l => { l with status := st })
          else
            .next { s with levels := (s.levels.filter fun x => x.id != lvl) ++ [{ l with admitted := true, kdesc := some (kdescOf b) }] }

/-! ## What a core has free (R85, R92) -/

/-- The slots that T troupes need on pipe p. -/
def slotsNeeded (t p : Nat) : Nat := (t + 3 - p) / 4

/-- The descriptor and the context of what an admission is for. -/
def State.startOf (s : State) (w : StartWhat) : Option (Kdesc × Nat) :=
  match w with
  | .kernel lvl _ => (s.level? lvl).bind fun l => l.kdesc.map fun k => (k, l.ctx)
  | .node lvl node _ => (s.graph? lvl).bind fun g => (g.node? node).bind fun n => (s.level? lvl).map fun l => (n.k, l.ctx)

def WgStatus.resident : WgStatus → Bool
  | .running => true
  | .stopping => true
  | .draining => true
  | _ => false

def State.residents (s : State) (die core : Nat) : List Workgroup :=
  s.wgs.filter fun w => w.die == die && w.core == core && w.status.resident

/-- Descriptors whose admission to a core is under way. -/
def State.coming (s : State) (die core : Nat) : List Kdesc :=
  (s.adms.filter fun a => a.die == die && a.core == core && a.st != .refused).filterMap fun a => (s.startOf a.what).map Prod.fst

def sum (l : List Nat) : Nat := l.foldl (· + ·) 0

def State.freeSlots (s : State) (die core p : Nat) : Nat :=
  slotsPerPipe - (s.troupes.filter fun t => t.pipe == 32 * die + 4 * core + p && !t.exited).length
    - sum ((s.coming die core).map fun k => slotsNeeded k.troupes p)

/-- The buffers of a core that are neither bound nor reserved (R92, R154). -/
def State.freeBufs (s : State) (die core : Nat) : Nat :=
  64 - (s.bufs.filter fun b => b.core == 8 * die + core).length
    - sum ((s.residents die core).map fun w => w.bufs - (s.bufs.filter fun b => b.wg == w.id).length)
    - sum ((s.coming die core).map Kdesc.bufs)

/-- What a workgroup asks of a core: slots on each pipe, buffers, tags, barriers, its declared peak. -/
structure Demand where
  slots : List Nat
  bufs : Nat
  tags : Nat
  bars : Nat
  peak : Nat
  deriving DecidableEq, Repr

def Kdesc.demand (k : Kdesc) : Demand := ⟨(List.range 4).map (slotsNeeded k.troupes), k.bufs, k.tags, k.bars, k.peak⟩

def State.fits (s : State) (die core : Nat) (d : Demand) : Bool :=
  ((List.range 4).all fun p => decide (d.slots.getD p 0 ≤ s.freeSlots die core p)
    && decide (d.peak + (s.physUsed (32 * die + 4 * core + p)).length ≤ 512))
  && decide (d.bufs ≤ s.freeBufs die core)
  && decide (d.tags + sum ((s.residents die core).map Workgroup.ntags) + sum ((s.coming die core).map Kdesc.tags) ≤ 256)
  && decide (d.bars + sum ((s.residents die core).map Workgroup.nbars) + sum ((s.coming die core).map Kdesc.bars) ≤ 64)

def State.freeTotal (s : State) (die core : Nat) : Nat := sum ((List.range 4).map fun p => s.freeSlots die core p)

/-- The core of a die that R92 chooses: the one with the most free resident slots, the lowest on a tie. -/
def State.bestCore (s : State) (die : Nat) (d : Demand) : Option Nat :=
  ((List.range 8).filter fun c => s.fits die c d).foldl (fun best c =>
    match best with
    | none => some c
    | some b => if s.freeTotal die b < s.freeTotal die c then some c else some b) none

/-- The save slot of a started workgroup (R258). -/
def Workgroup.slotSize (w : Workgroup) : Nat := cdiv (1024 + 2048 * w.troupes + 1536 * w.peak + 8192 * w.bufs) 4096 * 4096

/-- Whether a save slot of a context's pool is free. -/
def State.poolRoom (s : State) (c : Ctx) (n : Nat) : Bool :=
  let started := sum ((s.wgs.filter fun w => w.ctx == c.key).map Workgroup.slotSize)
  let coming := sum ((s.adms.filter fun a => a.st != .refused).filterMap fun a =>
    (s.startOf a.what).bind fun k => if k.2 = c.key then some k.1.slotSize else none)
  decide (started + coming + n ≤ c.pool)

/-! ## Start queues (R92, R93) -/

def State.onCores (s : State) (key : Nat) : Bool := (s.ctx? key).elim false fun c => c.phase == .onCores

/-- The pre-empted workgroup that a die resumes first. -/
def State.headSaved (s : State) (die : Nat) : Option Workgroup :=
  (s.wgs.filter fun w => w.die == die && w.status == .saved && s.onCores w.ctx).foldl (fun best w =>
    match best with
    | none => some w
    | some b => if w.startSeq < b.startSeq then some w else some b) none

/-- The node group that stands first. -/
def State.headOffer (s : State) (die : Nat) : Option Offer :=
  s.offers.find? fun o => o.die == die && (s.level? o.lvl).elim false fun l => s.onCores l.ctx

/-- The kernel workgroup that stands first: its launch and index. -/
def State.headKernel (s : State) (die : Nat) : Option (Level × Nat) :=
  s.levels.findSome? fun l =>
    let dies := s.levelDies l
    if l.kind == .launch && l.admitted && dies.contains die && s.onCores l.ctx then
      let w := l.nextOn die (dies.findIdx (· == die))
      if w < l.total then some (l, w) else none
    else none

/-- PLOW lets a workgroup start. -/
def Level.lets (l : Level) (w : Nat) : Bool := l.preempted.all fun p => decide (w ≤ p)

def State.admOf (s : State) (die : Nat) : Option Adm := s.adms.find? fun a => a.die == die

/-- A refused admission is asked for again when the die next serves its queue. -/
def State.dropRefused (s : State) (die : Nat) : State := { s with adms := s.adms.filter fun a => !(a.die == die && a.st == .refused) }

/-! ## Starting a workgroup (R85, R97, R131) -/

/-- A troupe as it starts. -/
def newTroupe (wg trix pipe slot allot : Nat) (entry : DWord) (now : Nat) : Troupe where
  wg := wg
  trix := trix
  pipe := pipe
  slot := slot
  pc := entry
  sregs := List.replicate 61 0 ++ List.replicate 3 0xFFFFFFFF#32
  preds := List.replicate 7 0
  flags := 0
  acs := List.replicate 16 0
  sph := 0
  pcfg := List.replicate 96 16#15
  allot := allot
  regs := []
  errpend := 0
  stfail := false
  intrap := false
  cause := 0
  taddr := 0
  tpc := 0
  tlanes := 0
  faults := List.replicate 96 0
  hazards := []
  pend := []
  wait := .none
  lrecs := List.replicate 96 none
  deqs := []
  sent := 0
  phLives := []
  lastIssue := none
  freeAt := now
  branched := false
  exited := false
  stopped := false
  atYield := false
  idCore := 0
  idSlot := 0
  openBatch := Batch.idle
  batches := List.replicate 8 Batch.idle
  joint := List.replicate 16 0
  atJoint := none
  unready := []
  unreadyPad := []
  barGen := List.replicate 16 none
  badS := []
  arrived := false

/-- The lowest resident slot of a pipe that is free. -/
def State.slotOn (s : State) (pipe : Nat) : Nat :=
  ((List.range slotsPerPipe).find? fun k => !(s.troupes.any fun t => t.pipe == pipe && !t.exited && t.slot == k)).getD 0

/-- A troupe joins its pipe, last in its ring. -/
def State.seat (s : State) (die core : Nat) (t : Troupe) : State :=
  let p := 32 * die + 4 * core + t.trix % 4
  let t := { t with pipe := p, slot := s.slotOn p, idCore := core, idSlot := s.slotOn p }
  { s with troupes := s.troupes ++ [t] }.modPipe p fun q => { q with ring := q.ring ++ [(t.wg, t.trix)] }

/-- The place of a workgroup within its launch, and what it is a group of. -/
structure Place where
  part : Nat
  ctx : Nat
  lvl : Nat
  node : Option (Nat × Nat)
  x : Nat
  y : Nat
  z : Nat
  w : Nat
  args : DWord
  inl : DWord
  deriving DecidableEq, Repr

/-- A workgroup of a kernel starts on a core; the number is its own. Its start is an acquire at `.dev` (R243). -/
def State.startWg (s : State) (die core : Nat) (k : Kdesc) (pl : Place) : Nat × State :=
  let id := s.fresh
  let w : Workgroup := {
    id := id, part := pl.part, ctx := pl.ctx, lvl := pl.lvl, node := pl.node, x := pl.x, y := pl.y, z := pl.z, w := pl.w
    die := die, core := core, status := .running, startSeq := id, troupes := k.troupes, allot := k.allot, peak := k.peak
    bufs := k.bufs, ntags := k.tags, nbars := k.bars, energy := k.energy, args := pl.args, inl := pl.inl
    bars := List.replicate k.bars ⟨0, []⟩, tags := List.replicate k.tags ⟨true, 0, 0, 0⟩, binds := []
    failed := false, cancelled := false, used := 0, recs := [], halt := false, resume := none }
  let s := { s with wgs := s.wgs ++ [w], fresh := s.fresh + 1 }
  let now := s.clockOf die
  let s := (List.range k.troupes).foldl (fun s i => s.seat die core (newTroupe id i 0 0 k.allot k.entry now)) s
  (id, s.acquire die core .dev)

/-- The address of the inline bytes of a level's job. -/
def State.inlOf (s : State) (l : Level) : DWord := (s.job? l.job).elim 0 Job.inl

/-- An admitted workgroup of a launch starts (R91, R93). -/
def State.startKernel (s : State) (die core : Nat) (l : Level) (k : Kdesc) (w : Nat) : State :=
  let n := (s.levelDies l).length
  let s := s.modLevel l.id fun v => { v with nextW := (v.nextW.filter fun x => x.1 != die) ++ [(die, w + n)] }
  (s.startWg die core k ⟨l.part, l.ctx, l.id, none, w % l.x, w / l.x % l.y, w / (l.x * l.y), w, l.args, s.inlOf l⟩).2

/-- A die serves its start queue for a kernel workgroup: it asks for admission, or starts the workgroup that was admitted. -/
def execWorkgroupStart (die : Nat) (s : State) : Host.Outcome State Fault Refusal :=
  match s.admOf die with
  | some ⟨_, core, .kernel lvl w, _, .granted⟩ =>
    match s.level? lvl with
    | none => .next s
    | some l =>
      match l.kdesc with
      | none => .next s
      | some k =>
        if l.lets w then
          .next ({ s with adms := s.adms.filter fun a => a.die != die }.startKernel die core l k w)
        else .next s
  | some ⟨_, _, .kernel _ _, _, .refused⟩ => .next (s.dropRefused die)
  | some _ => .next s
  | none =>
    if (s.headSaved die).isSome || (s.headOffer die).isSome then .next s
    else
      match s.headKernel die with
      | none => .next s
      | some (l, w) =>
        match l.kdesc, s.ctx? l.ctx with
        | some k, some c =>
          match s.bestCore die k.demand with
          | some core =>
            if l.lets w && s.poolRoom c k.slotSize then
              .next { s with adms := s.adms ++ [⟨die, core, .kernel l.id w, k.energy, .asked⟩] }
            else .next s
          | none => .next s
        | _, _ => .next s

/-! ## The energy account (R61, R62) -/

/-- 2^20 cycles of a die have passed since its last credit. -/
def execEnergyCredit (die : Nat) (s : State) : Host.Outcome State Fault Refusal :=
  let d := s.die die
  match s.partOfDie die with
  | none => .next s
  | some n =>
    if d.credited + 2 ^ 20 ≤ d.cycle then
      let s := s.modDie die fun d => { d with credited := d.credited + 2 ^ 20 }
      .next (s.modPart n fun p => { p with bal := min (p.bal + d.rate.toNat) d.ceil.toNat })
    else .next s

/-- The leading energy core decides the oldest request for admission. -/
def execEnergyAdmit (part : Nat) (s : State) : Host.Outcome State Fault Refusal :=
  match s.part part with
  | none => .next s
  | some p =>
    match s.adms.find? fun a => p.dies.contains a.die && a.st == .asked with
    | none => .next s
    | some a =>
      let ok := decide ((a.energy : Int) ≤ p.bal - p.held)
      let s := { s with adms := modWhere s.adms (fun b => b.die == a.die) fun b => { b with st := if ok then .granted else .refused } }
      .next (if ok then s.modPart part fun p => { p with held := p.held + a.energy } else s)

/-! ## Retirement (R102, R109, R118, R119) -/

/-- Whether a draining workgroup still waits for a copy, a store or an atomic, or for what an instruction of a troupe of it has still to
do: an emission, a count, a round (R5, R7, R245). -/
def State.draining (s : State) (wg : Nat) : Bool :=
  (s.copies.any fun c => c.wg == wg) || (s.splits.any fun p => p.wg == wg && p.posted)
    || (s.reqs.any fun r => r.wg == wg && memWrites r.op) || s.troupes.any fun t => t.wg == wg && t.pend != []

/-- A group's record slots are freed, and it is counted by its graph. -/
def State.retireGroup (s : State) (w : Workgroup) (lvl : Nat) : State :=
  let mine := w.recs ++ (s.troupes.filter fun t => t.wg == w.id).flatMap Troupe.deqs
  let s := s.modGraph lvl fun g => mine.foldl (fun g r => g.freeSlot r.1 r.2.1 r.2.2)
    { g with counter := g.counter - 1, running := g.running - 1 }
  let s := s.modLevel w.lvl fun l => { l with counter := l.counter + 1 }
  s.modLevel lvl fun l => { l with failed := l.failed || w.failed, cancelledItem := l.cancelledItem || w.cancelled }

/-- A workgroup is counted by its launch. -/
def State.retireKernel (s : State) (w : Workgroup) : State :=
  s.modLevel w.lvl fun l => { l with
    counter := l.counter + 1, failed := l.failed || w.failed, cancelledItem := l.cancelledItem || w.cancelled }

/-- The workgroup is gone: its buffers, its tags and barriers, its estimate. -/
def State.removeWg (s : State) (w : Workgroup) : State :=
  let s := { s with
    bufs := s.bufs.filter fun b => !(w.binds.any fun x => x.core == b.core && x.idx == b.idx)
    wgs := s.wgs.filter fun x => x.id != w.id
    troupes := s.troupes.filter fun t => t.wg != w.id }
  s.modPart w.part fun p => { p with held := p.held - w.energy, bal := p.bal - w.used }

/-- A draining workgroup retires when what it has under way has ended. -/
def execWorkgroupRetire (wg : Nat) (s : State) : Host.Outcome State Fault Refusal :=
  match s.wg? wg with
  | none => .next s
  | some w =>
    if w.status ≠ .draining || s.draining wg then .next s
    else
      let s := match w.node with
        | some (lvl, _) => s.retireGroup w lvl
        | none => s.retireKernel w
      .next (s.removeWg w)

end Sys2Proof.Machine
end

