-- ==== Sys2Proof/Machine/Preempt.lean ====
section
/-! DEFINITION. Pre-emption and resumption (R94, R97, R158, R231, R257 to R261), context switches (R262), `halt` (R453). -/

namespace Sys2Proof.Machine

/-! ## Stopping and saving (R257) -/

/-- Pre-emption acts on a running workgroup; a second request is merged with the first (R261). -/
def State.askStop (s : State) (wg : Nat) : State :=
  s.modWg wg fun w => if w.status = .running then { w with status := .stopping } else w

/-- A trap entry that is in progress, or a joint operation that has been agreed, completes before its troupe stops. -/
def Troupe.midway (t : Troupe) : Bool :=
  (match t.wait with | .table _ _ _ _ _ => true | _ => false) || (t.atJoint.bind JointAt.go).isSome

/-- The troupe at its boundary: a waiting instruction has not completed, and its flag is clear. -/
def Troupe.halted (t : Troupe) : Troupe :=
  let flag := match t.wait with
    | .mem _ _ _ _ _ _ _ f _ _ => f
    | .bo _ _ _ _ f _ _ => f
    | _ => none
  { t with
    stopped := true, wait := .none, atJoint := none
    flags := match flag with | some f => t.flags &&& ~~~(1#12 <<< f) | none => t.flags }

def State.liveTroupes (s : State) (wg : Nat) : List Troupe := s.troupes.filter fun t => t.wg == wg && !t.exited

/-- Every troupe stops issuing, and PLOW falls (R93, R97). -/
def execPreemptStop (wg : Nat) (s : State) : Host.Outcome State Fault Refusal :=
  match s.wg? wg with
  | none => .next s
  | some w =>
    let ts := (s.liveTroupes wg).filter fun t => !t.stopped
    if w.status ≠ .stopping || ts.any Troupe.midway || ts = [] then .next s
    else
      let s := ts.foldl (fun s t => (s.setTroupe t.halted).modPipe t.pipe fun p => ringRemove p t.wg t.trix) s
      .next (if w.node.isSome then s else s.modLevel w.lvl fun l => { l with preempted := l.preempted ++ [w.w] })

def isPhwait (p : Pend) : Bool := match p.act with | .phwait _ _ => true | _ => false

/-- Whether everything that step 2 waits for is over: with it every store of the workgroup, which the save releases at `.dev` (R231). -/
def State.quiet (s : State) (wg : Nat) : Bool :=
  ((s.liveTroupes wg).all fun t => t.stopped && t.pend.all isPhwait && (t.openBatch :: t.batches).all fun b => b.left == 0)
  && !(s.splits.any fun p => p.wg == wg && (!p.posted || p.flag.isSome))
  && (s.reqs.all fun r => r.wg != wg || r.over)
  && !(s.pipes.any fun p => p.ops.any fun o => o.wg == wg)

/-- A pipe that is none: where the troupes of a saved workgroup stand. -/
def nowhere : Nat := 4096

/-- The troupe in its save image (R259, R260). -/
def Troupe.save (t : Troupe) : Troupe :=
  { t with
    pipe := nowhere, slot := 0, flags := 0, hazards := [], pend := [], acs := List.replicate 16 0, sent := 0
    regs := t.regs.map fun r => { r with phys := 0 } }

/-- The save image is written, buffers are handled under R158, slots and registers are freed. -/
def execPreemptSave (wg : Nat) (s : State) : Host.Outcome State Fault Refusal :=
  match s.wg? wg with
  | none => .next s
  | some w =>
    if w.status ≠ .stopping || !s.quiet wg || s.liveTroupes wg = [] then .next s
    else
      let s := (s.liveTroupes wg).foldl (fun s t => s.setTroupe t.save) s
      let s := s.modWg wg fun w => { w with status := if w.halt then .halted else .saved, halt := false }
      .next (s.saveBufs wg)

/-! ## Resumption (R260) -/

/-- What a saved workgroup asks of a core. -/
def State.resumeDemand (s : State) (w : Workgroup) : Demand :=
  let ts := s.liveTroupes w.id
  let own := (s.bufs.filter fun b => b.wg == w.id).length + (w.binds.filter fun b => (b.saved.map Buf.wg) == some w.id).length
  ⟨(List.range 4).map fun p => (ts.filter fun t => t.trix % 4 == p).length,
    w.binds.length + (w.bufs - own), w.ntags, w.nbars, w.peak⟩

/-- A saved handle bound to the lowest free buffer of the core. -/
def State.rebind (s : State) (wg g : Nat) (b : Binding) : State :=
  match b.saved, (List.range 64).find? fun i => (s.buf? g i).isNone with
  | some x, some i =>
    let bind (y : Binding) : Binding := if y.handle == b.handle then { y with core := g, idx := i, saved := none } else y
    let s := { s with bufs := s.bufs ++ [{ x with core := g, idx := i }] }
    s.modWg wg fun w => { w with binds := w.binds.map bind }
  | _, _ => s

/-- The saved names mapped again, in their order (R136). -/
def remap (used : List Nat) : List VReg → List VReg
  | [] => []
  | r :: rs =>
    let p := (allocPhys used r.name).getD 0
    { r with phys := p } :: remap (p :: used) rs

/-- A troupe enters its ring just before the pointer (R97). -/
def Pipe.enterRing (p : Pipe) (who : Nat × Nat) : Pipe :=
  if p.ring = [] then { p with ring := [who], ptr := 0 }
  else { p with ring := p.ring.take p.ptr ++ [who] ++ p.ring.drop p.ptr, ptr := p.ptr + 1 }

/-- A troupe restored on a core: its resumption is a yield point (R101), `sph` follows R238. -/
def State.restore (s : State) (die core : Nat) (t : Troupe) : State :=
  let p := 32 * die + 4 * core + t.trix % 4
  let now := s.clockOf die
  let t := { t with
    pipe := p, slot := s.slotOn p, regs := remap (s.physUsed p) t.regs, stopped := false, atYield := true
    sph := (s.die die).dph - 1, lastIssue := none, freeAt := now }
  (s.setTroupe t).modPipe p fun q => q.enterRing (t.wg, t.trix)

def State.resumeOn (s : State) (w : Workgroup) (core : Nat) : State :=
  let s := w.binds.foldl (fun s b => s.rebind w.id (8 * w.die + core) b) s
  let s := s.modWg w.id fun w => { w with core := core, status := .running, resume := none }
  let s := (s.liveTroupes w.id).foldl (fun s t => s.restore w.die core t) s
  let s := if w.node.isSome then s else s.modLevel w.lvl fun l => { l with preempted := l.preempted.filter (· != w.w) }
  s.acquire w.die core .dev

/-- Whether the workgroups that give up a core for a pre-empted one are still being saved. -/
def State.clearing (s : State) (die : Nat) (w : Workgroup) : Bool :=
  w.resume.any fun c => s.wgs.any fun x => x.die == die && x.core == c && x.status == .stopping

/-- The core where a pre-empted workgroup resumes: the one that R94 has chosen for it, else one where it fits (R92). -/
def State.resumeCore (s : State) (die : Nat) (w : Workgroup) : Option Nat :=
  let d := s.resumeDemand w
  if s.clearing die w then none
  else (w.resume.filter fun c => s.fits die c d).or (s.bestCore die d)

/-- A die resumes the pre-empted workgroup that stands first. -/
def execResumption (die : Nat) (s : State) : Host.Outcome State Fault Refusal :=
  match s.headSaved die with
  | none => .next s
  | some w =>
    if w.binds.any fun b => b.saved.isNone then .next s
    else (s.resumeCore die w).elim (.next s) fun core => .next (s.resumeOn w core)

/-! ## Room for a pre-empted workgroup (R94) -/

/-- The state as it would be without some workgroups on their cores. -/
def State.without (s : State) (gone : List Workgroup) : State :=
  let ids := gone.map Workgroup.id
  { s with
    wgs := s.wgs.filter fun w => !ids.contains w.id
    troupes := s.troupes.filter fun t => !ids.contains t.wg
    bufs := s.bufs.filter fun b => !(gone.any fun w => w.binds.any fun x => x.core == b.core && x.idx == b.idx) }

def isWaitmem (t : Troupe) : Bool := match t.wait with | .mem _ _ _ _ _ _ _ _ _ _ => true | _ => false

/-- A workgroup put into a list, latest start first. -/
def insertLate (w : Workgroup) : List Workgroup → List Workgroup
  | [] => [w]
  | x :: l => if x.startSeq < w.startSeq then w :: x :: l else x :: insertLate w l

/-- The candidates of a core, latest start first. -/
def State.candidatesOn (s : State) (die core : Nat) (w : Workgroup) : List Workgroup :=
  ((s.residents die core).filter fun x => x.status == .running && decide (w.startSeq < x.startSeq)
    && (s.liveTroupes x.id).all isWaitmem).foldl (fun l x => insertLate x l) []

/-- A core with the workgroups that it must give up for a demand: none where the demand does not fit even without all of them. -/
def State.costOn (s : State) (die core : Nat) (w : Workgroup) (d : Demand) : Option (Nat × List Workgroup) :=
  let cs := s.candidatesOn die core w
  ((List.range (cs.length + 1)).find? fun n => (s.without (cs.take n)).fits die core d).map fun n => (core, cs.take n)

/-- Whether one core's cost comes before another's: fewer workgroups, then the later start of the first. -/
def cheaper (a b : List Workgroup) : Bool :=
  decide (a.length < b.length) || (a.length == b.length && decide ((b.head?.map Workgroup.startSeq).getD 0 < (a.head?.map Workgroup.startSeq).getD 0))

/-- The core of a die with the lowest cost, the lowest-numbered one of equals. -/
def State.cheapest (s : State) (die : Nat) (w : Workgroup) : Option (Nat × List Workgroup) :=
  ((List.range 8).filterMap fun c => s.costOn die c w (s.resumeDemand w)).foldl (fun (best : Option (Nat × List Workgroup)) x =>
    match best with
    | none => some x
    | some b => if cheaper x.2 b.2 then some x else some b) none

/-- The die's check for a pre-empted workgroup that no core fits: the chosen core is kept for it while its victims are saved. -/
def execResumeCheck (die : Nat) (s : State) : Host.Outcome State Fault Refusal :=
  match s.headSaved die with
  | none => .next s
  | some w =>
    if s.clearing die w || (s.bestCore die (s.resumeDemand w)).isSome then .next s
    else
      match s.cheapest die w with
      | none => .next s
      | some (core, victims) =>
        .next ((victims.foldl (fun s x => s.askStop x.id) s).modWg w.id fun w => { w with resume := some core })

/-! ## Context switches (R262) and `halt` (R453) -/

/-- The next step of a context switch: every workgroup is asked to stop, or, when all are saved, the memory core saves the page-table
state. -/
def execContextSwitch (ctx : Nat) (s : State) : Host.Outcome State Fault Refusal :=
  match s.ctx? ctx with
  | none => .next s
  | some c =>
    let mine := s.wgs.filter fun w => w.ctx == ctx && (w.status == .running || w.status == .stopping)
    match c.phase with
    | .onCores =>
      let s := s.dropAdms fun a => (s.startOf a.what).any fun k => k.2 == ctx
      .next ((mine.foldl (fun s w => s.askStop w.id) s).modCtx ctx fun c => { c with phase := .stopping })
    | .stopping =>
      .next (if mine = [] then s.modCtx ctx fun c => { c with phase := .saving } else mine.foldl (fun s w => s.askStop w.id) s)
    | _ => .next s

/-- The save of the page-table state has ended: the context is off its cores. -/
def execPtStateSaveDone (ctx : Nat) (s : State) : Host.Outcome State Fault Refusal :=
  match s.ctx? ctx with
  | none => .next s
  | some c =>
    if c.phase ≠ .saving then .next s
    else
      let ds := s.deferred.filter fun d => d.ctx == ctx
      let s := { s with deferred := s.deferred.filter fun d => d.ctx != ctx }.modCtx ctx fun c => { c with phase := .off }
      .next (ds.foldl (fun s d => match s.ctx? ctx with | some c => s.answerDeferred c d | none => s) s)

/-- The context returns: its pre-empted workgroups enter the start queues of the dies where they were pre-empted. -/
def execContextReturn (ctx : Nat) (s : State) : Host.Outcome State Fault Refusal :=
  .next (s.modCtx ctx fun c => if c.phase = .off then { c with phase := .onCores } else c)

/-- The debug core lets a halted workgroup go. -/
def execDebugRelease (wg : Nat) (s : State) : Host.Outcome State Fault Refusal :=
  .next (s.modWg wg fun w => if w.status = .halted then { w with status := .saved } else w)

end Sys2Proof.Machine
end

