-- ==== Sys2Proof/Machine/GraphEv.lean ====
section
/-! DEFINITION. The launcher and the steals: admission of a graph (R104 to R108), counts of records (R112), offers and starts of node
groups (R114 to R118), steals (R98, R99, R120). -/

namespace Sys2Proof.Machine

/-! ## Checks of a graph's descriptor (R106) -/

/-- How far the checks have come: the nodes read, a status, or a page to wait for. -/
structure GraphCheck where
  s : State
  nodes : List GNode
  status : Byte
  wait : Bool

/-- The header's own checks (R104, R106). -/
def headerBad (b : List Byte) : Bool :=
  byteAt b 3 != 0 || leAt b 26 2 != 0 || leNat (b.drop 40) != 0 || leAt b 0 2 == 0 || decide (64 < leAt b 0 2) || decide (31 < byteAt b 2)
    || decide (leAt b 0 2 ≤ leAt b 24 2) || leAt b 8 8 % 4096 != 0

/-- A node entry with its kernel descriptor. -/
def State.checkNode (c : Ctx) (die : Nat) (desc : DWord) (k : GraphCheck) (i : Nat) : GraphCheck :=
  if k.status ≠ 0 || k.wait then k
  else
    match k.s.descRead c die (desc + BitVec.ofNat 64 (64 + 64 * i)) 64 with
    | .park s => { k with s := s, wait := true }
    | .fault _ s => { k with s := s, status := 3 }
    | .bytes b =>
      if leAt b 13 3 ≠ 0 || leNat (b.drop 24) != 0 || leAt b 8 4 == 0 || leAt b 0 8 % 64 != 0 then { k with status := 3 }
      else
        match k.s.descRead c die (BitVec.ofNat 64 (leAt b 0 8)) 64 with
        | .park s => { k with s := s, wait := true }
        | .fault _ s => { k with s := s, status := 3 }
        | .bytes d =>
          let n : GNode := ⟨kdescOf d, leAt b 8 4, byteAt b 12, BitVec.ofNat 64 (leAt b 16 8), 0, 0⟩
          { k with nodes := k.nodes ++ [n], status := k.s.kdescStatus c die true d }

/-- The most initial records that one core receives (R108). -/
def mostInit (count group cores : Nat) : Nat :=
  let full := count / max 1 group
  maxOf ((List.range cores).map fun c =>
    group * (full / max 1 cores + if c < full % max 1 cores then 1 else 0)
      + if c = full % max 1 cores then count % max 1 group else 0)

/-- The dispatch unit of a die holds the state of 16 graph instances (R106). -/
def graphSlots : Nat := 16

/-- Whether a graph must wait behind others. -/
def State.graphWaits (s : State) (l : Level) : Bool :=
  let dies := s.levelDies l
  let meets (x : Level) : Bool := (s.levelDies x).any dies.contains
  (dies.any fun d => decide (graphSlots ≤ (s.graphs.filter fun g => (s.graphDies g).contains d).length))
  || s.levels.any fun x => x.kind == .graph && decide (x.id < l.id) && x.status == 0 && (s.graph? x.id).isNone
      && (s.cancelOf x.id).isNone && meets x

/-- An instance with its segments and no record. -/
def newGraph (lvl depthMax reserve : Nat) (vat : DWord) (nodes : List GNode) (cores : Nat) : Graph where
  lvl := lvl
  depthMax := depthMax
  reserve := reserve
  vat := vat
  nodes := nodes
  counter := 0
  running := 0
  segs := (List.range nodes.length).flatMap fun i => (List.range cores).map fun c => ⟨i, c, [], [], [], 0, [], false, (0, 0)⟩
  freeBlocks := List.range reserve
  objs := []
  deadObjs := []

/-- Every node gets its node launch, a level of its own (R86). -/
def State.nodeLevels (s : State) (c : Ctx) (l : Level) (nodes : List GNode) : State × List GNode :=
  nodes.foldl (fun r n =>
    let (id, s) := r.1.addLevel .nodeLaunch c l.dev (some l.id) l.job 0 none fun v => { v with admitted := true, args := n.args }
    (s, r.2 ++ [{ n with lvl := id }])) (s, [])

/-- One initial record copied into its slot (R108). -/
def State.initRecord (c : Ctx) (die cores root : Nat) (dies : List Nat) (n : GNode) (init : List Byte)
    (r : Graph × GraphCheck) (i : Nat) : Graph × GraphCheck :=
  let (g, k) := r
  if k.status ≠ 0 || k.wait then r
  else
    let core := i / max 1 n.group % max 1 cores
    match g.takeSlot root core anySlot with
    | none => (g, { k with status := 3 })
    | some (slot, g) =>
      match k.s.writeVa c die (g.slotVa cores root core slot) ((init.drop (i * n.k.recsize)).take n.k.recsize) with
      | .park s => (g, { k with s := s, wait := true })
      | .fault _ s => (g, { k with s := s, status := 3 })
      | .done s => (g.place root core false ⟨slot, 0, true, s.clockOf (devDie dies core)⟩, { k with s := s })

/-- The initial records, then the instance. -/
def State.installGraph (s : State) (c : Ctx) (l : Level) (h : List Byte) (nodes : List GNode) : State :=
  let dies := s.levelDies l
  let die := dies.headD 0
  let cores := 8 * dies.length
  let root := leAt h 24 2
  let count := leAt h 28 4
  let n := nodes.getD root ⟨kdescOf [], 1, 0, 0, 0, 0⟩
  let g := newGraph l.id (byteAt h 2) (leAt h 4 4) (BitVec.ofNat 64 (leAt h 8 8)) nodes cores
  let refuse (s : State) : State := s.modLevel l.id fun v => { v with status := 3 }
  if leAt h 16 8 < g.segArea cores + 4096 * leAt h 4 4 || n.segrec < mostInit count n.group cores then refuse s
  else
    match s.descRead c die (BitVec.ofNat 64 (leAt h 32 8)) (count * n.k.recsize) with
    | .park s => s
    | .fault _ s => refuse s
    | .bytes init =>
      let (g, k) := (List.range count).foldl (State.initRecord c die cores root dies n init) (g, ⟨s, [], 0, false⟩)
      if k.wait then k.s
      else if k.status ≠ 0 then refuse k.s
      else
        let (s, nodes) := k.s.nodeLevels c l nodes
        { s with graphs := s.graphs ++ [{ g with nodes := nodes, counter := count }] }.modLevel l.id fun v => { v with admitted := true }

/-! ## What a launcher may start (R114, R115) -/

/-- A segment's takeable records, from the head. -/
def Seg.ready (x : Seg) : List GRec := x.recs.filter GRec.takeable

/-- The records that a group of a segment would take: 0 where no rule applies. -/
def State.launchable (s : State) (g : Graph) (x : Seg) : Nat :=
  match g.node? x.node with
  | none => 0
  | some n =>
    let k := x.ready.length
    if s.graphCancelled g || k = 0 then 0
    else if n.k.hold = 0 || n.group ≤ k then min k n.group
    else
      let now := s.clockOf (devDie (s.graphDies g) x.core)
      let lapsed := n.k.hold != 0xFFFFFFFF && x.ready.head?.any fun r => decide (r.written + n.k.hold ≤ now)
      if lapsed || x.drain then k else 0

/-- Offers of one core put into a list with the RANKs of their nodes, higher RANK first, then the lower node (R115). -/
def insertRank (x : Nat × Offer) : List (Nat × Offer) → List (Nat × Offer)
  | [] => [x]
  | y :: l => if y.1 < x.1 || (x.1 == y.1 && decide (x.2.node < y.2.node)) then x :: y :: l else y :: insertRank x l

/-- The launchable segments of a core, of every graph, as its launcher offers them. -/
def State.offersOf (s : State) (die core : Nat) : List Offer :=
  let all := s.graphs.flatMap fun g =>
    let dies := s.graphDies g
    let c := devCore dies die core
    if !dies.contains die then []
    else (g.segs.filter fun x => x.core == c && s.launchable g x != 0).map fun x =>
      ((g.node? x.node).elim 0 GNode.rank, (⟨die, g.lvl, x.node, c⟩ : Offer))
  (all.foldl (fun l x => insertRank x l) []).map Prod.snd

/-- Every launchable segment of a die that is not offered yet is offered. -/
def State.offerOn (s : State) (die : Nat) : State :=
  let new := (List.range 8).flatMap (s.offersOf die)
  let known (o : Offer) : Bool := s.offers.contains o || s.adms.any fun a => a.what == .node o.lvl o.node o.core
  { s with offers := s.offers ++ new.filter fun o => !known o }

def State.offerAll (s : State) (dies : List Nat) : State := dies.foldl State.offerOn s

/-- A graph's descriptors and initial records are read and checked; the first failure decides its status. -/
def execGraphAdmit (lvl : Nat) (s : State) : Host.Outcome State Fault Refusal :=
  match s.level? lvl with
  | none => .next s
  | some l =>
    match s.ctx? l.ctx with
    | none => .next s
    | some c =>
      if l.kind ≠ .graph || l.status != 0 || (s.graph? lvl).isSome || (s.cancelOf lvl).isSome || s.graphWaits l then .next s
      else
        let die := c.lead l.dev
        let refuse (s : State) (st : Byte) : State := s.modLevel lvl fun v => { v with status := st }
        match s.descRead c die l.desc 64 with
        | .park s => .next s
        | .fault _ s => .next (refuse s 3)
        | .bytes h =>
          if headerBad h then .next (refuse s 3)
          else
            let k := (List.range (leAt h 0 2)).foldl (State.checkNode c die l.desc) ⟨s, [], 0, false⟩
            if k.wait then .next k.s
            else if k.status ≠ 0 then .next (refuse k.s k.status)
            else .next ((k.s.installGraph c l h k.nodes).offerAll (c.devDies l.dev))

/-- The leader has acknowledged the count of an instruction's records: they are takeable, or, after a cancel, cancelled (R122). -/
def execRecordCountAck (id : Nat) (s : State) : Host.Outcome State Fault Refusal :=
  match s.counts.find? fun m => m.id == id with
  | none => .next s
  | some m =>
    let s := { s with counts := s.counts.filter fun x => x.id != id }
    match s.graph? m.lvl with
    | none => .next s
    | some g =>
      let here := ((g.seg? m.node m.core).elim [] Seg.recs).filter fun r => m.slots.contains r.slot
      if s.graphCancelled g then .next (s.cancelRecords m.lvl m.node m.core (here.map GRec.slot))
      else
        let s := s.modGraph m.lvl fun g => g.modSeg m.node m.core fun x => { x with
          recs := x.recs.map fun r => if m.slots.contains r.slot then { r with takeable := true } else r }
        .next (s.offerAll (s.graphDies g))

/-- A data node's head record has reached its HOLD: its segment is offered. -/
def execHoldLapse (lvl node core : Nat) (s : State) : Host.Outcome State Fault Refusal :=
  match s.graph? lvl with
  | none => .next s
  | some g =>
    match g.seg? node core with
    | some x => .next (if s.launchable g x = 0 then s else s.offerOn (devDie (s.graphDies g) core))
    | none => .next s

/-- With no running group and no full segment, every segment that holds takeable records launches at once (R116). -/
def execGraphDrainOrder (lvl : Nat) (s : State) : Host.Outcome State Fault Refusal :=
  match s.graph? lvl with
  | none => .next s
  | some g =>
    let full (x : Seg) : Bool := (g.node? x.node).any fun n => decide (n.group ≤ x.ready.length)
    if g.running ≠ 0 || g.segs.any full then .next s
    else
      let s := s.modGraph lvl fun g => { g with segs := g.segs.map fun x => if x.ready = [] then x else { x with drain := true } }
      .next (s.offerAll (s.graphDies g))

/-! ## The start of a node group (R115, R117, R118) -/

/-- A lane's share of the records that a group took. -/
def recordOf (rs : List GRec) (trix l : Nat) : Option GRec := rs[96 * trix + l]?

/-- v0, v1 and v2, the lane records and the activity mask of a troupe of a node group. -/
def State.dealTo (s : State) (g : Graph) (cores node core : Nat) (rs : List GRec) (t : Troupe) : State :=
  let at_ (l : Nat) : DWord := (recordOf rs t.trix l).elim 0 fun r => g.slotVa cores node core r.slot
  let vals : List Lanes := [lanesOf fun l => loW (at_ l), lanesOf fun l => hiW (at_ l),
    lanesOf fun l => (recordOf rs t.trix l).elim 0 fun r => BitVec.ofNat 32 r.depth]
  let am := maskOf fun l => (recordOf rs t.trix l).isSome
  let maps := ((mapNames (s.physUsed t.pipe) s.fresh [0, 1, 2]).getD []).zip vals
  let regs := maps.map fun (x : VReg × Lanes) => { x.1 with val := x.2 }
  let lrecs := (List.range 96).map fun l =>
    (recordOf rs t.trix l).map fun r => (⟨g.lvl, node, core, some r.slot, r.depth, false⟩ : LaneRec)
  { s with fresh := s.fresh + 3 }.setTroupe { t with
    regs := regs
    sregs := t.sregs.take 61 ++ (List.range 3).map fun i => am.extractLsb' (32 * i) 32
    lrecs := lrecs }

/-- A group takes k records and starts on the core that holds the segment. -/
def State.startGroup (s : State) (die : Nat) (g : Graph) (x : Seg) (n : GNode) (k : Nat) : State :=
  match s.level? n.lvl with
  | none => s
  | some l =>
    let dies := s.graphDies g
    let rs := x.ready.take k
    let slots := rs.map GRec.slot
    let s := s.modGraph g.lvl fun g => { g.modSeg x.node x.core (fun y => { y with
        recs := y.recs.filter fun r => !slots.contains r.slot, taken := y.taken ++ slots, drain := false }) with
      counter := g.counter + 1 - k, running := g.running + 1
      nodes := modAt g.nodes x.node fun m => { m with groups := m.groups + 1 } }
    let (id, s) := s.startWg die (x.core % 8) n.k
      ⟨l.part, l.ctx, n.lvl, some (g.lvl, x.node), 0, 0, 0, n.groups, n.args, s.inlOf l⟩
    let s := s.modWg id fun w => { w with recs := slots.map fun k => (x.node, x.core, k) }
    (s.liveTroupes id).foldl (fun s t => s.dealTo g (8 * dies.length) x.node x.core rs t) s

/-- What the start of a node group asks of its core: room for v0 to v2 of every troupe, whatever its declared peak. -/
def Kdesc.groupDemand (k : Kdesc) : Demand := { k.demand with peak := max k.peak (3 * slotsNeeded k.troupes 0) }

/-- The node group at the head asks for admission. -/
def State.askGroup (s : State) (die : Nat) (o : Offer) : State :=
  match s.graph? o.lvl with
  | none => { s with offers := s.offers.erase o }
  | some g =>
    match g.seg? o.node o.core, g.node? o.node, (s.level? o.lvl).bind fun l => s.ctx? l.ctx with
    | some x, some n, some c =>
      if s.launchable g x = 0 then { s with offers := s.offers.erase o }
      else if s.fits die (o.core % 8) n.k.groupDemand && s.poolRoom c n.k.slotSize then
        { s with offers := s.offers.erase o, adms := s.adms ++ [⟨die, o.core % 8, .node o.lvl o.node o.core, n.k.energy, .asked⟩] }
      else s
    | _, _, _ => { s with offers := s.offers.erase o }

/-- An admission granted to a segment: the group takes its records and starts, or is withdrawn. -/
def State.grantGroup (s : State) (die lvl node core e : Nat) : State :=
  let s1 := { s with adms := s.adms.filter fun a => a.die != die }
  let back : State := match s.partOfDie die with | some p => s1.unhold p e | none => s1
  match s1.graph? lvl with
  | none => back
  | some g =>
    if s.engineBusy g node core .take then s
    else
      match g.seg? node core, g.node? node with
      | some x, some n =>
        let k := s1.launchable g x
        if k = 0 then back else ((s1.startGroup die g x n k).engineRan lvl node core .take).offerOn die
      | _, _ => back

/-- A refused segment stands first again, and nothing behind it starts (R92). -/
def State.reoffer (s : State) (die lvl node core : Nat) : State :=
  let o : Offer := ⟨die, lvl, node, core⟩
  { s.dropRefused die with offers := o :: s.offers }

/-- A die serves its start queue for a node group. -/
def execNodeGroupStart (die : Nat) (s : State) : Host.Outcome State Fault Refusal :=
  match s.admOf die with
  | some ⟨_, _, .node lvl node core, e, .granted⟩ => .next (s.grantGroup die lvl node core e)
  | some ⟨_, _, .node lvl node core, _, .refused⟩ => .next (s.reoffer die lvl node core)
  | some _ => .next s
  | none =>
    let s := s.offerOn die
    if (s.headSaved die).isSome then .next s
    else
      match s.headOffer die with
      | some o => .next (s.askGroup die o)
      | none => .next s

/-! ## Steals (R98, R99, R120) -/

def State.coreSt (s : State) (die core : Nat) : CoreSt := (s.die die).cores.getD core (CoreSt.reset (8 * die + core))
def State.modCore (s : State) (die core : Nat) (f : CoreSt → CoreSt) : State :=
  s.modDie die fun d => { d with cores := modAt d.cores core f }

/-- One step of the Galois LFSR. -/
def lfsrStep (x : BitVec 16) : BitVec 16 := if x.getLsbD 0 then (x >>> 1) ^^^ 0xB400#16 else x >>> 1

/-- Steps until the value names another core of the device. -/
def lfsrPick (n self : Nat) : Nat → BitVec 16 → BitVec 16
  | 0, x => x
  | fuel + 1, x => let y := lfsrStep x; if y.toNat % max 1 n = self then lfsrPick n self fuel y else y

/-- Whether a core has a complete record group to launch, of any graph. -/
def State.hasFull (s : State) (die core : Nat) : Bool :=
  s.graphs.any fun g =>
    let dies := s.graphDies g
    dies.contains die && !s.graphCancelled g && g.segs.any fun x =>
      x.core == devCore dies die core && (g.node? x.node).any fun n => decide (n.group ≤ x.ready.length)

/-- Whether a core could place one more group of a node (R92, R258). -/
def State.placesGroup (s : State) (die core : Nat) (g : Graph) (n : GNode) : Bool :=
  s.fits die core n.k.groupDemand && ((s.level? g.lvl).bind fun l => s.ctx? l.ctx).any fun c => s.poolRoom c n.k.slotSize

/-- The segment for which a core is idle, if any. -/
def State.idleFor (s : State) (die core : Nat) : Option (Graph × Seg) :=
  if s.hasFull die core then none
  else
    s.graphs.findSome? fun g =>
      let dies := s.graphDies g
      if !dies.contains die || s.graphCancelled g then none
      else
        (g.segs.find? fun x => x.core == devCore dies die core && x.recs.isEmpty && (g.node? x.node).any fun n =>
          n.k.hold == 0 && s.placesGroup die core g n).map fun x => (g, x)

/-- An idle core sends a steal request to the core that its LFSR names. -/
def execStealRequest (die core : Nat) (s : State) : Host.Outcome State Fault Refusal :=
  match s.idleFor die core with
  | none => .next s
  | some (g, x) =>
    let cores := 8 * (s.graphDies g).length
    if (s.coreSt die core).backoff != 0 || (s.steals.any fun t => t.lvl == g.lvl && t.thief == x.core && t.node == x.node) then .next s
    else
      let v := lfsrPick cores x.core 65536 (s.coreSt die core).lfsr
      let s := s.modCore die core fun c => { c with lfsr := v }
      let t : Steal := ⟨s.fresh, g.lvl, x.node, v.toNat % max 1 cores, x.core, .asked, [], [], []⟩
      .next { s with steals := s.steals ++ [t], fresh := s.fresh + 1 }

def State.modSteal (s : State) (id : Nat) (f : Steal → Steal) : State := { s with steals := modWhere s.steals (fun t => t.id == id) f }

/-- The bytes of records that leave a segment, or none where one cannot be read. -/
def State.stolenBytes (s : State) (c : Ctx) (die : Nat) (g : Graph) (cores node core len : Nat) : List GRec → Option (List (List Byte))
  | [] => some []
  | r :: rs =>
    match s.readVa c die .read 2 (g.slotVa cores node core r.slot) len with
    | .bytes b => (s.stolenBytes c die g cores node core len rs).map fun l => b :: l
    | _ => none

/-- The victim's queue engine answers from the tail of its segment. -/
def execStealReply (id : Nat) (s : State) : Host.Outcome State Fault Refusal :=
  match s.steals.find? fun t => t.id == id && t.stage == .asked with
  | none => .next s
  | some t =>
    let no := s.modSteal id fun t => { t with stage := .refused }
    match s.graph? t.lvl with
    | none => .next no
    | some g =>
      match g.seg? t.node t.victim, g.node? t.node, (s.level? t.lvl).bind fun l => s.ctx? l.ctx with
      | some x, some n, some c =>
        let dies := s.graphDies g
        let k := x.ready.length
        let m := min (cdiv k 2) n.group
        let rs := x.ready.drop (k - m)
        match s.stolenBytes c (devDie dies t.victim) g (8 * dies.length) t.node t.victim n.k.recsize rs with
        | none => .next no
        | some b =>
          if m = 0 || s.graphCancelled g then .next no
          else if s.engineBusy g t.node t.victim .steal then .next s
          else
            let slots := rs.map GRec.slot
            let s := s.modGraph t.lvl fun g => g.modSeg t.node t.victim fun x => { x with
              recs := x.recs.filter fun r => !slots.contains r.slot, taken := x.taken ++ slots }
            let s := s.engineRan t.lvl t.node t.victim .steal
            .next (s.modSteal id fun t => { t with stage := .moved, recs := rs, bytes := b })
      | _, _, _ => .next no

/-- A record placed at the thief's tail, or kept for the victim. -/
def placeStolen (c : Ctx) (die cores : Nat) (t : Steal) (r : State × Graph × List GRec × List GRec) (x : GRec × List Byte) :
    State × Graph × List GRec × List GRec :=
  let (s, g, ok, bad) := r
  match g.takeSlot t.node t.thief anySlot with
  | none => (s, g, ok, bad ++ [x.1])
  | some (slot, g') =>
    let va := g'.slotVa cores t.node t.thief slot
    match s.writeVa c die va x.2 with
    | .done s => (s, g'.place t.node t.thief false ⟨slot, x.1.depth, true, s.clockOf die⟩, ok ++ [x.1], bad)
    | .fault e s => (s.report [.page c.key va e], g'.freeSlot t.node t.thief slot, ok, bad ++ [x.1])
    | .park s => (s, g'.freeSlot t.node t.thief slot, ok, bad ++ [x.1])

/-- What the thief's slots wait for is asked for; none where nothing is to be waited for. -/
def State.vatWait (s : State) (c : Ctx) (die : Nat) (g : Graph) (cores node core n len : Nat) : Option State :=
  let parks := s.vatParks c die g cores node core n len
  if parks = [] then none else some (s.parkWrites c die parks len)

/-- A reply at the thief: its records are placed in their order, or the core tries again; four empty replies make it wait. -/
def execStealArrive (id : Nat) (s : State) : Host.Outcome State Fault Refusal :=
  match s.steals.find? fun t => t.id == id with
  | none => .next s
  | some t =>
    let drop := { s with steals := s.steals.filter fun x => x.id != id }
    match s.graph? t.lvl with
    | none => .next drop
    | some g =>
      let dies := s.graphDies g
      let die := devDie dies t.thief
      match t.stage, (s.level? t.lvl).bind fun l => s.ctx? l.ctx, g.node? t.node with
      | .refused, _, _ =>
        .next (drop.modCore die (t.thief % 8) fun c =>
          if 4 ≤ c.empties + 1 then { c with empties := 0, backoff := s.clockOf die + 256 } else { c with empties := c.empties + 1 })
      | .moved, some c, some n =>
        if s.graphCancelled g then
          let s1 := (s.modGraph t.lvl fun g => { g with counter := g.counter - t.recs.length }).modLevel t.lvl
            fun l => { l with cancelledItem := true }
          .next ((s1.report (t.recs.map fun _ => .item itemRecord t.lvl)).modSteal id fun t => { t with stage := .placed, bytes := [] })
        else
          match s.vatWait c die g (8 * dies.length) t.node t.thief t.recs.length n.k.recsize with
          | some s => .next s
          | none =>
            let (s, g, ok, bad) := (t.recs.zip t.bytes).foldl (placeStolen c die (8 * dies.length) t) (s, g, [], [])
            let s := s.modGraph t.lvl fun _ => g
            let s := s.modCore die (t.thief % 8) fun c => { c with empties := 0 }
            let s := s.modSteal id fun t => { t with stage := .placed, recs := ok, back := bad, bytes := [] }
            .next (s.offerOn die)
      | _, _, _ => .next s

/-- The thief's acknowledgement at the victim: slots are freed, records that were not taken go back to the tail. -/
def execStealAck (id : Nat) (s : State) : Host.Outcome State Fault Refusal :=
  match s.steals.find? fun t => t.id == id && t.stage == .placed with
  | none => .next s
  | some t =>
    let s := { s with steals := s.steals.filter fun x => x.id != id }
    let s := s.modGraph t.lvl fun g => t.recs.foldl (fun g r => g.freeSlot t.node t.victim r.slot) g
    .next (s.giveBack t.lvl t.node t.victim t.back)

/-- The thief has waited 256 cycles of its die's clock. -/
def execStealBackoff (die core : Nat) (s : State) : Host.Outcome State Fault Refusal :=
  let b := (s.coreSt die core).backoff
  .next (if b != 0 && decide (b ≤ s.clockOf die) then s.modCore die core fun c => { c with backoff := 0 } else s)

end Sys2Proof.Machine
end

