-- ==== Sys2Proof/Machine/Jobs.lean ====
section
/-! DEFINITION. The parser (R75 to R77), step descriptors (R89) and the start of jobs (R69, R77). -/

namespace Sys2Proof.Machine

/-! ## Queues of a leading die (R22, R75) -/

/-- The context of a queue and the device that sees it. -/
def State.queueOwner (s : State) (part q : Nat) : Option (Ctx × Nat) :=
  (s.ctx? (256 * part + (s.queue part q).ctx)).bind fun c => (c.queueDev q).map fun j => (c, j)

/-- Whether a queue's head stands on a wait packet that holds it. -/
def State.queueHeld (s : State) (part q : Nat) : Bool := s.jobs.any fun j => j.part == part && j.q == q && j.waiting

/-- Whether the parser of a die has a slot of a queue to read. -/
def State.parses (s : State) (part die q : Nat) : Bool :=
  let j := s.queue part q
  j.en && !j.err && j.head != j.tail && !s.queueHeld part q && (s.queueOwner part q).any fun o => o.1.lead o.2 == die

/-- The queue that the rotation serves next. -/
def State.nextQueue (s : State) (part die : Nat) : Option Nat :=
  let last := ((s.part part).bind fun p => p.parsed.find? fun x => x.1 == die).elim 63 Prod.snd
  ((List.range 64).map fun i => (last + 1 + i) % 64).find? (s.parses part die)

/-! ## Packets (R76) -/

/-- The types of a packet. -/
def tyNoop : Nat := 0x00
def tyGraph : Nat := 0x01
def tyStep : Nat := 0x02
def tyWait : Nat := 0x08
def tyCancel : Nat := 0x09

def isWork (t : Nat) : Bool := t == tyGraph || t == tyStep

/-- A malformed packet. -/
def packetBad (b : List Byte) : Bool :=
  let t := byteAt b 0
  let desc := leAt b 8 8
  let sig := (b.getD 1 0).getLsbD 1
  !(t == tyNoop || isWork t || t == tyWait || t == tyCancel)
    || decide (8 ≤ byteAt b 1) || leAt b 2 2 != 0 || leAt b 56 8 != 0 || byteAt b 39 != 0
    || (sig && (leAt b 24 8 == 0 || leAt b 24 8 % 8 != 0))
    || (if isWork t then desc % 64 != 0 else desc != 0)
    || (t == tyCancel && leAt b 44 4 != 0)
    || (t != tyWait && t != tyCancel && leAt b 40 8 != 0)
    || (t != tyWait && leAt b 48 8 != 0)

/-- The job that a packet asks for. -/
def jobOf (b : List Byte) (id part dev q ctx slot : Nat) (inl : DWord) : Job where
  id := id
  part := part
  dev := dev
  q := q
  ctx := ctx
  slot := slot
  type := byteAt b 0
  flags := b.getD 1 0
  tag := BitVec.ofNat 32 (leAt b 4 4)
  desc := BitVec.ofNat 64 (leAt b 8 8)
  sigaddr := BitVec.ofNat 64 (leAt b 24 8)
  sigval := BitVec.ofNat 64 (leAt b 32 8)
  waddr := BitVec.ofNat 64 (leAt b 40 8)
  wval := BitVec.ofNat 64 (leAt b 48 8)
  inl := inl
  started := false
  waiting := false
  deputy := .none

def Job.order (j : Job) : Bool := j.flags.getLsbD 0
def Job.sig (j : Job) : Option (DWord × DWord) := if j.flags.getLsbD 1 then some (j.sigaddr, j.sigval) else none

def State.modJob (s : State) (id : Nat) (f : Job → Job) : State := { s with jobs := modWhere s.jobs (fun j => j.id == id) f }

/-- Whether a job has not completed: of one that has, a release may still be on its way (R69). -/
def Job.live (j : Job) : Bool := j.deputy != .releasing

/-- A job starts: its level, with `total` members to come. -/
def State.startJob (s : State) (c : Ctx) (j : Job) (total : Nat) : Nat × State :=
  let s := s.modJob j.id fun x => { x with started := true, waiting := false }
  s.addLevel .job c j.dev none j.id total j.sig fun l => { l with admitted := true }

/-- A job that ends without starting anything, with a status. -/
def State.refuseJob (s : State) (c : Ctx) (j : Job) (st : Byte) : State :=
  let (id, s) := s.startJob c j 0
  s.modLevel id fun l => { l with status := st }

/-- The packet at the head of a queue becomes a job. HEAD moves on, but for a wait packet. -/
def State.takePacket (s : State) (part die q : Nat) (c : Ctx) (dev : Nat) (b : List Byte) : State :=
  let jq := s.queue part q
  let s := s.modPart part fun p => { p with parsed := (p.parsed.filter fun x => x.1 != die) ++ [(die, q)] }
  let bad := packetBad b
  let (inl, s) := if !bad && isWork (byteAt b 0) then (s.copyInline c (b.drop 64)).getD (0, s) else (0, s)
  let wait := !bad && byteAt b 0 == tyWait
  let j := { jobOf b s.fresh part dev q c.key jq.head.toNat inl with waiting := wait }
  let s := { s with jobs := s.jobs ++ [j], fresh := s.fresh + 1 }
  let s := if wait then s else s.setQueue part q { jq with head := jq.head + 1 }
  if bad then s.refuseJob c j 3 else s

/-- The parser of a leading die reads the next slot in rotation. A die in reset parses nothing (R70). -/
def execParserReadPacket (part die : Nat) (s : State) : Host.Outcome State Fault Refusal :=
  match (if (s.router die).inReset then none else s.nextQueue part die) with
  | none => .next s
  | some q =>
    match s.queueOwner part q with
    | none => .next s
    | some (c, dev) =>
      let j := s.queue part q
      match s.descRead c die (j.base + BitVec.ofNat 64 (128 * (j.head.toNat % 2 ^ j.log2))) 128 with
      | .park s => .next s
      | .fault _ s => .next (s.setQueue part q (j.stop 5))
      | .bytes b => .next (s.takePacket part die q c dev b)

/-! ## The start of jobs (R69, R77) -/

/-- Whether a job's turn has come in its queue: earlier jobs have started and, with ORDER, completed. -/
def State.turnCome (s : State) (j : Job) : Bool :=
  let before := s.jobs.filter fun x => x.part == j.part && x.q == j.q && decide (x.id < j.id) && x.live
  !j.started && before.all Job.started && (!j.order || before.isEmpty)

/-- The deputy of a device: its second-lowest die (R69). -/
def Ctx.deputy (c : Ctx) (dev : Nat) : Option Nat := (c.devDies dev)[1]?

/-- Whether a job may be admitted: its turn has come, and the deputy, where there is one, has acknowledged its record. -/
def State.jobTurn (s : State) (c : Ctx) (j : Job) : Bool := s.turnCome j && (c.deputy j.dev).all fun _ => j.deputy == .acked

/-- A job's record goes to the deputy once its turn has come: it is sent, it arrives, and the acknowledgement comes back (R69). A deputy in
reset takes nothing. -/
def State.askDeputy (s : State) (id type : Nat) : State :=
  match s.job? id with
  | none => s
  | some j =>
    match (s.ctx? j.ctx).bind fun c => c.deputy j.dev with
    | none => s
    | some d =>
      if j.type != type || !s.turnCome j then s
      else
        match j.deputy with
        | .none => s.modJob id fun x => { x with deputy := .sent }
        | .sent => if s.socketOn d && !(s.router d).inReset then s.modJob id fun x => { x with deputy := .held } else s
        | .held => s.modJob id fun x => { x with deputy := .acked }
        | _ => s

/-- The release of a job that has completed reaches the deputy, which forgets it. -/
def State.releaseJob (s : State) (id : Nat) : State := { s with jobs := s.jobs.filter fun j => !(j.id == id && j.deputy == .releasing) }

/-- A job of one type with its context, when its turn has come. -/
def State.jobReady (s : State) (id type : Nat) : Option (Ctx × Job) :=
  match s.job? id with
  | none => none
  | some j =>
    match s.ctx? j.ctx with
    | some c => if j.type == type && s.jobTurn c j then some (c, j) else none
    | none => none

def execJobNoop (job : Nat) (s : State) : Host.Outcome State Fault Refusal :=
  match s.jobReady job tyNoop with
  | some (c, j) => .next (s.startJob c j 0).2
  | none => .next (s.askDeputy job tyNoop)

def execJobGraph (job : Nat) (s : State) : Host.Outcome State Fault Refusal :=
  match s.jobReady job tyGraph with
  | some (c, j) =>
    let (up, s) := s.startJob c j 1
    .next (s.addLevel .graph c j.dev (some up) job 0 none fun l => { l with desc := j.desc }).2
  | none => .next (s.askDeputy job tyGraph)

/-! ## Step descriptors (R89) -/

/-- A signal that a descriptor asks for, from its FLAGS at `f` and its address and value at `a`. -/
def sigOf (b : List Byte) (f a : Nat) : Option (DWord × DWord) :=
  if (b.getD f 0).getLsbD 0 then some (BitVec.ofNat 64 (leAt b a 8), BitVec.ofNat 64 (leAt b (a + 8) 8)) else none

/-- The checks that FLAGS, SIGADDR and SIGVAL must meet. -/
def sigBad (b : List Byte) (f a : Nat) : Bool :=
  decide (2 ≤ byteAt b f) || byteAt b (a + 15) != 0
    || ((b.getD f 0).getLsbD 0 && (leAt b a 8 == 0 || leAt b a 8 % 8 != 0))

def stepHeaderBad (b : List Byte) : Bool :=
  leAt b 0 2 == 0 || decide (1024 < leAt b 0 2) || sigBad b 2 8 || leAt b 3 5 != 0 || leNat (b.drop 24) != 0

def stepEntryBad (b : List Byte) : Bool :=
  let k := byteAt b 0
  let x := leAt b 16 4
  let y := leAt b 20 4
  let z := leAt b 24 4
  !(k == 1 || k == 2) || sigBad b 1 40 || leAt b 2 6 != 0 || leAt b 28 4 != 0 || leAt b 56 8 != 0
    || (if k = 1 then x == 0 || y == 0 || z == 0 || decide (2 ^ 32 - 1 < x * y * z) else x != 0 || y != 0 || z != 0)

def memberOf (b : List Byte) : Member where
  kernel := byteAt b 0 == 1
  desc := BitVec.ofNat 64 (leAt b 8 8)
  x := leAt b 16 4
  y := leAt b 20 4
  z := leAt b 24 4
  args := BitVec.ofNat 64 (leAt b 32 8)
  sig := sigOf b 1 40

/-- The entries of a step descriptor. -/
def stepEntries (b : List Byte) (n : Nat) : List (List Byte) := (List.range n).map fun i => (b.drop (64 * i)).take 64

/-- The whole descriptor is read and checked before the job is admitted. -/
def execJobStep (job : Nat) (s : State) : Host.Outcome State Fault Refusal :=
  match s.jobReady job tyStep with
  | none => .next (s.askDeputy job tyStep)
  | some (c, j) =>
    let die := c.lead j.dev
    match s.descRead c die j.desc 64 with
    | .park s => .next s
    | .fault _ s => .next (s.refuseJob c j 3)
    | .bytes h =>
      if stepHeaderBad h then .next (s.refuseJob c j 3)
      else
        match s.descRead c die (j.desc + 64) (64 * leAt h 0 2) with
        | .park s => .next s
        | .fault _ s => .next (s.refuseJob c j 3)
        | .bytes b =>
          let es := stepEntries b (leAt h 0 2)
          if es.any stepEntryBad then .next (s.refuseJob c j 3)
          else
            let (up, s) := s.startJob c j 1
            .next (s.addLevel .step c j.dev (some up) job es.length (sigOf h 2 8) fun l =>
              { l with admitted := true, members := es.map memberOf }).2

/-! ## Wait and cancel packets (R77) -/

/-- A read of a wait packet's word: the packet's job completes when the word is large enough; HEAD stays on the packet until then. -/
def State.waitStep (s : State) (j : Job) : State :=
  match s.ctx? j.ctx with
  | none => s
  | some c =>
    let q := s.queue j.part j.q
    let gone (s : State) : State := { s with jobs := s.jobs.filter fun x => x.id != j.id }
    if !q.en || q.err then s
    else
      match s.descRead c (c.lead j.dev) j.waddr 8 with
      | .park s => s
      | .fault _ s => (gone s).setQueue j.part j.q (q.stop 5)
      | .bytes b =>
        if leNat b < j.wval.toNat then s.modJob j.id fun x => { x with started := true }
        else (s.setQueue j.part j.q { q with head := q.head + 1 }).startJob c j 0 |>.2

def execJobWait (job : Nat) (s : State) : Host.Outcome State Fault Refusal :=
  match s.jobReady job tyWait with
  | some (_, j) => .next (s.waitStep j)
  | none => .next (s.askDeputy job tyWait)

def execWaitPacketRecheck (job : Nat) (s : State) : Host.Outcome State Fault Refusal :=
  match s.job? job with
  | some j => .next (if j.started && j.waiting then s.waitStep j else s)
  | none => .next s

/-- A cancel packet is applied when it starts, to the jobs of its queue that have started and not completed. -/
def execJobCancel (job : Nat) (s : State) : Host.Outcome State Fault Refusal :=
  match s.jobReady job tyCancel with
  | none => .next (s.askDeputy job tyCancel)
  | some (c, j) =>
    let hit := s.jobs.filter fun x => x.part == j.part && x.q == j.q && x.started && x.live && x.tag == loW j.waddr
    let lvls := s.levels.filter fun l => l.kind == .job && hit.any fun x => x.id == l.job
    let s := lvls.foldl (fun s l => s.cancelLevel l.id) s
    .next (s.startJob c j 0).2

end Sys2Proof.Machine
end

