-- ==== Sys2Proof/Machine/Mgmt.lean ====
section
/-! DEFINITION. The memory core's requests (R79 to R83): the checks of R82 and the twelve operations of R81. -/

namespace Sys2Proof.Machine

/-! ## A slot (R79) -/

def opCtxcreate : Nat := 0x01
def opCtxdestroy : Nat := 0x02
def opMap : Nat := 0x03
def opUnmap : Nat := 0x04
def opMigrate : Nat := 0x05
def opSetreg : Nat := 0x06
def opShardgrp : Nat := 0x07
def opPeer : Nat := 0x08
def opExport : Nat := 0x09
def opHostwin : Nat := 0x0A
def opDebug : Nat := 0x0B
def opAttest : Nat := 0x10

def mqVa (b : List Byte) : Nat := leAt b 8 8
def mqLen (b : List Byte) : Nat := leAt b 16 8
def mqPa (b : List Byte) : Nat := leAt b 32 8

/-- The bits of byte i of a slot that an operation uses, ARGS being bytes 8 to 127. -/
def mqUsed (op i : Nat) : Nat :=
  let at_ (lo hi : Nat) : Bool := decide (lo ≤ i) && decide (i ≤ hi)
  let all (b : Bool) : Nat := if b then 0xFF else 0
  if op = opCtxcreate then (if i = 12 then 0x03 else all (at_ 8 11 || at_ 16 23))
  else if op = opMap then (if i = 25 then 0x0F else if i = 27 then 0x3F else all (at_ 8 24 || i == 26 || at_ 32 39))
  else if op = opUnmap || op = opExport || op = opHostwin then all (at_ 8 23)
  else if op = opMigrate then all (at_ 8 24 || at_ 32 39)
  else if op = opSetreg then all (i == 8 || at_ 16 23)
  else if op = opShardgrp then (if i = 8 then 0x0F else all (at_ 16 23))
  else if op = opPeer then (if i = 9 then 0x01 else all (i == 8 || at_ 10 12))
  else if op = opDebug then (if i = 8 then 0x01 else 0)
  else if op = opAttest then all (at_ 8 55)
  else 0

def mqKnown (op : Nat) : Bool := (decide (1 ≤ op) && decide (op ≤ opDebug)) || op == opAttest

/-- The level and the frames of a page size (MAP, byte 24). -/
def pgszLevel (z : Nat) : Nat := if z ≤ 1 then 1 else z
def pgszFrames (z : Nat) : Nat := match z with | 0 => 1 | 1 => 16 | 2 => 512 | _ => 262144

/-- A range that is not aligned to a size or does not lie below 2^48. -/
def rangeBad (va len size : Nat) : Bool := va % size != 0 || len % size != 0 || decide (2 ^ 48 < va + len)

/-- Registers that SETREG writes. -/
def setregOk (n : Nat) : Bool := n == 4 || n == 5 || n == 6 || n == 12 || (decide (0x20 ≤ n) && decide (n ≤ 0x3F))

/-- Status 0x01 of R82. -/
def mqBad (b : List Byte) : Bool :=
  let op := byteAt b 0
  let va := mqVa b
  let len := mqLen b
  !mqKnown op || decide (4 ≤ byteAt b 2)
    || ((List.range 120).any fun i => byteAt b (i + 8) &&& (255 - mqUsed op (i + 8)) != 0)
    || if op = opMap then
        let share := byteAt b 26
        decide (3 < byteAt b 24) || !(share == 1 || share == 2 || share == 6) || (share != 2 && byteAt b 27 != 0)
          || (share != 6 && mqPa b != 0) || len == 0 || rangeBad va len (4096 * pgszFrames (byteAt b 24))
          || mqPa b % (4096 * pgszFrames (byteAt b 24)) != 0
      else if op = opUnmap then len == 0 || rangeBad va len 4096
      else if op = opMigrate then
        decide (2 < byteAt b 24) || len == 0 || rangeBad va len 4096 || mqPa b % 4096 != 0 || (byteAt b 24 == 0 && mqPa b != 0)
      else if op = opSetreg then !setregOk (byteAt b 8)
      else if op = opShardgrp then rangeBad (mqLen b) 0 4096 || decide (2 ^ 48 < mqLen b + 256)
      else if op = opPeer then byteAt b 8 == 0
      else if op = opExport || op = opHostwin then rangeBad va len 4096
      else if op = opAttest then
        if (b.getD 2 0).getLsbD 1 then leAt b 40 16 != 0
        else leAt b 40 8 % 4096 != 0 || decide (2 ^ 48 < leAt b 40 8 + leAt b 48 8)
      else false

/-! ## Serving a request (R80, R82) -/

/-- A partition's leading die (R79). -/
def Partition.lead (p : Partition) : Nat := (p.dies.foldl min 32)
def State.leadDie (s : State) (part : Nat) : Nat := (s.part part).elim 0 Partition.lead

/-- How serving a request goes on: it waits, or it ends with a status and RESULT. -/
inductive MgmtEnd where
  | wait (s : State)
  | ends (s : State) (st : Byte) (result : List Byte)

/-- A request's end: RESULT, STATUS, DONE and BUSY, and the notice that HOSTNOTE asks for. -/
def State.endMgmt (s : State) (part k : Nat) (st : Byte) (result : List Byte) : State :=
  let b := ((s.part part).map (slotBytes · k)).getD []
  let b := putAt (putAt b 128 ((result ++ List.replicate 128 0).take 128)) 1 [st]
  let s := s.modPart part fun p => { p.setSlot k b with
    done := p.done ||| (1#16 <<< k), busy := p.busy &&& ~~~(1#16 <<< k), submitted := p.submitted.drop 1, serving := none }
  if (b.getD 2 0).getLsbD 0 then
    { s with out := s.out ++ [.msix part 64, .mgmtNote part (BitVec.ofNat 32 (leAt b 4 4)) st (b.getD 0 0) k] }
  else s

/-- Serving the request at the head of a partition's submissions, where it asks for the operation `op`; a request whose operation
is unknown ends at once. -/
def State.mgmt (s : State) (part op : Nat) (f : Nat → List Byte → State → MgmtEnd) : State :=
  match s.part part with
  | none => s
  | some p =>
    match p.submitted.head? with
    | none => s
    | some k =>
      let b := slotBytes p k
      if (s.router p.lead).inReset then s
      else if byteAt b 0 != op && mqKnown (byteAt b 0) then s
      else if mqBad b then s.endMgmt part k 1 []
      else if op != opCtxcreate && !s.liveCtx part (byteAt b 3) then s.endMgmt part k 5 []
      else
        match f k b s with
        | .wait s => s
        | .ends s st r => s.endMgmt part k st r

/-- The same for an operation on a live context. -/
def State.mgmtCtx (s : State) (part op : Nat) (f : Ctx → Nat → List Byte → State → MgmtEnd) : State :=
  s.mgmt part op fun k b s =>
    match s.ctx? (256 * part + byteAt b 3) with
    | some c => f c k b s
    | none => .ends s 5 []

/-- The request that has begun, if it is that of slot k. -/
def State.servingOf (s : State) (part k : Nat) : Option Serving := ((s.part part).bind Partition.serving).filter fun v => v.slot == k
def State.setServing (s : State) (part : Nat) (v : Serving) : State := s.modPart part fun p => { p with serving := some v }

/-- Whether an acknowledgement of the changes of a request is awaited (R170). -/
def State.acksDue (s : State) (v : Serving) : Bool := s.invals.any fun i => i.ctx == v.ctx && decide (v.change ≤ i.change)

/-! ## Contexts (R20, R21) -/

/-- Placement that R21 discards, whatever the context holds. -/
def placeBad (dies : List Nat) (mask : BitVec 32) (mode : Nat) : Bool :=
  mask == 0 || (setBits mask).any (fun d => !dies.contains d) || mode == 3 || (mode == 1 && popcount mask % 2 == 1)

/-- A context at its creation. -/
def newCtx (part num : Nat) (mask : BitVec 32) (mode : Nat) (seed : DWord) : Ctx where
  num := num
  part := part
  place := BitVec.ofNat 64 (mode * 2 ^ 34 + mask.toNat)
  seed := seed
  ptb := 0
  shard := 0
  trap := 0
  save := 0
  comp := 0
  ncbase := List.replicate 16 0
  nclim := List.replicate 16 0
  peers := []
  expVa := 0
  expLen := 0
  halten := false
  counters := []
  seq := 0
  memberLife := 0
  groups := []
  phase := .onCores

/-- A write of CTXPLACE and CTXSEED (R20, R21): one that is discarded sets ERR and leaves both as they are. -/
def State.writePlace (s : State) (dies : List Nat) (c : Ctx) (mask : BitVec 32) (mode : Nat) (seed : DWord) : Ctx :=
  if placeBad dies mask mode || s.leaves c != [] then { c with place := c.place ||| 0x100000000#64 }
  else { c with place := BitVec.ofNat 64 (mode * 2 ^ 34 + mask.toNat), seed := seed }

/-- ERR of CTXPLACE. -/
def Ctx.placeErr (c : Ctx) : Bool := c.place.getLsbD 32

def rootPte (f : Nat) : DWord := BitVec.ofNat 64 (f % 2 ^ 40 * 4096 + 1)

/-- CTXCREATE writes the placement once, while the context has no page: a discarded write makes no context (R21, R82). -/
def execCtxcreate (part : Nat) (s : State) : Host.Outcome State Fault Refusal :=
  .next (s.mgmt part opCtxcreate fun k b s =>
    let mask := BitVec.ofNat 32 (leAt b 8 4)
    let dies := ((s.part part).map Partition.dies).getD []
    if (s.writePlace dies (newCtx part 0 0 0 0) mask (byteAt b 12) (BitVec.ofNat 64 (leAt b 16 8))).placeErr then .ends s 3 []
    else
      match (List.range 256).find? fun n => !s.liveCtx part n with
      | none => .ends s 2 []
      | some n =>
        let c := newCtx part n mask (byteAt b 12) (BitVec.ofNat 64 (leAt b 16 8))
        match ({ s with ctxs := s.ctxs ++ [c] }).takeFrame c fun _ => true with
        | none => .ends s 2 []
        | some (f, s) =>
          let s := s.modCtx c.key fun c => { c with ptb := rootPte f }
          .ends (s.modPart part fun p => p.setSlot k (putAt (slotBytes p k) 3 [BitVec.ofNat 8 n])) 0 [])

/-! ## Unmapping (R81) -/

/-- The page that a leaf is, or belongs to: its first address and its size. -/
def LeafAt.page (l : LeafAt) : Nat × Nat :=
  if l.level = 1 then (if pteC64 l.pte then (l.va / 65536 * 65536, 65536) else (l.va, 4096)) else (l.va, 2 ^ (12 + 9 * (l.level - 1)))

def LeafAt.size (l : LeafAt) : Nat := 2 ^ (12 + 9 * (l.level - 1))

def LeafAt.hits (l : LeafAt) (va len : Nat) : Bool := decide (l.va < va + len) && decide (va < l.va + l.size)

/-- The leaves that a range touches. -/
def State.leavesIn (s : State) (c : Ctx) (va len : Nat) : List LeafAt := (s.leaves c).filter fun l => l.hits va len

/-- Whether every 4 KiB of a range is mapped. -/
def allMapped (ls : List LeafAt) (va len : Nat) : Bool :=
  (ls.map fun l => min (va + len) (l.va + l.size) - max va l.va).foldl (· + ·) 0 == len

/-- Whether every page of the leaves lies inside a range. -/
def allInside (ls : List LeafAt) (va len : Nat) : Bool :=
  ls.all fun l => decide (va ≤ l.page.1) && decide (l.page.1 + l.page.2 ≤ va + len)

/-- A leaf set absent: the translations that the dies hold of its pages are invalidated; its frames are free once that has ended. -/
def State.unmapLeaf (s : State) (c : Ctx) (l : LeafAt) : State :=
  let first := l.va / 4096
  let n := l.size / 4096
  if l.level = 1 then s.unmapPage c first
  else
    let held := ((s.tlbs.filter fun t => t.ctx == c.key && decide (first ≤ t.page) && decide (t.page < first + n)).map Tlb.page).eraseDups
    let s := { s.setPte l.loc 0 with fresh := s.fresh + 1 }
    let s := held.foldl (fun s p => s.invalidate c p (s.fresh - 1)) s
    if pteShare l.pte = 6 then s else (List.range n).foldl (fun s i => s.letGo c (ptePfn l.pte + i) (first + i)) s

/-- The pages of a range that must leave a state of their own first: deliveries of partial pages are begun (R194). -/
def State.deliverAll (s : State) (c : Ctx) (pages : List Nat) : State := pages.foldl (fun s p => s.startDelivery c p) s

/-- Pages of leaves that are partial or on their way there, and those that are migrating. -/
def State.partialIn (s : State) (c : Ctx) (ls : List LeafAt) : List Nat :=
  (ls.filter fun l => l.level == 1 && (s.partial? c.key (l.va / 4096)).isSome).map fun l => l.va / 4096
def State.migratingIn (s : State) (c : Ctx) (ls : List LeafAt) : Bool :=
  ls.any fun l => s.migrs.any fun m => m.ctx == c.key && m.page == l.va / 4096

/-- The pages of leaves, a group of R164 counting once. -/
def pageCount (ls : List LeafAt) : Nat := (ls.filter fun l => l.va == l.page.1).length

/-- A request to unmap whose checks have passed and that has leaves still to set absent. -/
def unmapping (c : Ctx) (k change : Nat) : Serving := ⟨k, c.key, change, [(0, 0)], [], 0⟩

/-- Leaves unmapped, or what they wait for. The checks of the request are over (R82). -/
def State.unmapAll (s : State) (c : Ctx) (part k : Nat) (ls : List LeafAt) : State :=
  let s := s.setServing part (unmapping c k s.fresh)
  match s.partialIn c ls with
  | [] =>
    if s.migratingIn c ls then s
    else
      (ls.foldl (fun s l => s.unmapLeaf c l) s).setServing part ⟨k, c.key, s.fresh, [], [], pageCount ls⟩
  | ps => s.deliverAll c ps

def execMgmtUnmap (part : Nat) (s : State) : Host.Outcome State Fault Refusal :=
  .next (s.mgmtCtx part opUnmap fun c k b s =>
    match s.servingOf part k with
    | some v =>
      if v.todo != [] then .wait (s.unmapAll c part k (s.leavesIn c (mqVa b) (mqLen b)))
      else if s.acksDue v then .wait s
      else .ends s 0 (natLe 8 v.moved)
    | none =>
      let ls := s.leavesIn c (mqVa b) (mqLen b)
      if !allMapped ls (mqVa b) (mqLen b) || !allInside ls (mqVa b) (mqLen b) then .ends s 4 []
      else .wait (s.unmapAll c part k ls))

/-- What a context held goes with it: its number is free. -/
def State.dropCtx (s : State) (c : Ctx) : State :=
  let k := c.key
  let off (p : Pipe) : Pipe := { p with slots := p.slots.filter fun x => x.2.ctx != k }
  let s := { s with
    ctxs := s.ctxs.filter fun x => x.key != k
    frames := s.frames.filter fun x => x.ctx != k
    tlbs := s.tlbs.filter fun x => x.ctx != k
    walks := s.walks.filter fun x => x.ctx != k
    invals := s.invals.filter fun x => x.ctx != k
    resolving := s.resolving.filter fun x => x.1 != k
    opens := s.opens.filter fun x => x.1 != k
    awaited := s.awaited.filter fun x => x.1 != k
    migrs := s.migrs.filter fun x => x.ctx != k
    gathers := s.gathers.filter fun x => x.ctx != k
    parts := s.parts.filter fun x => x.ctx != k
    reductions := s.reductions.filter fun x => x.ctx != k
    deferred := s.deferred.filter fun x => x.ctx != k
    signals := s.signals.filter fun x => x.1 != k
    copies := s.copies.filter fun x => x.ctx != k
    pipes := s.pipes.map off }
  s.modPart c.part fun p => if p.hostCtx = some c.num then { p with hostCtx := none, hostVa := 0, hostLen := 0 } else p

/-- Whether a context is busy: a queue bound to it is enabled, or a level of it, or a job that will have one, has not ended. -/
def State.ctxBusy (s : State) (c : Ctx) : Bool :=
  ((s.part c.part).any fun p => p.queues.any fun q => q.2.en && q.2.ctx == c.num)
    || (s.levels.any fun l => l.ctx == c.key) || s.jobs.any fun j => j.ctx == c.key

def execCtxdestroy (part : Nat) (s : State) : Host.Outcome State Fault Refusal :=
  .next (s.mgmtCtx part opCtxdestroy fun c k _ s =>
    match s.servingOf part k with
    | some v =>
      if v.todo != [] then .wait (s.unmapAll c part k (s.leaves c)) else if s.acksDue v then .wait s else .ends (s.dropCtx c) 0 []
    | none => if s.ctxBusy c then .ends s 4 [] else .wait (s.unmapAll c part k (s.leaves c)))

/-! ## Mapping (R81, R164) -/

/-- The tables below an entry that a larger leaf takes the place of: they map nothing, and their frames are free. -/
def State.dropTables (s : State) (c : Ctx) (loc level : Nat) : State :=
  let p := s.viewD loc
  if p = 0 || pteLeaf p || level ≤ 1 then s else (s.tablesFrom c (level - 1) (ptePfn p)).foldl (fun s f => s.freeFrame c f) s

/-- One leaf written at a level. -/
def State.mapLeaf (s : State) (c : Ctx) (va level : Nat) (p : DWord) : Option State :=
  (s.entryFrom c va level 4 (ctxRoot c * 4096)).map fun (s, loc) => (s.dropTables c loc level).setPte loc p

/-- The 16 leaves of a group of R164. -/
def State.mapGroup (s : State) (c : Ctx) (va : Nat) (l : LeafSpec) (f : Nat) : Nat → Option State
  | 0 => some s
  | n + 1 => (s.mapLeaf c (va + 4096 * n) 1 (l.pte (f + n))).bind fun s => s.mapGroup c va l f n

/-- n pages of a size mapped from an address: to frames of their own, or to consecutive places. -/
def State.mapPages (s : State) (c : Ctx) (z : Nat) (l : LeafSpec) (pa : Option Nat) : Nat → Nat → Option State
  | 0, _ => some s
  | n + 1, va =>
    let frames := pgszFrames z
    let room := match pa with
      | some x => some (x / 4096, s)
      | none => if frames = 1 then s.takeFrame c fun _ => true else s.takeRun c frames
    room.bind fun (f, s) =>
      (if z = 1 then s.mapGroup c va l f 16 else s.mapLeaf c va (pgszLevel z) (l.pte f)).bind fun s =>
        s.mapPages c z l (pa.map (· + 4096 * frames)) n (va + 4096 * frames)

/-- The leaf that a MAP asks for. -/
def mapSpec (b : List Byte) : LeafSpec :=
  let perm := b.getD 25 0
  let g := b.getD 27 0
  ⟨byteAt b 26, g.toNat % 16, g.getLsbD 4, g.getLsbD 5, perm.getLsbD 3, perm.getLsbD 2, perm.getLsbD 1, perm.getLsbD 0, byteAt b 24 == 1⟩

/-- Status 0x03 of a MAP. -/
def State.mapRefused (s : State) (c : Ctx) (b : List Byte) : Bool :=
  let l := mapSpec b
  if l.share = 2 then byteAt b 24 != 0 || l.typed || c.mode != 0 || (s.liveEntry c l.group).isNone
  else if l.share = 6 then
    let k := mqPa b / 2 ^ 48
    !(k == 8 || k == 9 || k == 10 || k == 15) || (mqPa b + mqLen b - 1) / 2 ^ 48 != k
  else false

def execMgmtMap (part : Nat) (s : State) : Host.Outcome State Fault Refusal :=
  .next (s.mgmtCtx part opMap fun c _ b s =>
    let z := byteAt b 24
    let n := mqLen b / (4096 * pgszFrames z)
    if s.mapRefused c b then .ends s 3 []
    else if s.anyMapped c (mqVa b) (mqLen b) then .ends s 4 []
    else
      match s.mapPages c z (mapSpec b) (if byteAt b 26 = 6 then some (mqPa b) else none) n (mqVa b) with
      | some s => .ends s 0 (natLe 8 n)
      | none => .ends s 2 [])

/-! ## Migration (R171, R175) -/

/-- A larger page split into 4 KiB leaves: the tables that take its place, filled from its entry. -/
def State.splitLeaf (s : State) (c : Ctx) (loc : Nat) (p : DWord) : Nat → Option State
  | 0 => some s
  | 1 => some (s.setPte loc p)
  | level + 2 =>
    (s.takeFrame c fun _ => true).bind fun (t, s) =>
      (List.range 512).foldl (fun (s : Option State) i => s.bind fun s =>
        s.splitLeaf c (c.frameLoc t + 8 * i) (p + BitVec.ofNat 64 (i * 2 ^ (12 + 9 * level))) (level + 1))
        (some (s.setPte loc (tablePte t)))

/-- The leaves of a group of R164 become leaves of their own. -/
def State.ungroup (s : State) (l : LeafAt) : State := s.setPte l.loc (l.pte &&& ~~~2#64)

/-- Every larger page that a range touches is split. -/
def State.splitAll (s : State) (c : Ctx) (ls : List LeafAt) : Option State :=
  let groups := (ls.filter fun l => l.level == 1 && pteC64 l.pte).map fun l => l.page.1
  let s := ((s.leaves c).filter fun l => l.level == 1 && pteC64 l.pte && groups.contains l.page.1).foldl State.ungroup s
  (ls.filter fun l => l.level != 1).foldl (fun (s : Option State) l => s.bind fun s => s.splitLeaf c l.loc l.pte l.level) (some s)

/-- Frames taken up front for pages to be pulled into HBM. -/
def State.takeFor (s : State) (c : Ctx) : List Nat → Option (List (Nat × Nat) × State)
  | [] => some ([], s)
  | p :: ps => (s.takeFrame c fun _ => true).bind fun (f, s) => (s.takeFor c ps).map fun (l, s) => ((p, f) :: l, s)

def migrTable : Nat := 256

/-- The location frame that a leaf names. -/
def Ctx.leafFrame (c : Ctx) (p : DWord) : Nat := (c.locOf (ptePfn p * 4096)).getD 0 / 4096

/-- One page starts to migrate into HBM; the state waits where the migration table of the frame's home is full. -/
def State.pullPage (s : State) (c : Ctx) (page f : Nat) : Option State :=
  match s.pageLeaf c page with
  | none => some s
  | some l =>
    let die := c.frameDie f
    if migrTable ≤ (s.migrs.filter fun m => m.die == die).length then none
    else
      let m : Migr := ⟨die, c.key, page, c.frameLoc f / 4096, c.leafFrame l.pte, 0, 0, 0⟩
      some ({ s with migrs := s.migrs ++ [m] }.changeLeaf c page l.loc (ptePoint l.pte 5 f))

/-- The leaf of a page at its new place out of HBM. -/
def remotePte (p : DWord) (pa : Nat) : DWord := (p &&& 0x1FF0000000000FFF#64) ||| BitVec.ofNat 64 (6 * 2 ^ 61 + pa / 4096 % 2 ^ 40 * 4096)

/-- Why a page cannot be copied between two places. -/
def State.moveFault (s : State) (old new : Nat) : Option Byte :=
  let off (loc : Nat) : Bool :=
    ((locKind loc == 8 || locKind loc == 9) && s.cxlCut (locKind loc)) || (locKind loc == 10 && s.fabricCut)
  if off old || off new then some linkerr else s.badLines old 4096

/-- One page copied to its new place and mapped there. -/
def State.movePage (s : State) (c : Ctx) (m : Nat × DWord × DWord) : Except Byte State :=
  let (page, p, q) := m
  let old := 4096 * c.leafFrame p
  let new := 4096 * c.leafFrame q
  match s.moveFault old new with
  | some e => .error e
  | none =>
    let s := s.viewWrite new (s.view old 4096)
    match s.mapEntry c (4096 * page) 1 q with
    | none => .error memerr
    | some s => .ok (if pteShare p = 6 then s else s.freeFrame c (ptePfn p))

/-- The pages of a request moved one after another; one that fails, and those after it, are mapped where they were. -/
def State.movePages (s : State) (c : Ctx) (v : Serving) : List (Nat × DWord × DWord) → Nat → MgmtEnd
  | [], n => .ends s 0 (natLe 8 n)
  | m :: ms, n =>
    match s.movePage c m with
    | .ok s => s.movePages c v ms (n + 1)
    | .error e =>
      let s := (m :: ms).foldl (fun s m => (s.mapEntry c (4096 * m.1) 1 m.2.1).getD s) s
      .ends (s.report [.page c.key (BitVec.ofNat 64 (4096 * m.1)) e]) 6 (natLe 8 n)

/-- The pages of a range set absent, with their places before and after. -/
def State.liftPages (s : State) (c : Ctx) (va pa : Nat) (ls : List LeafAt) : State × List (Nat × DWord × DWord) :=
  ls.foldl (fun (x : State × List (Nat × DWord × DWord)) l =>
    let page := l.va / 4096
    (x.1.changeLeaf c page l.loc 0, x.2 ++ [(page, l.pte, remotePte l.pte (pa + (l.va - va)))])) (s, [])

/-- The start of a migration whose checks have passed. -/
def State.beginMigrate (s : State) (c : Ctx) (part k : Nat) (b : List Byte) (ls : List LeafAt) : MgmtEnd :=
  match s.splitAll c ls with
  | none => .ends s 2 []
  | some s1 =>
    let ls := s1.leavesIn c (mqVa b) (mqLen b)
    if byteAt b 24 = 0 then
      match s1.takeFor c ((ls.filter fun l => pteShare l.pte == 6).map fun l => l.va / 4096) with
      | none => .ends s 2 []
      | some (todo, s1) => .wait (s1.setServing part ⟨k, c.key, s1.fresh, todo, [], ls.length⟩)
    else
      let (s2, moves) := s1.liftPages c (mqVa b) (mqPa b) ls
      .wait (s2.setServing part ⟨k, c.key, s1.fresh, [], moves, 0⟩)

def State.migrateRefused (b : List Byte) (ls : List LeafAt) : Bool :=
  let k := mqPa b / 2 ^ 48
  (ls.any fun l => let h := pteShare l.pte; h == 2 || h == 3 || h == 4 || (h == 6 && pteKind l.pte == 15))
    || (byteAt b 24 == 1 && k != 8) || (byteAt b 24 == 2 && k != 10)
    || (byteAt b 24 != 0 && (mqPa b + mqLen b - 1) / 2 ^ 48 != k)

def execMigrate (part : Nat) (s : State) : Host.Outcome State Fault Refusal :=
  .next (s.mgmtCtx part opMigrate fun c k b s =>
    match s.servingOf part k with
    | none =>
      let ls := s.leavesIn c (mqVa b) (mqLen b)
      if State.migrateRefused b ls then .ends s 3 []
      else if !allMapped ls (mqVa b) (mqLen b) then .ends s 4 []
      else if s.migratingIn c ls then .wait s
      else s.beginMigrate c part k b ls
    | some v =>
      match v.todo with
      | (page, f) :: rest =>
        match s.pullPage c page f with
        | none => .wait s
        | some s => .wait (s.setServing part { v with todo := rest })
      | [] =>
        if s.acksDue v || (v.moves.any fun m => s.frameBusy (4096 * c.leafFrame m.2.1)) then .wait s
        else if v.moves = [] then .ends s 0 (natLe 8 v.moved)
        else s.movePages c v v.moves 0)

/-! ## Registers, groups, windows -/

def setAt {α : Type} (l : List α) (i : Nat) (v : α) : List α := l.modify i fun _ => v

/-- A register written by SETREG with its writable bits. -/
def Ctx.setreg (c : Ctx) (n : Nat) (v : DWord) : Ctx :=
  if n = 4 then { c with trap := v &&& 0x0000FFFFFFFFF801#64 }
  else if n = 5 then { c with save := v &&& 0xFFFFFFFFFFFFF001#64 }
  else if n = 6 then { c with comp := v &&& 0x0000FFFFFFFFFF01#64 }
  else if 0x20 ≤ n ∧ n < 0x30 then { c with ncbase := setAt c.ncbase (n - 0x20) (v &&& 0x0000FFFFFFFFF00F#64) }
  else if 0x30 ≤ n ∧ n < 0x40 then { c with nclim := setAt c.nclim (n - 0x30) (v &&& 0x0000FFFFFFFFF000#64) }
  else c

/-- LEASECFG (R216). -/
def State.setLease (s : State) (c : Ctx) (v : DWord) : State :=
  let n := fieldD v 4 0
  if 16 ≤ n ∧ n ≤ 30 then c.dies.foldl (fun s d => s.modDie d fun x => { x with leaseLog2 := n }) s else s

def execSetreg (part : Nat) (s : State) : Host.Outcome State Fault Refusal :=
  .next (s.mgmtCtx part opSetreg fun c _ b s =>
    let n := byteAt b 8
    let v := BitVec.ofNat 64 (leAt b 16 8)
    if n = 12 then .ends (s.setLease c v) 0 []
    else if n = 5 ∧ (s.wgs.any fun w => w.ctx == c.key) then .ends s 4 []
    else .ends (s.modCtx c.key fun c => c.setreg n v) 0 [])

/-- Whether a context has a page of the sharded family in a group. -/
def State.usesGroup (s : State) (c : Ctx) (g : Nat) : Bool :=
  (s.leaves c).any fun l => (pteShare l.pte == 2 || pteShare l.pte == 3 || pteShare l.pte == 4) && pteGroup l.pte == g

/-- The context with its shard group table, allocated on first use. -/
def State.withShardTable (s : State) (c : Ctx) : Option (Ctx × State) :=
  if c.shard.getLsbD 0 then some (c, s)
  else
    (s.takeFrame c fun _ => true).map fun (f, s) =>
      let c' := { c with shard := rootPte f }
      (c', s.modCtx c.key fun x => { x with shard := rootPte f })

/-- A new instance of a group. -/
def State.newGroup (s : State) (c : Ctx) (g : Nat) : State :=
  { s with reductions := s.reductions.filter fun r => !(r.ctx == c.key && r.group == g) }.modCtx c.key fun x =>
    x.setGroup (ShGroup.reset g (s.clockOf c.lowDie))

def execShardgrp (part : Nat) (s : State) : Host.Outcome State Fault Refusal :=
  .next (s.mgmtCtx part opShardgrp fun c _ b s =>
    let g := byteAt b 8
    let va := BitVec.ofNat 64 (leAt b 16 8)
    match s.descRead c (s.leadDie part) va 256 with
    | .park s => .wait s
    | .fault e s => .ends (s.report [.page c.key va e]) 3 []
    | .bytes img =>
      if s.usesGroup c g then .ends s 4 []
      else
        match s.withShardTable c with
        | none => .ends s 2 []
        | some (c, s) => .ends ((s.viewWrite (c.frameLoc (fieldD c.shard 51 12) + 256 * g) img).newGroup c g) 0 [])

def execMgmtPeer (part : Nat) (s : State) : Host.Outcome State Fault Refusal :=
  .next (s.mgmtCtx part opPeer fun c _ b s =>
    let e := byteAt b 8
    let new : List PeerEntry := if byteAt b 9 = 1 then [⟨e, byteAt b 10, byteAt b 11, byteAt b 12⟩] else []
    .ends (s.modCtx c.key fun c => { c with peers := (c.peers.filter fun p => p.e != e) ++ new }) 0 [])

def execMgmtExport (part : Nat) (s : State) : Host.Outcome State Fault Refusal :=
  .next (s.mgmtCtx part opExport fun c _ b s =>
    .ends (s.modCtx c.key fun c => { c with expVa := BitVec.ofNat 64 (mqVa b), expLen := mqLen b }) 0 [])

def execHostwin (part : Nat) (s : State) : Host.Outcome State Fault Refusal :=
  .next (s.mgmtCtx part opHostwin fun c _ b s =>
    let held := (s.part part).bind Partition.hostCtx
    if mqLen b = 0 then
      .ends (if held = some c.num then s.modPart part fun p => { p with hostCtx := none, hostVa := 0, hostLen := 0 } else s) 0 []
    else if held.any (· != c.num) then .ends s 4 []
    else .ends (s.modPart part fun p => { p with hostCtx := some c.num, hostVa := BitVec.ofNat 64 (mqVa b), hostLen := mqLen b }) 0 [])

def execMgmtDebug (part : Nat) (s : State) : Host.Outcome State Fault Refusal :=
  .next (s.mgmtCtx part opDebug fun c _ b s => .ends (s.modCtx c.key fun c => { c with halten := byteAt b 8 == 1 }) 0 [])

/-! ## Attestation (R60, R83) -/

/-- The report without its signature. -/
def Boot.reportBody (b : Boot) (nonce : List Byte) : List Byte :=
  nonce ++ [b.pod, 0] ++ natLe 2 b.start.toNat ++ natLe 2 b.fenced.length ++ natLe 2 b.measured.length
    ++ b.fenced.flatMap (fun u => [BitVec.ofNat 8 u.1, 0] ++ natLe 2 u.2) ++ b.measured.flatMap fun m => natLe 64 m.toNat

/-- The whole report; the identity key's signature is a free value. -/
def Boot.report (b : Boot) (nonce : List Byte) : List Byte :=
  let body := b.reportBody nonce
  body ++ (List.range 512).map (Config.signReport body)

/-- The queue number by which the management reply send queue is named. -/
def mgmtReplyQueue : Nat := 64

/-- Why the buffer of a report cannot be written. -/
def State.bufferFault (s : State) (c : Ctx) (die : Nat) (va : DWord) (n : Nat) : Option Byte :=
  (pagesOf va n).findSome? fun p =>
    match s.translate c die .write (BitVec.ofNat 64 (4096 * p)) with
    | .fault e => some e
    | _ => none

def execAttest (part : Nat) (s : State) : Host.Outcome State Fault Refusal :=
  .next (s.mgmtCtx part opAttest fun c _ b s =>
    let rep := s.boot.report ((b.drop 8).take 32)
    let len := natLe 8 rep.length
    let va := BitVec.ofNat 64 (leAt b 40 8)
    if (b.getD 2 0).getLsbD 1 then
      if s.liveEth = [] then .wait s else .ends { s with out := s.out ++ s.sends part mgmtReplyQueue rep } 0 len
    else if leAt b 48 8 < rep.length then .ends s 2 len
    else
      match s.bufferFault c (s.leadDie part) va rep.length with
      | some e => .ends (s.report [.page c.key va e]) 3 []
      | none =>
        match s.writeVa c (s.leadDie part) va rep with
        | .done s => .ends s 0 len
        | .park s => .wait s
        | .fault e s => .ends (s.report [.page c.key va e]) 6 [])

end Sys2Proof.Machine
end

