-- ==== Sys2Proof/Machine/Outside.lean ====
section
/-! DEFINITION. What reaches the device from outside: completion timeouts (R44), fabric, Ethernet and CXL ports (R42 to R48), requests
of peers (R42), the host window (R81, R221) and the management port (R49). -/

namespace Sys2Proof

/-- Where an access from outside begins, and how many bytes it has. -/
def OutsideAccess.ofs : OutsideAccess → Nat
  | .read o _ => o
  | .write o _ => o

def OutsideAccess.len : OutsideAccess → Nat
  | .read _ n => n
  | .write _ b => b.length

end Sys2Proof

namespace Sys2Proof.Machine

/-! ## Timeouts (R44) -/

/-- A request that has left the package is not answered in time. Its requester has LINKERR; a later response is stale. -/
def execCompletionTimeout (req : Nat) (s : State) : Host.Outcome State Fault Refusal :=
  match s.req? req with
  | none => .next s
  | some r =>
    match r.deadline with
    | none => .next s
    | some due => .next (if !r.over && decide (due ≤ s.clockOf r.die) then (s.failReq req linkerr).expectLate r.die else s)

/-! ## Ports -/

/-- Requests under way that meet a test fail, and the transactions that they wait in go. -/
def State.failHere (s : State) (p : MemReq → Bool) : State :=
  let rs := s.reqs.filter fun r => (r.stage == .atHome || r.stage == .inTxn) && p r
  let s := { s with txns := s.txns.filter fun t => !(t.reqs.any fun i => rs.any fun r => r.id == i) }
  let s := rs.foldl (fun s r => s.replyFault r.home [r] linkerr) s
  s.sweep.failMany ((s.reqs.filter fun r => r.stage == .travelling && p r).map MemReq.id) linkerr

/-- A fabric port fails (R43): the transactions of its queue go over the ports that are left; without one, all that is under way fails. -/
def execFabricPortFailure (port : Nat) (s : State) : Host.Outcome State Fault Refusal :=
  if port ≥ 16 || s.fabricDown.contains port then .next s
  else
    let s := { s with fabricDown := s.fabricDown ++ [port] }.rehome port
    .next (if s.livePorts = [] then s.failHere fun r => r.kind == 10 else s)

/-- An Ethernet port goes down (R46): the other carries all traffic. -/
def execEthernetPortDown (port : Nat) (s : State) : Host.Outcome State Fault Refusal :=
  .next (if port ≥ 2 || s.ethDown.contains port then s else { s with ethDown := s.ethDown ++ [port] })

/-- A read request from the network has the not-supported response; no memory is read (R45). -/
def execEthReadRequest (port tag : Nat) (s : State) : Host.Outcome State Fault Refusal :=
  .next (if port ≥ 2 || s.ethDown.contains port then s else { s with out := s.out ++ [.notSupported port tag] })

/-- The kind of the memory whose lines lie behind a CXL port. -/
def portKind (port : Nat) : Nat := if port = 0 then 9 else 8

/-- Lines behind a port held dirty, in a cache or in a write-back. -/
def State.dirtyBehind (s : State) (kind : Nat) : List Nat :=
  ((s.lines.filter fun l => locKind (64 * l.line) == kind && l.excl && l.dirty != 0).map CLine.line
    ++ (s.wbs.filter fun w => locKind (64 * w.line) == kind && w.owner && w.mask != 0).map WriteBack.line).eraseDups

/-- A CXL port loses its link (R48, R221): copies of the lines behind it are dropped, regions that held such lines dirty are flagged,
outstanding requests fail. -/
def execCxlLinkLoss (port : Nat) (s : State) : Host.Outcome State Fault Refusal :=
  if port ≥ 2 || s.cxlTraining.contains port then .next s
  else
    let kind := portKind port
    let behind (ln : Nat) : Bool := locKind (64 * ln) == kind
    let dirty := s.dirtyBehind kind
    let touch (r : Region) : Region :=
      if !behind r.base then r
      else { r with st := .i, hold := 0, owner := 0, llost := r.llost || dirty.any fun ln => r.covers r.die ln }
    let drain (w : WriteBack) : WriteBack := if behind w.line then { w with mask := 0 } else w
    let s := { s with
      cxlTraining := s.cxlTraining ++ [port]
      lines := s.lines.filter fun l => !behind l.line
      wbs := s.wbs.map drain
      regions := s.regions.map touch }
    .next (s.failHere fun r => r.kind == kind)

/-- The link core has trained the port again. -/
def execCxlRetrainDone (port : Nat) (s : State) : Host.Outcome State Fault Refusal :=
  .next { s with cxlTraining := s.cxlTraining.filter (· != port) }

/-! ## Accesses from outside -/

/-- The outcome of an access by an agent outside the device: an answer, or a page to be resolved first. -/
inductive OutEnd where
  | wait (s : State)
  | bytes (b : List Byte) (s : State)
  | fault (code : Byte) (s : State)

/-- A read or write at an address of a context. -/
def State.outAccess (s : State) (c : Ctx) (a : OutsideAccess) (base : DWord) : OutEnd :=
  match a with
  | .read ofs n =>
    match s.descRead c c.lowDie (base + BitVec.ofNat 64 ofs) n with
    | .bytes b => .bytes b s
    | .park s => .wait s
    | .fault e s => .fault e s
  | .write ofs b =>
    match s.writeVa c c.lowDie (base + BitVec.ofNat 64 ofs) b with
    | .done s => .bytes [] s
    | .park s => .wait s
    | .fault e s => .fault e s

/-- An atomic at an address of a context: the old value, and the update at its coherence point. -/
def State.outAtomic (s : State) (c : Ctx) (op : AtomOp) (ofs : Nat) (b : List Byte) : OutEnd :=
  let n := if op = .cas then b.length / 2 else b.length
  let va := c.expVa + BitVec.ofNat 64 ofs
  if va.toNat % max 1 n ≠ 0 || !(n == 4 || n == 8) then .fault misalign s
  else
    match s.translate c c.lowDie .atom va with
    | .fault e => .fault e s
    | .park _ =>
      match s.agentPark c c.lowDie .atom va n with
      | .ok s => .wait s
      | .error (e, s) => .fault e s
    | .at loc p =>
      if locKind loc = 15 || locKind loc = 10 then .fault protect s
      else if pteTyped p then .fault typefmt s
      else
        match s.atomEnd c c.lowDie loc n with
        | .fault e s => .fault e s
        | .wait => .wait (s.fetchLines loc n)
        | .go =>
          match lineStep (.atom op) false 0 n (b.take n) (b.drop n) (s.view loc n) with
          | .ok res new => .bytes res ((s.viewWrite loc (new.take n)).markDirty c va)
          | .bad e => .fault e s

/-- A peer's request into the window that a context exports (R42). -/
def execPeerRequest (r : PeerReq) (s : State) : Host.Outcome State Fault Refusal :=
  let answer (s : State) (b : List Byte) (code : Byte) : State := { s with out := s.out ++ [.answer r.pod b code] }
  match s.ctx? (256 * r.part + r.ctx) with
  | none => .next (answer s [] xlate)
  | some c =>
    if c.expLen < r.access.ofs + r.access.len then .next (answer s [] protect)
    else
      let e := match r.atom, r.access with
        | some op, .write ofs b => s.outAtomic c op ofs b
        | _, a => s.outAccess c a c.expVa
      match e with
      | .wait s => .next s
      | .bytes b s => .next (answer s b 0)
      | .fault code s => .next (answer s [] code)

/-! ## The host window (R81, R221) -/

/-- The host takes a shared copy of a line: an owner is downgraded, and HOLD bit 32 is set (R210, R221). It is a transaction that QUIET
counts (R212). -/
def State.hostShares (s : State) (home ln : Nat) : State :=
  let now (s : State) : DirStep :=
    match s.region? home ln with
    | some g => dirStep g.st g.hold g.owner false hostHolder (.load .own)
    | none => dirStep .i 0 0 false hostHolder (.load .own)
  let conflict := (now s).targets != []
  let s := s.countQuiet home ln conflict
  let s := match s.region? home ln with
    | some g => if conflict then s.splitRegion g else s
    | none => s
  let d := now s
  let (base, size) := match s.region? home ln with | some g => (g.base, g.size) | none => (ln, 0)
  let s := d.targets.foldl (fun s t => (s.heldLines t.1 base size).foldl (fun s l => s.actOn home t.1 l t.2 none) s) s
  s.setDir home ln d

/-- The lines of the device that the host reads through its window, tracked at their homes. -/
def State.hostReads (s : State) (c : Ctx) (va : DWord) (n : Nat) : State :=
  ((List.range ((va.toNat % 64 + n + 63) / 64)).map fun i => va.toNat / 64 * 64 + 64 * i).foldl (fun s a =>
    match s.translate c c.lowDie .read (BitVec.ofNat 64 a) with
    | .at loc _ => if locKind loc = 0 then s.hostShares (locDie loc) (loc / 64) else s
    | _ => s) s

def ones (n : Nat) : List Byte := List.replicate n 0xFF

/-- Bytes of a value that the manual leaves open. -/
def State.freeBytes (s : State) (n : Nat) : List Byte := (List.range n).map fun i => (Config.freeWord s.free i).extractLsb' 0 8

/-- A host's access at an offset of the window: beyond its length a read returns ones and a write is ignored. An access whose
translation fails is told to the error core; what its read returns is open. -/
def execHostWindowAccess (part : Nat) (a : OutsideAccess) (s : State) : Host.Outcome State Fault Refusal :=
  let reply (s : State) (b : List Byte) : State := match a with
    | .read _ _ => { s with out := s.out ++ [.hostRead part b] }
    | .write _ _ => s
  match s.part part with
  | none => .next s
  | some p =>
    let len := if p.hostCtx.isSome then p.hostLen else 0
    let n := min a.len (len - a.ofs)
    let rest := ones (a.len - n)
    match p.hostCtx.bind fun k => s.ctx? (256 * part + k) with
    | none => .next (reply s (ones a.len))
    | some c =>
      if n = 0 then .next (reply s rest)
      else
        let inside : OutsideAccess := match a with | .read o _ => .read o n | .write o b => .write o (b.take n)
        let va := p.hostVa + BitVec.ofNat 64 a.ofs
        match s.outAccess c inside p.hostVa with
        | .wait s => .next s
        | .bytes b s => .next (reply (match a with | .read _ _ => s.hostReads c va n | .write _ _ => s) (b ++ rest))
        | .fault e s =>
          let s1 := { s with free := s.free + 1 }.report [.page c.key va e]
          .next (reply s1 (s.freeBytes n ++ rest))

/-! ## The management port (R49) -/

/-- ENACCT and ENHOLD of a partition, and ENRATE of each of its dies (R61). -/
def State.energyRead (s : State) (part : Nat) : List DWord :=
  match s.part part with
  | none => []
  | some p =>
    [p.enacct, BitVec.ofNat 64 (p.held % 2 ^ 48)] ++ p.dies.map fun d => (s.die d).ceil ++ (s.die d).rate

/-- MEMERRSTAT of a die (R178). -/
def Die.memerr (d : Die) : DWord := BitVec.ofNat 64 (d.damaged.length * 2 ^ 48 + d.uncorr.toNat * 2 ^ 32 + d.corr.toNat)

/-- Inventory: the dies of every partition, and the fenced units. -/
def State.inventory (s : State) : List DWord :=
  s.partitions.map (fun p => BitVec.ofNat 64 ((p.dies.map fun d => 2 ^ d).foldl (· + ·) 0))
    ++ s.boot.fenced.map fun u => BitVec.ofNat 64 (u.1 * 2 ^ 32 + u.2)

def execMgmtPortRequest (q : MgmtItem) (s : State) : Host.Outcome State Fault Refusal :=
  let b := match q with
    | .inventory => s.inventory
    | .energy part => s.energyRead part
    | .health die => if die < 32 then [(s.die die).memerr] else []
  .next { s with out := s.out ++ [.health b] }

end Sys2Proof.Machine
end

