-- ==== Sys2Proof/Machine/Boot.lean ====
section
/-! DEFINITION. Start-up (R50 to R59): images, the journal, the stages of R53 and the cases of R58, the partition plan (R18, R54), and
the events that start, stop and reset the module. -/

namespace Sys2Proof.Machine

/-! ## Units (R53, R56) -/

def uPackage : Nat := 0
def uCdie : Nat := 1
def uXdie : Nat := 2
def uMemBase : Nat := 3
def uMeshLink : Nat := 4
def uFabric : Nat := 5
def uEth : Nat := 6
def uCxl : Nat := 7
def uStack : Nat := 8

/-- The outcomes of a journal entry. -/
def oDone : Byte := 0x00
def oFailed : Byte := 0x01
def oSkipped : Byte := 0x02
def oFenced : Byte := 0x03
def oStopped : Byte := 0x04
def oComplete : Byte := 0xFF

/-! ## The journal (R56, R57) -/

/-- The 60 bytes of an entry that its CHECK covers. The step-specific detail that R56 leaves open is zeros (log entry 82). -/
def JEntry.body (e : JEntry) : List Byte :=
  natLe 4 e.seq ++ natLe 2 e.start.toNat ++ [BitVec.ofNat 8 e.stage, BitVec.ofNat 8 e.kind] ++ natLe 2 e.unit
    ++ [BitVec.ofNat 8 e.path, e.outcome] ++ natLe 2 e.reason.toNat ++ List.replicate 46 0

/-- An entry as the flash holds it. -/
def JEntry.bytes (e : JEntry) : List Byte := e.torn.getD (e.body ++ natLe 4 (Config.crc32 e.body).toNat)

/-- The journal as the next entry finds it: where a sector begins, the older of the two is erased first. -/
def Boot.ring (b : Boot) : List JEntry :=
  if b.seq % 4096 = 0 then b.journal.filter fun e => decide (b.seq ≤ e.seq + 4096) else b.journal

/-- The reason of an entry; a fabric port that is refused because its pod identity is taken has one of its own (R41). -/
def Boot.reason (b : Boot) (stage kind : Nat) (o : Byte) : BitVec 16 :=
  if o = oDone then 0
  else if kind = uFabric && o == oFailed && b.podTaken then Config.takenReason
  else Config.bootReason stage kind o.toNat

/-- An entry is appended. -/
def Boot.write (b : Boot) (stage kind unit path : Nat) (o : Byte) : Boot :=
  { b with seq := b.seq + 1, journal := b.ring ++ [⟨b.seq, b.start, stage, kind, unit, path, o, b.reason stage kind o, none⟩] }

/-- Whether the previous start recorded a failure of a step on a path; a boot-stopped entry records one. -/
def Boot.failedBefore (b : Boot) (stage kind unit path : Nat) : Bool :=
  b.journal.any fun e => e.torn.isNone && e.start == b.start - 1 && e.stage == stage && e.kind == kind && e.unit == unit
    && e.path == path && (e.outcome == oFailed || e.outcome == oStopped)

/-! ## Images (R50 to R52) -/

def Boot.image (b : Boot) (stage unit copy : Nat) : Image :=
  (b.images.find? fun i => i.stage == stage && i.unit == unit && i.copy == copy).getD
    ⟨stage, unit, copy, Config.imageDigest stage unit copy, b.fuse, true⟩

/-- The checks of an image (R51): its key's digest is the one in the fuses, and its signature checks under that key. -/
def Boot.checks (b : Boot) (i : Image) : Bool := i.key == b.fuse && i.signed

/-- One attempt of a step. Stages 2 and 6 load an image, which is measured before it is run or sent; an image that does not check
is never run. A pod identity that is taken refuses the fabric ports (R41). -/
def Boot.attempt (b : Boot) (stage kind unit path : Nat) : Boot × Bool :=
  let ok := !b.broken.contains ⟨stage, kind, unit, path⟩ && !(kind == uFabric && b.podTaken)
  if stage = 2 ∨ stage = 6 then
    let i := b.image stage unit path
    if b.checks i then ({ b with measured := b.measured ++ [i.digest] }, ok) else (b, false)
  else if stage = 7 then (b, ok && b.idKey && b.measured != [])
  else (b, ok)

/-! ## The cases of R58 -/

inductive StepEnd where
  | ok | down | restart | stop
  deriving DecidableEq, Repr

/-- A mandatory step that failed at the previous start: once on each path, then the module stops. -/
def Boot.retry (b : Boot) (stage kind unit : Nat) (alt : Bool) : Boot × StepEnd :=
  match b.attempt stage kind unit 0 with
  | (b, true) => (b.write stage kind unit 0 oDone, .ok)
  | (b, false) =>
    if !alt then (b.write stage kind unit 0 oStopped, .stop)
    else
      match b.attempt stage kind unit 1 with
      | (b, true) => (b.write stage kind unit 1 oDone, .ok)
      | (b, false) => (b.write stage kind unit 1 oStopped, .stop)

/-- The path that a step runs on, none where it is skipped. -/
def Boot.pathOf (b : Boot) (stage kind unit : Nat) (alt : Bool) : Option Nat :=
  let f0 := b.failedBefore stage kind unit 0
  let f1 := b.failedBefore stage kind unit 1
  if !f0 && !f1 then some 0 else if f0 && !f1 && alt then some 1 else none

/-- One step of a unit. A skipped entry carries the last path that the step has (log entry 82). -/
def Boot.runStep (b : Boot) (stage kind unit : Nat) (must alt : Bool) : Boot × StepEnd :=
  if must && (b.failedBefore stage kind unit 0 || b.failedBefore stage kind unit 1) then b.retry stage kind unit alt
  else
    match b.pathOf stage kind unit alt with
    | none => (b.write stage kind unit (if alt then 1 else 0) oSkipped, .down)
    | some p =>
      match b.attempt stage kind unit p with
      | (b, true) => (b.write stage kind unit p oDone, .ok)
      | (b, false) => (b.write stage kind unit p oFailed, if must then .restart else .down)

/-! ## A start (R53, R54) -/

/-- A start under way: the units that stay down or fenced, and whether it goes on. -/
structure BootRun where
  b : Boot
  down : List (Nat × Nat)
  go : Bool

def BootRun.off (r : BootRun) (kind unit : Nat) : Bool := r.down.contains (kind, unit)

def BootRun.step (r : BootRun) (stage kind unit : Nat) (must alt : Bool) : BootRun :=
  if !r.go then r
  else
    match r.b.runStep stage kind unit must alt with
    | (b, .ok) => { r with b := b }
    | (b, .down) => { r with b := b, down := r.down ++ [(kind, unit)] }
    | (b, .restart) => { r with b := { b with restart := true }, go := false }
    | (b, .stop) => { r with b := { b with halted := true }, go := false }

/-- A stack or a C-die fenced because of its memory base die or its stack (R29, R53). -/
def BootRun.fence (r : BootRun) (stage kind unit : Nat) : BootRun :=
  if !r.go || r.off kind unit then r
  else { r with b := r.b.write stage kind unit 0 oFenced, down := r.down ++ [(kind, unit)] }

def BootRun.each (r : BootRun) (us : List Nat) (f : BootRun → Nat → BootRun) : BootRun := us.foldl f r

/-- The mesh links, each from its lower-numbered router. -/
def meshLinks : List (Nat × Nat) :=
  (List.range 64).flatMap fun a => (List.range 64).filterMap fun b => if decide (a < b) && isLink a b then some (a, b) else none

/-- A mesh link's unit number. -/
def linkUnit (l : Nat × Nat) : Nat := 64 * l.1 + l.2

/-- The X-die that carries a port (R16). -/
def fabricX (port : Nat) : Nat := port / 4
def ethX (port : Nat) : Nat := 1 + port
def cxlX : Nat := 3

def BootRun.stage3 (r : BootRun) : BootRun :=
  let r := r.each (List.range 32) fun r d => r.step 3 uCdie d false false
  let r := r.each [1, 2, 3] fun r x => r.step 3 uXdie x false false
  let r := r.each (List.range 16) fun r m => r.step 3 uMemBase m false false
  let r := r.each (List.range 16) fun r m => if r.off uMemBase m then r.fence 3 uStack m else r
  r.each (List.range 32) fun r d => if r.off uMemBase (d / 2) then r.fence 3 uCdie d else r

def BootRun.stage4 (r : BootRun) : BootRun :=
  let port (kind x : Nat) (r : BootRun) (n : Nat) : BootRun :=
    if r.off uXdie x then { r with down := r.down ++ [(kind, n)] } else r.step 4 kind n false true
  let r := r.each (meshLinks.map linkUnit) fun r u => r.step 4 uMeshLink u false false
  let r := r.each (List.range 16) fun r p => port uFabric (fabricX p) r p
  let r := r.each [0, 1] fun r p => port uEth (ethX p) r p
  r.each [0, 1] fun r p => port uCxl cxlX r p

def BootRun.stage5 (r : BootRun) : BootRun :=
  let r := r.each (List.range 16) fun r m => if r.off uStack m then r else r.step 5 uStack m false true
  r.each (List.range 32) fun r d => if r.off uStack (d / 2) then r.fence 5 uCdie d else r

def BootRun.stage6 (r : BootRun) : BootRun :=
  r.each (List.range 32) fun r d => if r.off uCdie d then r else r.step 6 uCdie d false true

/-- With no C-die left the start has failed (R54). -/
def BootRun.anyLeft (r : BootRun) : BootRun :=
  if !r.go || (List.range 32).any (fun d => !r.off uCdie d) then r
  else if r.b.failedBefore 3 uPackage 0 0 then
    { r with b := { r.b.write 3 uPackage 0 0 oStopped with halted := true }, go := false }
  else { r with b := { r.b.write 3 uPackage 0 0 oFailed with restart := true }, go := false }

/-- The partition plan without the fenced dies; a partition left without a die is recorded. -/
def BootRun.plan (r : BootRun) : BootRun :=
  if !r.go then r
  else
    let b := { r.b with plan := r.b.nextPlan, movedReset := [] }
    let gone := (List.range b.plan.length).filter fun n => (b.plan.getD n []).all (r.off uCdie)
    { r with b := gone.foldl (fun b n => b.write 6 uPackage n 0 oSkipped) b }

/-- The units that are fenced, as the attestation report lists them. -/
def fencedOf (down : List (Nat × Nat)) : List (Nat × Nat) :=
  down.filter fun u => u.1 == uCdie || u.1 == uXdie || u.1 == uMemBase || u.1 == uStack

def BootRun.finish (r : BootRun) : BootRun :=
  if r.go then { r with b := { r.b.write 7 uPackage 0 0 oComplete with up := true, fenced := fencedOf r.down } }
  else { r with b := { r.b with fenced := fencedOf r.down } }

/-- A whole start: the ROM, then the stages in order. -/
def Boot.begin_ (b : Boot) : BootRun :=
  let b := { b with start := b.start + 1, up := false, restart := false, dead := false, halted := false, measured := [], fenced := [] }
  if b.broken.contains ⟨1, uPackage, 0, 0⟩ then ⟨{ b with dead := true }, [], false⟩
  else
    let r : BootRun := ⟨b, [], true⟩
    let r := r.step 2 uPackage 0 true true
    let r := r.stage3.stage4.stage5.stage6.anyLeft.plan
    (r.step 7 uPackage 0 true false).finish

/-! ## The module after a start -/

def newPartition (dies : List Nat) : Partition := ⟨dies, [], [], 0, 0, [], [], 0, 0, none, 0, 0, [], none⟩

/-- The router of a socket at a start: at power-on the life is 0; a full reset is a reset of every die (R38). -/
def bootRouter (r : BootRun) (power : Bool) (old : Router) (lives : List (Nat × BitVec 16)) (links : List (Nat × Nat)) (s : Nat) : Router :=
  let fenced := r.off uCdie s || (decide (48 ≤ s) && r.off uXdie (s - 48)) || (decide (32 ≤ s) && r.off uMemBase (s - 32))
  { Router.reset s with
    life := if power then 0 else old.life + 1
    stale := if power then 0 else old.stale
    fenced := fenced, inReset := !r.b.up || fenced, known := lives, down := links, prevDown := links }

/-- A die once its firmware runs: the energy core has its ceiling and rate. -/
def bootDie (up : Bool) (d : Nat) : Die :=
  if up then { Die.reset d with ceil := Config.energyCeil d, rate := Config.energyRate d } else Die.reset d

/-- What lies outside the module, and the model's own counters, outlast a reset of it. -/
def State.outlast (s : State) : State :=
  { State.reset with
    agenda := s.agenda, free := s.free, fresh := s.fresh, mem := s.mem.filter fun x => locKind x.1 != 0
    peerWins := s.peerWins, out := s.out, timeoutK := 24 }

/-- A start of the module: what it held is lost, and the stages run. -/
def State.startUp (s : State) (power : Bool) : State :=
  let r := s.boot.begin_
  let lives := (List.range 64).map fun d => (d, if power then 0 else (s.router d).life + 1)
  let links := meshLinks.filter fun l => r.off uMeshLink (linkUnit l)
  { s.outlast with
    boot := r.b
    routers := (List.range 64).map fun k => bootRouter r power (s.router k) lives links k
    dies := (List.range 32).map fun d => bootDie (r.b.up && !r.off uCdie d) d
    linksDown := links
    fabricDown := (List.range 16).filter (r.off uFabric)
    ethDown := [0, 1].filter (r.off uEth)
    cxlTraining := [0, 1].filter (r.off uCxl)
    partitions := if r.b.up then r.b.plan.map fun p => newPartition (p.filter fun d => !r.off uCdie d) else [] }

/-- Power comes on. -/
def execPowerOn (s : State) : Host.Outcome State Fault Refusal := .next (if s.boot.up then s else s.startUp true)

/-- The whole module resets: the next start begins (R58). -/
def execModuleReset (s : State) : Host.Outcome State Fault Refusal := .next (s.startUp false)

/-- Power is lost (R57): what the flash holds stays; an entry whose write is cut short holds bytes whose CHECK does not match. -/
def execPowerLoss (midWrite : Bool) (s : State) : Host.Outcome State Fault Refusal :=
  let b := { s.boot with up := false, restart := false, dead := false, halted := false, measured := [], fenced := [] }
  let torn : List Byte := (List.range 64).map (Config.tornByte b.seq)
  let e : JEntry := ⟨b.seq, b.start, 0, 0, 0, 0, 0, 0, some torn⟩
  let b := if midWrite then { b with seq := b.seq + 1, journal := b.ring ++ [e] } else b
  .next { s.outlast with boot := b }

/-- An X-die resets: its socket's life number advances; the measurement log lives on X-die 0 (R38, R52). -/
def execXDieReset (x : Nat) (s : State) : Host.Outcome State Fault Refusal :=
  if x ≥ 4 then .next s
  else
    let s := s.modRouter (48 + x) fun r => { r with life := r.life + 1 }
    .next (if x = 0 then { s with boot := { s.boot with measured := [] } } else s)

end Sys2Proof.Machine
end

