-- ==== Sys2Proof/Machine/Reset.lean ====
section
/-! DEFINITION. The reset of one C-die while the rest of the package runs (R27, R38, R39, R55, R70, R103, R124, R185, R220, R238): what is
lost, what is reported failed, the die's start, and its broadcast. -/

namespace Sys2Proof.Machine

/-! ## Requests and packets -/

/-- Requests of other dies at the lost home fail (R7, R39). -/
def State.failAtHome (s : State) (die : Nat) : State :=
  let rs := s.reqs.filter fun r => r.home == die && r.die != die && (r.stage == .atHome || r.stage == .inTxn || r.stage == .awaitLine)
  s.failMany (rs.map MemReq.id) linkerr

/-- Whether a request of the lost die has left it. -/
def MemReq.away (r : MemReq) : Bool :=
  r.stage == .travelling || (r.home != r.die && (r.stage == .atHome || r.stage == .inTxn || r.stage == .awaitLine || r.stage == .returning))

/-- What a packet that waited at the router of the lost die leaves behind: another die's lanes whose replies it carried fail (R7), and
another die's write-back that it acknowledged is over. -/
def State.dropLoad (s : State) (load : Payload) : State :=
  match load with
  | .reply ids => ids.foldl (fun s i => s.modReq i fun r => if r.stage = .returning then { r with stage := .answered, fault := some linkerr } else r) s
  | .wbAck id => s.endWb id
  | _ => s

/-- The lost die's requests go, but for those on their way or at other homes; packets that waited at its router go with them, and their
numbers are passed over (log entry 76). -/
def State.dropReqs (s : State) (die : Nat) : State :=
  let stuck := s.packets.filter fun p => p.src == die && (p.returned || p.held)
  let ids := (stuck.flatMap fun p => match p.load with | .mem l => l | _ => [])
    ++ (s.combines.filter (·.die == die)).flatMap Combine.reqs
  let s := stuck.foldl (fun s p => ((s.giveUp p).dropPacket p.id).dropLoad p.load) s
  let gone (r : MemReq) : Bool := r.die == die && (!r.away || ids.contains r.id)
  { s with
    reqs := s.reqs.filter fun r => !gone r
    combines := s.combines.filter (·.die != die)
    txns := s.txns.filter (·.die != die) }

/-! ## Caches, directory, memory (R27) -/

/-- Whether a write-back of the lost die has left it. -/
def State.wbAway (s : State) (w : WriteBack) : Bool := w.taken || s.packets.any fun p => p.load == .wb w.id

def State.loseMemory (s : State) (die : Nat) : State :=
  let here (loc : Nat) : Bool := locKind loc == 0 && locDie loc == die
  let dead (w : WriteBack) : WriteBack := if w.home = die then { w with mask := 0, owner := false } else w
  { s with
    mem := s.mem.filter fun x => !here x.1
    l2 := s.l2.filter (·.die != die)
    lines := s.lines.filter (·.die != die)
    wbs := (s.wbs.filter fun w => w.die != die || s.wbAway w).map dead
    regions := s.regions.filter (·.die != die)
    banks := s.banks.filter (·.die != die)
    walks := s.walks.filter (·.die != die)
    tlbs := s.tlbs.filter (·.die != die)
    invals := s.invals.filter (·.die != die)
    migrs := s.migrs.filter (·.die != die)
    mailboxes := s.mailboxes.filter (·.die != die)
    ccCores := s.ccCores.filter (·.die != die) }

/-- Frames homed on the die are reported lost to their contexts' owner. -/
def State.reportFrames (s : State) (die : Nat) : State :=
  s.report (s.frames.filterMap fun x =>
    match s.ctx? x.ctx with
    | some c => if c.frameDie x.f = die then some (.frame x.ctx x.f) else none
    | none => none)

/-! ## Workgroups and copies (R70, R103, R261, R415) -/

/-- A workgroup of the die is reported failed and counted. -/
def State.failWg (s : State) (w : Workgroup) : State :=
  let w := { w with failed := true }
  let s := s.modLevel w.lvl fun l => { l with preempted := l.preempted.filter (· != w.w) }
  let s := match w.node with
    | some (lvl, _) => s.retireGroup w lvl
    | none => s.retireKernel w
  let s := { s with splits := s.splits.filter fun p => p.wg != w.id }
  (s.removeWg w).report [.item itemWorkgroup w.id]

/-- The workgroups of admitted launches that the die has still to start are failed with it. -/
def State.failUnstarted (s : State) (die : Nat) (l : Level) : State :=
  let dies := s.levelDies l
  if l.kind != .launch || !l.admitted || !dies.contains die then s
  else
    let next := l.nextOn die (dies.findIdx (· == die))
    let m := if next < l.total then cdiv (l.total - next) dies.length else 0
    if m = 0 then s
    else
      (s.modLevel l.id fun l => { l with
        counter := l.counter + m, failed := true
        nextW := (l.nextW.filter fun x => x.1 != die) ++ [(die, l.total)] }).report (List.replicate m (.item itemWorkgroup l.id))

/-- A copy that the die held, or an armed one whose counter it held, completes with status 0x05; one whose signal was on its way to
the die's counters fails. -/
def State.loseCopies (s : State) (die : Nat) : State :=
  let low (key : Nat) : Bool := (s.ctx? key).any fun c => c.lowDie == die
  let lost (x : Copy) : Bool := x.die == die || (low x.ctx && match x.stage with | .armed _ => true | _ => false)
  let cut (x : Copy) : Bool := low x.ctx && x.sig == 2 && x.status == 0 && s.signals.contains (x.ctx, x.sigidx)
  let mark (x : Copy) : Copy :=
    if x.stage = .signalled then (if cut x then { x with status := 1, fault := linkerr } else x)
    else if lost x then { x with stage := .signalled, status := 5, fault := 0, due := none }
    else x
  let ids := (s.copies.filter fun x => lost x && x.stage != .signalled).map Copy.id
  { s with copies := s.copies.map mark, signals := s.signals.filter fun x => !low x.1 }.report (ids.map fun i => .item itemCopy i)

/-! ## Records (R120, R124) -/

/-- Records that are lost with a die are failed: the graph's status is 0x02 (R124). -/
def State.failRecs (s : State) (lvl node core : Nat) (rs : List GRec) : State :=
  let s := rs.foldl (fun s r => s.endRecord lvl node core r.slot) s
  if rs = [] then s else s.modLevel lvl fun l => { l with failed := true }

/-- A steal that the die takes part in: a record on its way goes back to the victim where the thief is lost, and is lost with the
victim. -/
def State.endSteal (s : State) (die : Nat) (t : Steal) : State :=
  match s.graph? t.lvl with
  | none => { s with steals := s.steals.filter fun x => x.id != t.id }
  | some g =>
    let dies := s.graphDies g
    let victim := devDie dies t.victim == die
    if !victim && devDie dies t.thief != die then s
    else
      let s := { s with steals := s.steals.filter fun x => x.id != t.id }
      match t.stage with
      | .moved =>
        if victim then s.failRecs t.lvl t.node t.victim t.recs else s.giveBack t.lvl t.node t.victim t.recs
      | .placed =>
        let s := s.modGraph t.lvl fun g => t.recs.foldl (fun g r => g.freeSlot t.node t.victim r.slot) g
        if victim then s.failRecs t.lvl t.node t.victim t.back else s.giveBack t.lvl t.node t.victim t.back
      | _ => s

/-- The records and dependency records of the die's segments are failed, and its reserve blocks go back to the vat. The objects of those
dependency records release nothing any more. -/
def State.failSegs (s : State) (die : Nat) (g : Graph) : State :=
  let dies := s.graphDies g
  let mine (core : Nat) : Bool := dies.contains die && devDie dies core == die
  let segs := g.segs.filter fun x => mine x.core
  let ends := segs.flatMap fun x => (x.recs.map GRec.slot ++ x.deps).map fun k => (x.node, x.core, k)
  let s := ends.foldl (fun s e => s.endRecord g.lvl e.1 e.2.1 e.2.2) s
  let s := if ends = [] then s else s.modLevel g.lvl fun l => { l with failed := true }
  let s := s.modGraph g.lvl fun x => { x with
    objs := x.objs.filter fun o => !mine o.core
    deadObjs := x.deadObjs ++ (x.objs.filter fun o => mine o.core).map DepObj.loc }
  { s with counts := s.counts.filter fun m => !(m.lvl == g.lvl && mine m.core) }

/-! ## Sharded pages (R27, R185, R202) -/

/-- A partial page whose table entry is lost returns to its shard frame. -/
def State.losePartial (s : State) (p : Part) : State :=
  let s1 := match s.ctx? p.ctx with
    | none => s
    | some c =>
      match s.pageLeaf c p.page with
      | some l => if pteShare l.pte = 4 then s.changeLeaf c p.page l.loc (ptePoint l.pte 2 p.shardFrame) else s
      | none => s
  { s1 with parts := s1.parts.filter fun x => !(x.ctx == p.ctx && x.page == p.page) }

def State.loseShards (s : State) (die : Nat) : State :=
  let s := (s.parts.filter fun p => p.die == die).foldl State.losePartial s
  let s := (s.reductions.filter fun x => x.die == die && (x.st == RedState.collecting || x.st == RedState.adding)).foldl State.loseRecord s
  let s := (s.gathers.filter fun g => (s.ctx? g.ctx).any fun c => c.frameDie ((s.shardFrame c g.page).getD 0) == die).foldl
    (fun s g => s.failGather g.ctx g.page) s
  let aged (c : Ctx) : Ctx :=
    if !c.dies.contains die then c
    else { c with memberLife := c.memberLife + 1, counters := if c.lowDie = die then [] else c.counters }
  { s with ctxs := s.ctxs.map aged }

/-! ## A leading die (R70) -/

/-- A queue of a device that has lost its leading die. -/
def State.stopQueue (s : State) (part q : Nat) : State :=
  (s.dropWait part q).setQueue part q { (s.queue part q).stop 4 with en := false }

/-- A level of a device that has lost its leading die starts nothing more and writes no signal word of its own. -/
def State.orphan (s : State) (l : Level) : State :=
  let s := s.modLevel l.id fun l => { l with sig := if l.kind = .job then l.sig else none }
  match l.kind with
  | .launch => if l.admitted then s.cancelLaunch l else s.modLevel l.id fun l => { l with status := 6 }
  | .graph => (s.cancelGraph l).modLevel l.id fun l => { l with status := 6 }
  | .nodeLaunch => s
  | _ => s.modLevel l.id fun l => { l with status := 6 }

/-- Whether the deputy holds a job's record. -/
def Job.kept (j : Job) : Bool := j.deputy == .held || j.deputy == .acked || j.deputy == .releasing

/-- A job whose record the deputy holds gets status 0x06 (R70): through its level, or one of its own where it has none. -/
def State.orphanJob (s : State) (c : Ctx) (j : Job) : State :=
  let s := s.modJob j.id fun x => { x with started := true, waiting := false, deputy := .held }
  if s.levels.any fun l => l.kind == .job && l.job == j.id then s
  else (s.addLevel .job c j.dev none j.id 0 j.sig fun l => { l with admitted := true, status := 6 }).2

/-- The jobs of a device that has lost its leading die: those whose record the deputy holds wait for their workgroups, the others are
gone. -/
def State.loseJobs (s : State) (c : Ctx) (dev : Nat) : State :=
  let js := s.jobs.filter fun j => j.ctx == c.key && j.dev == dev
  let gone := (js.filter fun j => !j.kept).map Job.id
  let ls := s.levels.filter fun l => l.ctx == c.key && l.dev == dev
  let dead := (ls.filter fun l => gone.contains l.job).map Level.id
  let s := (ls.filter fun l => !gone.contains l.job).foldl State.orphan s
  let s := (js.filter fun j => !j.kept && j.inl != 0).foldl (fun s j => s.unmapPage c (j.inl.toNat / 4096)) s
  let s := (js.filter Job.kept).foldl (fun s j => s.orphanJob c j) s
  { s with
    jobs := s.jobs.filter fun j => !gone.contains j.id
    levels := s.levels.filter fun l => !dead.contains l.id
    graphs := s.graphs.filter fun g => !dead.contains g.lvl
    steals := s.steals.filter fun t => !dead.contains t.lvl
    counts := s.counts.filter fun m => !dead.contains m.lvl
    offers := s.offers.filter fun o => !dead.contains o.lvl }

/-- A deputy that resets holds no record any more (R70): a job that has not started sends its record again, and nobody writes the word of one
whose leading die has lost it before. -/
def State.loseDeputy (s : State) (die : Nat) : State :=
  let mine (j : Job) : Bool := ((s.ctx? j.ctx).bind fun c => c.deputy j.dev) == some die
  let orphans := (s.jobs.filter fun j => mine j && j.started && j.deputy == DepSt.held).map Job.id
  let s := { s with
    levels := modWhere s.levels (fun l => l.kind == LvlKind.job && orphans.contains l.job) fun l => { l with sig := none }
    jobs := modWhere s.jobs (fun j => orphans.contains j.id) fun j => { j with flags := 0 } }
  let s := { s with jobs := s.jobs.filter fun j => !(mine j && j.deputy == DepSt.releasing) }
  { s with jobs := modWhere s.jobs mine fun j => { j with deputy := .none } }

/-- A device that has lost its leading die. -/
def State.loseLead (s : State) (c : Ctx) (dev : Nat) : State :=
  let qs := (List.range 64).filter fun q => (s.queueOwner c.part q).any fun o => o.1.key == c.key && o.2 == dev
  let s := qs.foldl (fun s q => s.stopQueue c.part q) s
  let mine (x : Nat × Nat) : Bool := (s.level? x.2).any fun l => l.ctx == c.key && l.dev == dev
  let s := s.modPart c.part fun p => { p with cancels := p.cancels.filter fun x => !mine x }
  s.loseJobs c dev

/-- What a partition's leading die holds: the management queue and the energy account (R61, R79). -/
def State.losePart (s : State) (n : Nat) : State :=
  match s.part n with
  | none => s
  | some p =>
    let s := s.dropAdms fun a => p.dies.contains a.die
    let held := ((s.wgs.filter fun w => w.part == n).map Workgroup.energy).foldl (· + ·) 0
    s.modPart n fun p => { p with busy := 0, done := 0, slots := [], submitted := [], serving := none, bal := 0, held := held }

/-- Every device that the die leads. -/
def State.loseLeads (s : State) (die : Nat) : State :=
  let ds := s.ctxs.flatMap fun c => ((List.range c.devs).filter fun j => c.lead j == die).map fun j => (c, j)
  let s := ds.foldl (fun s d => s.loseLead d.1 d.2) s
  match s.partOfDie die with
  | some n => if s.leadDie n = die then s.losePart n else s
  | none => s

/-! ## The reset (R55) -/

/-- The die's own state as its reset leaves it; its clock goes on. -/
def resetDie (d : Nat) (old : Die) : Die := { Die.reset d with cycle := old.cycle, credited := old.credited, resetting := true }

/-- The die goes into reset. -/
def State.loseDie (s : State) (die : Nat) : State :=
  let s := (s.reportFrames die).failAtHome die
  let s := s.loseShards die
  let s := s.loseCopies die
  let s := s.dropAdms fun a => a.die == die
  let s := { s with offers := s.offers.filter fun o => o.die != die, fills := s.fills.filter fun x => pipeDie x.pipe != die }
  let s := s.steals.foldl (fun s t => s.endSteal die t) s
  let s := (s.wgs.filter fun w => w.die == die).foldl State.failWg s
  let s := s.levels.foldl (fun s l => s.failUnstarted die l) s
  let s := s.graphs.foldl (fun s g => s.failSegs die g) s
  let s := (s.loseLeads die).loseDeputy die
  let s := ((s.dropReqs die).loseMemory die).sweep
  let pipes := (List.range 1024).map fun p => if pipeDie p = die then Pipe.reset else s.pipe p
  let s := { s with bufs := s.bufs.filter fun b => b.core / 8 != die, pipes := pipes }
  (s.modRouter die fun r => { r with life := r.life + 1, inReset := true }).modDie die (resetDie die)

/-- The steps that the die runs for itself: bring-up, memory training unless the stack's other die runs, firmware. -/
def Boot.dieSteps (b : Boot) (die : Nat) (alone : Bool) : Boot × Bool :=
  let (b, e3) := b.runStep 3 uCdie die false false
  if e3 != .ok then (b, false)
  else
    let (b, e5) := if alone then b.runStep 5 uStack (die / 2) false true else (b, .ok)
    if e5 != .ok then (b, false)
    else
      let (b, e6) := b.runStep 6 uCdie die false true
      (b, e6 == .ok)

/-- The partition of the plan that a die is in. -/
def planOf (plan : List (List Nat)) (die : Nat) : Option Nat := plan.findIdx? fun p => p.contains die

/-- A change of the plan takes effect once every die that it moves has reset (R18). -/
def State.applyPlan (s : State) (die : Nat) : State :=
  let moved := (List.range 32).filter fun d => planOf s.boot.plan d != planOf s.boot.nextPlan d
  let seen := s.boot.movedReset ++ [die]
  if !moved.contains die then s
  else if !moved.all seen.contains then { s with boot := { s.boot with movedReset := seen } }
  else
    let plan := s.boot.nextPlan
    let off (d : Nat) : Bool := s.boot.fenced.contains (uCdie, d)
    let grown := s.partitions ++ (List.range (plan.length - s.partitions.length)).map fun _ => newPartition []
    let dies (n : Nat) (p : Partition) : List Nat :=
      (List.range 32).filter fun d => if moved.contains d then planOf plan d == some n && !off d else p.dies.contains d
    let now (n : Nat) : Partition := { grown.getD n (newPartition []) with dies := dies n (grown.getD n (newPartition [])) }
    { s with boot := { s.boot with plan := plan, movedReset := [] }, partitions := (List.range grown.length).map now }

/-- The die comes up, or is fenced. -/
def State.raiseDie (s : State) (die : Nat) : State :=
  let twin := if die % 2 = 0 then die + 1 else die - 1
  let alone := (s.router twin).inReset || (s.router twin).fenced
  match s.boot.dieSteps die alone with
  | (b, true) =>
    let s := { s with boot := b }.modRouter die fun r => { r with inReset := false }
    (s.modDie die fun d => { d with ceil := Config.energyCeil die, rate := Config.energyRate die }).applyPlan die
  | (b, false) =>
    let without (p : Partition) : Partition := { p with dies := p.dies.filter (· != die) }
    let s := { s with boot := { b with fenced := b.fenced ++ [(uCdie, die)] }, partitions := s.partitions.map without }
    s.modRouter die fun r => { r with fenced := true }

/-- A C-die resets; the same event a second time ends its reset. -/
def execDieReset (die : Nat) (s : State) : Host.Outcome State Fault Refusal :=
  let r := s.router die
  if !s.boot.up || die ≥ 32 || r.fenced then .next s
  else if r.inReset then .next (s.raiseDie die)
  else .next (s.loseDie die)

/-! ## The broadcast (R39, R220, R238) -/

/-- A home's part: the counter of phases, and every lease of the die lapses, with what its transactions still await of the die. -/
def State.hearReset (s : State) (home die : Nat) : State :=
  let s := s.modDie home fun d => { d with phcomp := d.phcomp.set die 0xFFFF#16 }
  if home = die then s else s.lapseAt home die

/-- A socket's broadcast reaches every router. -/
def execResetBroadcast (die : Nat) (s : State) : Host.Outcome State Fault Refusal :=
  if die ≥ 64 then .next s
  else
    let life := s.lifeOf die
    let s := { s with routers := s.routers.map fun r => { r with known := (r.known.filter fun k => k.1 != die) ++ [(die, life)] } }
    if die ≥ 32 || !(s.die die).resetting then .next s
    else
      let old (r : MemReq) : Bool := r.die == die && r.reqLife != life
      let s := { s with
        reqs := s.reqs.filter fun r => !old r
        txns := s.txns.filter fun t => t.from_ != die || t.reqs.any fun i => s.reqs.any fun r => r.id == i && !old r
        leases := s.leases.filter fun l => l.die != die }
      let s := (List.range 32).foldl (fun s h => s.hearReset h die) s
      .next (s.sweep.modDie die fun d => { d with resetting := false })

end Sys2Proof.Machine
end

