-- ==== Sys2Proof/Machine/Dispatch.lean ====
section
/-! DEFINITION. One arm per instruction or event: the call of its meaning. -/

namespace Sys2Proof.Machine

/-- The meaning of an instruction or event. -/
def exec (i : Instr) (s : State) : Host.Outcome State Fault Refusal :=
  match i with
  | .sadd f => Sys2Proof.Machine.execSadd f s
  | .ssub f => Sys2Proof.Machine.execSsub f s
  | .smul f => Sys2Proof.Machine.execSmul f s
  | .smulh u f => Sys2Proof.Machine.execSmulh u f s
  | .sdiv u f => Sys2Proof.Machine.execSdiv u f s
  | .srem u f => Sys2Proof.Machine.execSrem u f s
  | .sand f => Sys2Proof.Machine.execSand f s
  | .sor f => Sys2Proof.Machine.execSor f s
  | .sxor f => Sys2Proof.Machine.execSxor f s
  | .sshl f => Sys2Proof.Machine.execSshl f s
  | .sshr f => Sys2Proof.Machine.execSshr f s
  | .ssra f => Sys2Proof.Machine.execSsra f s
  | .smin u f => Sys2Proof.Machine.execSmin u f s
  | .smax u f => Sys2Proof.Machine.execSmax u f s
  | .scmp f => Sys2Proof.Machine.execScmp f s
  | .ssel f => Sys2Proof.Machine.execSsel f s
  | .smov f => Sys2Proof.Machine.execSmov f s
  | .smovh f => Sys2Proof.Machine.execSmovh f s
  | .sld f => Sys2Proof.Machine.execSld f s
  | .sst f => Sys2Proof.Machine.execSst f s
  | .br f => Sys2Proof.Machine.execBr f s
  | .brz f => Sys2Proof.Machine.execBrz f s
  | .brnz f => Sys2Proof.Machine.execBrnz f s
  | .bany f => Sys2Proof.Machine.execBany f s
  | .ball f => Sys2Proof.Machine.execBall f s
  | .bnone f => Sys2Proof.Machine.execBnone f s
  | .call f => Sys2Proof.Machine.execCall f s
  | .ret f => Sys2Proof.Machine.execRet f s
  | .jmp f => Sys2Proof.Machine.execJmp f s
  | .exit f => Sys2Proof.Machine.execExit f s
  | .yield f => Sys2Proof.Machine.execYield f s
  | .nop f => Sys2Proof.Machine.execNop f s
  | .pand f => Sys2Proof.Machine.execPand f s
  | .por f => Sys2Proof.Machine.execPor f s
  | .pxor f => Sys2Proof.Machine.execPxor f s
  | .pnot f => Sys2Proof.Machine.execPnot f s
  | .pmov f => Sys2Proof.Machine.execPmov f s
  | .pcnt f => Sys2Proof.Machine.execPcnt f s
  | .pfirst f => Sys2Proof.Machine.execPfirst f s
  | .pfroms f => Sys2Proof.Machine.execPfroms f s
  | .ptos f => Sys2Proof.Machine.execPtos f s
  | .vadd f => Sys2Proof.Machine.execVadd f s
  | .vsub f => Sys2Proof.Machine.execVsub f s
  | .vadds u f => Sys2Proof.Machine.execVadds u f s
  | .vsubs u f => Sys2Proof.Machine.execVsubs u f s
  | .vaddc f => Sys2Proof.Machine.execVaddc f s
  | .vmul f => Sys2Proof.Machine.execVmul f s
  | .vmulh u f => Sys2Proof.Machine.execVmulh u f s
  | .vmad f => Sys2Proof.Machine.execVmad f s
  | .vdiv u f => Sys2Proof.Machine.execVdiv u f s
  | .vrem u f => Sys2Proof.Machine.execVrem u f s
  | .vand f => Sys2Proof.Machine.execVand f s
  | .vor f => Sys2Proof.Machine.execVor f s
  | .vxor f => Sys2Proof.Machine.execVxor f s
  | .vnot f => Sys2Proof.Machine.execVnot f s
  | .vshl f => Sys2Proof.Machine.execVshl f s
  | .vshr f => Sys2Proof.Machine.execVshr f s
  | .vsra f => Sys2Proof.Machine.execVsra f s
  | .vmin u f => Sys2Proof.Machine.execVmin u f s
  | .vmax u f => Sys2Proof.Machine.execVmax u f s
  | .vabs f => Sys2Proof.Machine.execVabs f s
  | .vneg f => Sys2Proof.Machine.execVneg f s
  | .vcmp f => Sys2Proof.Machine.execVcmp f s
  | .vsel f => Sys2Proof.Machine.execVsel f s
  | .vmov f => Sys2Proof.Machine.execVmov f s
  | .vmovh f => Sys2Proof.Machine.execVmovh f s
  | .vlane f => Sys2Proof.Machine.execVlane f s
  | .vscan f => Sys2Proof.Machine.execVscan f s
  | .vred f => Sys2Proof.Machine.execVred f s
  | .vmatch f => Sys2Proof.Machine.execVmatch f s
  | .vbfe u f => Sys2Proof.Machine.execVbfe u f s
  | .vbfi f => Sys2Proof.Machine.execVbfi f s
  | .vpop f => Sys2Proof.Machine.execVpop f s
  | .vclz f => Sys2Proof.Machine.execVclz f s
  | .vctz f => Sys2Proof.Machine.execVctz f s
  | .vbrev f => Sys2Proof.Machine.execVbrev f s
  | .vfunnel f => Sys2Proof.Machine.execVfunnel f s
  | .vbperm f => Sys2Proof.Machine.execVbperm f s
  | .fadd t f => Sys2Proof.Machine.execFadd t f s
  | .fsub t f => Sys2Proof.Machine.execFsub t f s
  | .fmul t f => Sys2Proof.Machine.execFmul t f s
  | .ffma t f => Sys2Proof.Machine.execFfma t f s
  | .ffms t f => Sys2Proof.Machine.execFfms t f s
  | .fnma t f => Sys2Proof.Machine.execFnma t f s
  | .fnms t f => Sys2Proof.Machine.execFnms t f s
  | .fmin t f => Sys2Proof.Machine.execFmin t f s
  | .fmax t f => Sys2Proof.Machine.execFmax t f s
  | .fabs t f => Sys2Proof.Machine.execFabs t f s
  | .fneg t f => Sys2Proof.Machine.execFneg t f s
  | .fcmp f => Sys2Proof.Machine.execFcmp f s
  | .fclass f => Sys2Proof.Machine.execFclass f s
  | .fround f => Sys2Proof.Machine.execFround f s
  | .fcvt f => Sys2Proof.Machine.execFcvt f s
  | .fcvtn f => Sys2Proof.Machine.execFcvtn f s
  | .fpack f => Sys2Proof.Machine.execFpack f s
  | .fscale f => Sys2Proof.Machine.execFscale f s
  | .fdiv f => Sys2Proof.Machine.execFdiv f s
  | .fsqrt f => Sys2Proof.Machine.execFsqrt f s
  | .frcp f => Sys2Proof.Machine.execFrcp f s
  | .frsq f => Sys2Proof.Machine.execFrsq f s
  | .fexp2 f => Sys2Proof.Machine.execFexp2 f s
  | .flog2 f => Sys2Proof.Machine.execFlog2 f s
  | .fsin f => Sys2Proof.Machine.execFsin f s
  | .fcos f => Sys2Proof.Machine.execFcos f s
  | .fdot2 bf f => Sys2Proof.Machine.execFdot2 bf f s
  | .vpadd w f => Sys2Proof.Machine.execVpadd w f s
  | .vpsub w f => Sys2Proof.Machine.execVpsub w f s
  | .vpmul w f => Sys2Proof.Machine.execVpmul w f s
  | .vpfma w f => Sys2Proof.Machine.execVpfma w f s
  | .vpdiv w f => Sys2Proof.Machine.execVpdiv w f s
  | .vpsqrt w f => Sys2Proof.Machine.execVpsqrt w f s
  | .vpexp w f => Sys2Proof.Machine.execVpexp w f s
  | .vpcmp w f => Sys2Proof.Machine.execVpcmp w f s
  | .vpcvt w f => Sys2Proof.Machine.execVpcvt w f s
  | .vpround w f => Sys2Proof.Machine.execVpround w f s
  | .vpld w f => Sys2Proof.Machine.execVpld w f s
  | .vpst w f => Sys2Proof.Machine.execVpst w f s
  | .vpsetl f => Sys2Proof.Machine.execVpsetl f s
  | .vpgetl f => Sys2Proof.Machine.execVpgetl f s
  | .ld f => Sys2Proof.Machine.execLd f s
  | .st f => Sys2Proof.Machine.execSt f s
  | .ldsp f => Sys2Proof.Machine.execLdsp f s
  | .stsp f => Sys2Proof.Machine.execStsp f s
  | .tld f => Sys2Proof.Machine.execTld f s
  | .tst f => Sys2Proof.Machine.execTst f s
  | .waitac f => Sys2Proof.Machine.execWaitac f s
  | .waitmem f => Sys2Proof.Machine.execWaitmem f s
  | .fence f => Sys2Proof.Machine.execFence f s
  | .phadv f => Sys2Proof.Machine.execPhadv f s
  | .phwait f => Sys2Proof.Machine.execPhwait f s
  | .cwb f => Sys2Proof.Machine.execCwb f s
  | .cinv f => Sys2Proof.Machine.execCinv f s
  | .cinvd f => Sys2Proof.Machine.execCinvd f s
  | .cpf f => Sys2Proof.Machine.execCpf f s
  | .shflush f => Sys2Proof.Machine.execShflush f s
  | .atomAdd t f => Sys2Proof.Machine.execAtomAdd t f s
  | .atomSub t f => Sys2Proof.Machine.execAtomSub t f s
  | .atomMin t f => Sys2Proof.Machine.execAtomMin t f s
  | .atomMax t f => Sys2Proof.Machine.execAtomMax t f s
  | .atomAnd f => Sys2Proof.Machine.execAtomAnd f s
  | .atomOr f => Sys2Proof.Machine.execAtomOr f s
  | .atomXor f => Sys2Proof.Machine.execAtomXor f s
  | .atomXchg f => Sys2Proof.Machine.execAtomXchg f s
  | .atomCas f => Sys2Proof.Machine.execAtomCas f s
  | .atomInc f => Sys2Proof.Machine.execAtomInc f s
  | .atomDec f => Sys2Proof.Machine.execAtomDec f s
  | .barw f => Sys2Proof.Machine.execBarw f s
  | .barr f => Sys2Proof.Machine.execBarr f s
  | .barwt f => Sys2Proof.Machine.execBarwt f s
  | .barinit f => Sys2Proof.Machine.execBarinit f s
  | .barinval f => Sys2Proof.Machine.execBarinval f s
  | .bosig f => Sys2Proof.Machine.execBosig f s
  | .bowait f => Sys2Proof.Machine.execBowait f s
  | .cpy f => Sys2Proof.Machine.execCpy f s
  | .arm f => Sys2Proof.Machine.execArm f s
  | .tagwany f => Sys2Proof.Machine.execTagwany f s
  | .tagwall f => Sys2Proof.Machine.execTagwall f s
  | .tagfirst f => Sys2Proof.Machine.execTagfirst f s
  | .tagclr f => Sys2Proof.Machine.execTagclr f s
  | .rcnt f => Sys2Proof.Machine.execRcnt f s
  | .rcntadd f => Sys2Proof.Machine.execRcntadd f s
  | .bget f => Sys2Proof.Machine.execBget f s
  | .bgive f => Sys2Proof.Machine.execBgive f s
  | .bfree f => Sys2Proof.Machine.execBfree f s
  | .mma t f => Sys2Proof.Machine.execMma t f s
  | .mmaSp t f => Sys2Proof.Machine.execMmaSp t f s
  | .mldb f => Sys2Proof.Machine.execMldb f s
  | .mrdy f => Sys2Proof.Machine.execMrdy f s
  | .mfence f => Sys2Proof.Machine.execMfence f s
  | .mwait f => Sys2Proof.Machine.execMwait f s
  | .mwaitT f => Sys2Proof.Machine.execMwaitT f s
  | .mclr f => Sys2Proof.Machine.execMclr f s
  | .mbscale f => Sys2Proof.Machine.execMbscale f s
  | .remit f => Sys2Proof.Machine.execRemit f s
  | .tenq f => Sys2Proof.Machine.execTenq f s
  | .tdeq f => Sys2Proof.Machine.execTdeq f s
  | .depinit f => Sys2Proof.Machine.execDepinit f s
  | .depdec f => Sys2Proof.Machine.execDepdec f s
  | .chunk f => Sys2Proof.Machine.execChunk f s
  | .lvlid f => Sys2Proof.Machine.execLvlid f s
  | .lvlcancel f => Sys2Proof.Machine.execLvlcancel f s
  | .gexit f => Sys2Proof.Machine.execGexit f s
  | .trap f => Sys2Proof.Machine.execTrap f s
  | .tret f => Sys2Proof.Machine.execTret f s
  | .sreg f => Sys2Proof.Machine.execSreg f s
  | .swreg f => Sys2Proof.Machine.execSwreg f s
  | .shrink f => Sys2Proof.Machine.execShrink f s
  | .grow f => Sys2Proof.Machine.execGrow f s
  | .bkpt f => Sys2Proof.Machine.execBkpt f s
  | .halt f => Sys2Proof.Machine.execHalt f s
  | .faultrd f => Sys2Proof.Machine.execFaultrd f s
  | .pcfgrd f => Sys2Proof.Machine.execPcfgrd f s
  | .unassignedOpcode w => Sys2Proof.Machine.execUnassignedOpcode w s
  | .instructionFetchFault code => Sys2Proof.Machine.execInstructionFetchFault code s
  | .powerOn => Sys2Proof.Machine.execPowerOn s
  | .moduleReset => Sys2Proof.Machine.execModuleReset s
  | .dieReset die => Sys2Proof.Machine.execDieReset die s
  | .resetBroadcast die => Sys2Proof.Machine.execResetBroadcast die s
  | .packetArrival pkt => Sys2Proof.Machine.execPacketArrival pkt s
  | .responseArrival pkt => Sys2Proof.Machine.execResponseArrival pkt s
  | .nackResend src dst => Sys2Proof.Machine.execNackResend src dst s
  | .escapeMove pkt => Sys2Proof.Machine.execEscapeMove pkt s
  | .linkFailure a b => Sys2Proof.Machine.execLinkFailure a b s
  | .linkUp a b => Sys2Proof.Machine.execLinkUp a b s
  | .linkStateNotice router epoch => Sys2Proof.Machine.execLinkStateNotice router epoch s
  | .linkStateAck router epoch => Sys2Proof.Machine.execLinkStateAck router epoch s
  | .settledNotice router epoch => Sys2Proof.Machine.execSettledNotice router epoch s
  | .completionTimeout req => Sys2Proof.Machine.execCompletionTimeout req s
  | .fabricPortFailure port => Sys2Proof.Machine.execFabricPortFailure port s
  | .peerRequest r => Sys2Proof.Machine.execPeerRequest r s
  | .ethernetPortDown port => Sys2Proof.Machine.execEthernetPortDown port s
  | .ethReadRequest port tag => Sys2Proof.Machine.execEthReadRequest port tag s
  | .cxlLinkLoss port => Sys2Proof.Machine.execCxlLinkLoss port s
  | .cxlRetrainDone port => Sys2Proof.Machine.execCxlRetrainDone port s
  | .hostWindowAccess part a => Sys2Proof.Machine.execHostWindowAccess part a s
  | .mgmtPortRequest q => Sys2Proof.Machine.execMgmtPortRequest q s
  | .energyCredit die => Sys2Proof.Machine.execEnergyCredit die s
  | .energyAdmit part => Sys2Proof.Machine.execEnergyAdmit part s
  | .mailboxSend die core m => Sys2Proof.Machine.execMailboxSend die core m s
  | .mailboxReceive die core => Sys2Proof.Machine.execMailboxReceive die core s
  | .mailboxRemoteDeliver pkt => Sys2Proof.Machine.execMailboxRemoteDeliver pkt s
  | .jqnotifyWrite part q h v => Sys2Proof.Machine.execJqnotifyWrite part q h v s
  | .jqctlEnSet part q h v => Sys2Proof.Machine.execJqctlEnSet part q h v s
  | .jqctlEnClear part q h v => Sys2Proof.Machine.execJqctlEnClear part q h v s
  | .jqctlErrClear part q h v => Sys2Proof.Machine.execJqctlErrClear part q h v s
  | .jqConfigWrite part q base h v => Sys2Proof.Machine.execJqConfigWrite part q base h v s
  | .parserReadPacket part dev => Sys2Proof.Machine.execParserReadPacket part dev s
  | .jobNoop job => Sys2Proof.Machine.execJobNoop job s
  | .jobGraph job => Sys2Proof.Machine.execJobGraph job s
  | .jobStep job => Sys2Proof.Machine.execJobStep job s
  | .jobWait job => Sys2Proof.Machine.execJobWait job s
  | .waitPacketRecheck job => Sys2Proof.Machine.execWaitPacketRecheck job s
  | .jobCancel job => Sys2Proof.Machine.execJobCancel job s
  | .mqsubmitWrite part h v => Sys2Proof.Machine.execMqsubmitWrite part h v s
  | .mqdoneClear part h v => Sys2Proof.Machine.execMqdoneClear part h v s
  | .ctxcreate part => Sys2Proof.Machine.execCtxcreate part s
  | .ctxdestroy part => Sys2Proof.Machine.execCtxdestroy part s
  | .mgmtMap part => Sys2Proof.Machine.execMgmtMap part s
  | .mgmtUnmap part => Sys2Proof.Machine.execMgmtUnmap part s
  | .migrate part => Sys2Proof.Machine.execMigrate part s
  | .setreg part => Sys2Proof.Machine.execSetreg part s
  | .shardgrp part => Sys2Proof.Machine.execShardgrp part s
  | .mgmtPeer part => Sys2Proof.Machine.execMgmtPeer part s
  | .mgmtExport part => Sys2Proof.Machine.execMgmtExport part s
  | .hostwin part => Sys2Proof.Machine.execHostwin part s
  | .mgmtDebug part => Sys2Proof.Machine.execMgmtDebug part s
  | .attest part => Sys2Proof.Machine.execAttest part s
  | .registerWrite part ofs src h v => Sys2Proof.Machine.execRegisterWrite part ofs src h v s
  | .kernelLaunchAdmit lvl => Sys2Proof.Machine.execKernelLaunchAdmit lvl s
  | .graphAdmit lvl => Sys2Proof.Machine.execGraphAdmit lvl s
  | .stepMemberStart lvl => Sys2Proof.Machine.execStepMemberStart lvl s
  | .workgroupStart die => Sys2Proof.Machine.execWorkgroupStart die s
  | .resumption die => Sys2Proof.Machine.execResumption die s
  | .resumeCheck die => Sys2Proof.Machine.execResumeCheck die s
  | .preemptStop wg => Sys2Proof.Machine.execPreemptStop wg s
  | .preemptSave wg => Sys2Proof.Machine.execPreemptSave wg s
  | .contextSwitch ctx => Sys2Proof.Machine.execContextSwitch ctx s
  | .ptStateSaveDone ctx => Sys2Proof.Machine.execPtStateSaveDone ctx s
  | .contextReturn ctx => Sys2Proof.Machine.execContextReturn ctx s
  | .debugRelease wg => Sys2Proof.Machine.execDebugRelease wg s
  | .workgroupRetire wg => Sys2Proof.Machine.execWorkgroupRetire wg s
  | .levelEnd lvl => Sys2Proof.Machine.execLevelEnd lvl s
  | .levelCancelApply part => Sys2Proof.Machine.execLevelCancelApply part s
  | .stealRequest die core => Sys2Proof.Machine.execStealRequest die core s
  | .stealReply id => Sys2Proof.Machine.execStealReply id s
  | .stealArrive id => Sys2Proof.Machine.execStealArrive id s
  | .stealAck id => Sys2Proof.Machine.execStealAck id s
  | .stealBackoff die core => Sys2Proof.Machine.execStealBackoff die core s
  | .recordCountAck id => Sys2Proof.Machine.execRecordCountAck id s
  | .holdLapse lvl node core => Sys2Proof.Machine.execHoldLapse lvl node core s
  | .nodeGroupStart die => Sys2Proof.Machine.execNodeGroupStart die s
  | .graphDrainOrder lvl => Sys2Proof.Machine.execGraphDrainOrder lvl s
  | .translationMiss req => Sys2Proof.Machine.execTranslationMiss req s
  | .walkComplete walk => Sys2Proof.Machine.execWalkComplete walk s
  | .resolverFinish ctx page => Sys2Proof.Machine.execResolverFinish ctx page s
  | .translationInvalidate die => Sys2Proof.Machine.execTranslationInvalidate die s
  | .migrationLineFetch die frame line => Sys2Proof.Machine.execMigrationLineFetch die frame line s
  | .hbmIdlePrecharge die bank => Sys2Proof.Machine.execHbmIdlePrecharge die bank s
  | .hbmRefresh die bank => Sys2Proof.Machine.execHbmRefresh die bank s
  | .eccError e => Sys2Proof.Machine.execEccError e s
  | .orderNetworkNotice die => Sys2Proof.Machine.execOrderNetworkNotice die s
  | .homeRequest req => Sys2Proof.Machine.execHomeRequest req s
  | .invalidationReceive txn die => Sys2Proof.Machine.execInvalidationReceive txn die s
  | .recallReceive txn die => Sys2Proof.Machine.execRecallReceive txn die s
  | .grantReceive txn => Sys2Proof.Machine.execGrantReceive txn s
  | .homeAckReceive txn die => Sys2Proof.Machine.execHomeAckReceive txn die s
  | .writeBackArrival id => Sys2Proof.Machine.execWriteBackArrival id s
  | .lineEviction die core line => Sys2Proof.Machine.execLineEviction die core line s
  | .regionMerge die base => Sys2Proof.Machine.execRegionMerge die base s
  | .rdcCombineFlush die line => Sys2Proof.Machine.execRdcCombineFlush die line s
  | .leaseRenewalSend die home => Sys2Proof.Machine.execLeaseRenewalSend die home s
  | .leaseRenewalReceive home die => Sys2Proof.Machine.execLeaseRenewalReceive home die s
  | .renewalAckReceive die home => Sys2Proof.Machine.execRenewalAckReceive die home s
  | .leaseLapse home die => Sys2Proof.Machine.execLeaseLapse home die s
  | .leaseDrop die home => Sys2Proof.Machine.execLeaseDrop die home s
  | .backinvalTimeout txn => Sys2Proof.Machine.execBackinvalTimeout txn s
  | .gatherReceive m => Sys2Proof.Machine.execGatherReceive m s
  | .dataReceive m => Sys2Proof.Machine.execDataReceive m s
  | .deferredReceive m => Sys2Proof.Machine.execDeferredReceive m s
  | .lifeReceive m => Sys2Proof.Machine.execLifeReceive m s
  | .lostReceive m => Sys2Proof.Machine.execLostReceive m s
  | .openReceive m => Sys2Proof.Machine.execOpenReceive m s
  | .openokReceive m => Sys2Proof.Machine.execOpenokReceive m s
  | .busyReceive m => Sys2Proof.Machine.execBusyReceive m s
  | .busyResend ctx page member => Sys2Proof.Machine.execBusyResend ctx page member s
  | .deliverReceive m => Sys2Proof.Machine.execDeliverReceive m s
  | .delackReceive m => Sys2Proof.Machine.execDelackReceive m s
  | .closeReceive m => Sys2Proof.Machine.execCloseReceive m s
  | .doneReceive m => Sys2Proof.Machine.execDoneReceive m s
  | .renewSend ctx group => Sys2Proof.Machine.execRenewSend ctx group s
  | .renewReceive m => Sys2Proof.Machine.execRenewReceive m s
  | .memberDead ctx group member => Sys2Proof.Machine.execMemberDead ctx group member s
  | .copyEngineStart copy => Sys2Proof.Machine.execCopyEngineStart copy s
  | .copyComplete copy => Sys2Proof.Machine.execCopyComplete copy s
  | .receiveCounterSignal ctx idx => Sys2Proof.Machine.execReceiveCounterSignal ctx idx s
  | .matrixOpPerform pipe => Sys2Proof.Machine.execMatrixOpPerform pipe s
  | .tileFillComplete fill => Sys2Proof.Machine.execTileFillComplete fill s
  | .laneReply req => Sys2Proof.Machine.execLaneReply req s
  | .storeAck req => Sys2Proof.Machine.execStoreAck req s
  | .variableResultWrite wg trix k => Sys2Proof.Machine.execVariableResultWrite wg trix k s
  | .queueEngineReply wg trix k => Sys2Proof.Machine.execQueueEngineReply wg trix k s
  | .waitmemRecheck wg trix => Sys2Proof.Machine.execWaitmemRecheck wg trix s
  | .bowaitRecheck wg trix => Sys2Proof.Machine.execBowaitRecheck wg trix s
  | .powerLoss midWrite => Sys2Proof.Machine.execPowerLoss midWrite s
  | .xDieReset x => Sys2Proof.Machine.execXDieReset x s

end Sys2Proof.Machine
end

