-- ==== Sys2Proof/Machine/Units.lean ====
section
/-! DEFINITION. What units of the package do that no row of the opcode table names: rails (R11), the link core's settings (R44, R46), a
host's reads of register windows (R47, R71) and a remote client's packets (R78), and the turns of the base, the fabric, the shard engine
and the deputy. -/

namespace Sys2Proof.Machine

/-! ## Rails (R11) -/

/-- A rail goes off: a C-die loses what a reset loses, and a socket without power is as an unpopulated one (R13). -/
def State.railOff (s : State) (socket : Nat) : State :=
  let s := if socket < 32 && !(s.router socket).inReset then s.loseDie socket else s
  s.modRouter socket fun r => { r with powered := false, inReset := r.inReset || decide (socket < 32) }

/-- A rail comes back: a C-die stays in reset until the security core starts it (R55). -/
def State.railOn (s : State) (socket : Nat) : State := s.modRouter socket fun r => { r with powered := true }

/-! ## The link core (R44, R46) -/

/-- The completion timeout is 2^k cycles, k from 16 to 30. -/
def State.setTimeout (s : State) (k : Nat) : State := if 16 ≤ k ∧ k ≤ 30 then { s with timeoutK := k } else s

/-- An Ethernet port comes back up. -/
def State.ethUp (s : State) (port : Nat) : State := { s with ethDown := s.ethDown.filter (· != port) }

/-! ## Register windows and queue slots from outside (R47, R71, R78) -/

/-- The bytes that a host reads at an offset of a partition's register window; an offset that the table does not assign reads as ones. -/
def State.hostReg (s : State) (part ofs n : Nat) : State :=
  let b : Nat → Byte := fun i => ((s.part part).bind fun p => p.regRead (ofs + i) 1).elim 0xFF fun b => b.headD 0
  { s with out := s.out ++ [.hostRead part ((List.range n).map b)] }

/-- A remote client's packet written into a slot of a queue, which the link core has mapped for it: at the slot's address in the queue's
context. A write that fails goes to the error core. -/
def State.netWrite (s : State) (part q slot : Nat) (bytes : List Byte) : State :=
  match s.queueOwner part q with
  | none => s
  | some (c, dev) =>
    if s.liveEth = [] || q ≥ 64 then s
    else
      let j := s.queue part q
      let va := j.base + BitVec.ofNat 64 (128 * (slot % 2 ^ j.log2))
      match s.writeVa c (c.lead dev) va (bytes.take 128) with
      | .done s => s
      | .park s => s
      | .fault e s => s.report [.page c.key va e]

/-! ## The turn of a unit -/

def State.unitTurn (s : State) : UnitTurn → State
  | .hop pkt => (s.hop pkt).getD s
  | .rail socket on => if 64 ≤ socket then s else if on then s.railOn socket else s.railOff socket
  | .timeout k => s.setTimeout k
  | .ethUp port => s.ethUp port
  | .fabricUp port => s.fabricUp port
  | .flitError port => s.flitError port
  | .fabricSend port => s.fabricSend port
  | .copyTimeout copy => s.copyTimeout copy
  | .lateAnswer die => s.lateAnswer die
  | .hostReg part ofs n => s.hostReg part ofs n
  | .addition ctx page round => s.endAddition ctx page round
  | .evictPage ctx page => s.evictPage ctx page
  | .early ctx page => s.evictPartial ctx page
  | .release job => s.releaseJob job
  | .netWrite part q slot bytes => s.netWrite part q slot bytes

end Sys2Proof.Machine
end

