-- ==== Sys2Proof/Machine/Turn.lean ====
section
/-! DEFINITION. The turn of an agent: a pipe's next issue cycle (R96, R97), an event, the passing of time. -/

namespace Sys2Proof.Machine

/-! ## The FP/integer units (R125, R145) -/

/-- Whether an opcode runs on an FP/integer unit: vector integer, bit, floating-point, conversion and VP instructions, but not those of
the special-function unit. -/
def onFpUnit (op : Nat) : Bool :=
  decide ((0x080 ≤ op ∧ op ≤ 0x0C8 ∧ ¬(0x08B ≤ op ∧ op ≤ 0x08E)) ∨ (0x100 ≤ op ∧ op ≤ 0x169 ∧ ¬(0x160 ≤ op ∧ op ≤ 0x167))
    ∨ (0x180 ≤ op ∧ op ≤ 0x1B1))

/-- The cycles for which a VP instruction occupies its unit. -/
def vpOccupies (op : Nat) : Option Nat :=
  if (0x180 ≤ op ∧ op ≤ 0x1A3) ∨ (0x1AC ≤ op ∧ op ≤ 0x1AF) then some ([3, 9, 18, 30].getD (op % 4) 3) else none

/-- The opcode of an instruction of the usual form. -/
def opcodeOf (i : Instr) : Option Nat :=
  match fieldsOf i with
  | some (.o op _) => some op
  | _ => none

/-- Whether an instruction finds no FP/integer unit free. -/
def Pipe.unitsBusy (p : Pipe) (i : Instr) (now : Nat) : Bool :=
  (opcodeOf i).any onFpUnit && decide (now < p.fpFree.1) && decide (now < p.fpFree.2)

/-- An issued instruction occupies the unit that is free first. -/
def Pipe.occupy (p : Pipe) (i : Instr) (now bts : Nat) : Pipe :=
  match (opcodeOf i).filter onFpUnit with
  | none => p
  | some op =>
    let e := now + (vpOccupies op).getD bts
    if p.fpFree.2 < p.fpFree.1 then { p with fpFree := (p.fpFree.1, e) } else { p with fpFree := (e, p.fpFree.2) }

/-! ## A pipe -/

/-- One troupe of a pipe tries to issue its next instruction. The state's counter of free values moves when it does. -/
def tryIssue (s : State) (wg trix : Nat) : Host.Outcome State Fault Refusal :=
  match s.troupe? wg trix with
  | none => .next s
  | some t =>
    if !s.readyBare t then .next s
    else
      match s.yieldTrap t with
      | some i => .next (s.takeTrap t i t.pc)
      | none =>
        match s.fetch t with
        | .park => .next (s.parkFetch t)
        | .fault e => exec (.instructionFetchFault e) { s with cur := (wg, trix) }
        | .instr i => if (s.pipe t.pipe).unitsBusy i (s.now t) then .next s else exec i { s with cur := (wg, trix) }

/-- The pipe's units once the troupe's next instruction has issued. -/
def State.occupied (s : State) (wg trix bts : Nat) (p : Pipe) : Pipe :=
  match (s.troupe? wg trix).map fun t => (s.fetch t, s.now t) with
  | some (.instr i, now) => p.occupy i now bts
  | _ => p

/-- Whether the instruction at a troupe's program counter carries the yield hint, or is `yield` (R97). -/
def State.yields (s : State) (t : Troupe) : Bool :=
  match s.fetch t with
  | .instr (.yield _) => true
  | .instr i =>
    match fieldsOf i with
    | some (.o _ f) => f.c.yld
    | some (.m _ f) => f.c.yld
    | some (.c _ f) => f.c.yld
    | none => false
  | _ => false

/-- The ring from its pointer on. -/
def Pipe.order (p : Pipe) : List (Nat × Nat) := p.ring.drop p.ptr ++ p.ring.take p.ptr

/-- The pipe after the pick: the pointer moves to the troupe after the picked one, or stays on it when its instruction does not
yield and it did not issue at the previous issue cycle (R97). -/
def Pipe.picked (p : Pipe) (who : Nat × Nat) (yld : Bool) (now bts : Nat) : Pipe :=
  match p.ring.findIdx? (· == who) with
  | none => { p with last := some who, free := now + bts }
  | some i =>
    { p with
      ptr := if yld || p.last == some who then (i + 1) % p.ring.length else i
      last := some who
      free := now + bts }

/-- The troupes in ring order try to issue; the first that issues is the pick. With none, a cycle passes. -/
def issueFrom (s : State) (p : Nat) : List (Nat × Nat) → Host.Outcome State Fault Refusal
  | [] => .next (s.modDie (pipeDie p) fun d => { d with cycle := d.cycle + 1 })
  | (wg, trix) :: rest =>
    match tryIssue s wg trix with
    | .next s1 =>
      if s1.free == s.free then issueFrom s1 p rest
      else
        let now := (s.die (pipeDie p)).cycle
        let yld := match s.troupe? wg trix with | some t => s.yields t | none => false
        let bts := match s1.troupe? wg trix with
          | some t => if t.branched then 1 else t.freeAt - now
          | none => 1
        let s1 := s1.modWg wg fun w => { w with used := w.used + Config.energyPerBeat * bts }
        .next (s1.modPipe p fun q => (s.occupied wg trix bts q).picked (wg, trix) yld now bts)
    | o => o

/-- A pipe's next issue cycle. The pointer leaves a troupe that it stayed on and that is not ready (R97): the pick passes over
it. -/
def pipeTurn (s : State) (p : Nat) : Host.Outcome State Fault Refusal :=
  let s := s.modDie (pipeDie p) fun d => { d with cycle := max d.cycle (s.pipe p).free }
  issueFrom s p (s.pipe p).order

/-- Cycles pass on a die, and on the router of its socket; renewals that have become due go out (R217). -/
def State.tick (s : State) (die n : Nat) : State :=
  ((s.modDie die fun d => { d with cycle := d.cycle + n }).tickRouter die n).renewDue die

/-- A turn. -/
def runTurn (s : State) : Turn → Host.Outcome State Fault Refusal
  | .pipe p => pipeTurn s p
  | .event i => exec i s
  | .cycles die n => .next (s.tick die n)
  | .outside loc bytes => .next (if locKind loc = 0 then s else s.viewWrite loc bytes)
  | .unit u => .next (s.unitTurn u)

/-- The turn that a module in reset or halted can still take (R52, R53, R58). -/
def Turn.restarts : Turn → Bool
  | .event .powerOn => true
  | .event .moduleReset => true
  | .event (.powerLoss _) => true
  | _ => false

/-! ## The turn taken when the agenda is empty (log entry 10) -/

/-- What one agent does. -/
abbrev Move : Type := State → Host.Outcome State Fault Refusal

/-- What a packet does next: it is taken at its destination, or its NACK at its source; it goes as far as it can; it leaves again. -/
def State.packetMoves (p : Packet) : List Move :=
  let taken : Move := match p.load with
    | .mem _ => execPacketArrival p.id
    | .reply _ => execResponseArrival p.id
    | .wbAck _ => execResponseArrival p.id
    | .mail _ => execMailboxRemoteDeliver p.id
    | .busy _ => execMailboxRemoteDeliver p.id
    | .snoop t => execRecallReceive t p.dst
    | .ack t => execHomeAckReceive t p.src
    | .grant t => execGrantReceive t
    | .wb id => execWriteBackArrival id
    | .renew => execLeaseRenewalReceive p.dst p.src
    | .renewed _ => execRenewalAckReceive p.dst p.src
  if p.returned then [execNackResend p.src p.dst]
  else if p.held then []
  else if p.nack then [execResponseArrival p.id]
  else [taken, fun s => .next ((s.hop p.id).getD s)]

/-- Events of requests, walks, pages, copies of lines and packets. -/
def State.memEvents (s : State) : List Move :=
  (s.reqs.flatMap fun r =>
    match r.stage with
    | .untranslated false => [execTranslationMiss r.id]
    | .atHome => [execHomeRequest r.id]
    | .answered => [execLaneReply r.id, execStoreAck r.id]
    | _ => [])
  ++ (s.walks.filter Walk.running).map (fun w => execWalkComplete w.id)
  ++ ((List.range 32).filter fun d => (s.die d).notices != [] || s.reqs.any fun r => r.stage == .held && r.die == d).map execOrderNetworkNotice
  ++ (s.txns.flatMap fun t =>
    (t.targets.map fun x => if x.2 = .inval then execInvalidationReceive t.id x.1 else execRecallReceive t.id x.1)
      ++ t.acks.map (execHomeAckReceive t.id) ++ [execGrantReceive t.id, execHomeAckReceive t.id t.from_])
  ++ s.combines.map (fun c => execRdcCombineFlush c.die c.line)
  ++ s.packets.flatMap State.packetMoves
  ++ (s.wbs.filter fun w => w.home == w.die).map (fun w => execWriteBackArrival w.id)
  ++ s.invals.map (fun i => execTranslationInvalidate i.die)
  ++ s.resolving.map (fun r => execResolverFinish r.1 r.2)
  ++ s.migrs.flatMap fun m => (List.range 64).map fun k => execMigrationLineFetch m.die m.frame k

/-- Events of troupes, matrix quarters and copies. -/
def State.coreEvents (s : State) : List Move :=
  (s.troupes.flatMap fun t =>
    (t.pend.flatMap fun p => [execVariableResultWrite t.wg t.trix p.k, execQueueEngineReply t.wg t.trix p.k])
      ++ match t.wait with
        | .mem _ _ _ _ _ _ _ _ _ _ => [execWaitmemRecheck t.wg t.trix]
        | .bo _ _ _ _ _ _ _ => [execBowaitRecheck t.wg t.trix]
        | _ => [])
  ++ ((List.range 1024).filter fun p => (s.pipe p).ops != []).map execMatrixOpPerform
  ++ s.fills.map (fun f => execTileFillComplete f.id)
  ++ (s.copies.flatMap fun c => [execCopyEngineStart c.id, execCopyComplete c.id])
  ++ s.signals.map fun x => execReceiveCounterSignal x.1 x.2

/-- Events of levels, graphs and start queues. -/
def State.workEvents (s : State) : List Move :=
  s.counts.map (fun m => execRecordCountAck m.id)
  ++ (s.steals.flatMap fun t => [execStealReply t.id, execStealArrive t.id, execStealAck t.id])
  ++ (s.wgs.flatMap fun w => [execWorkgroupRetire w.id, execPreemptStop w.id, execPreemptSave w.id])
  ++ (s.levels.flatMap fun l => [execStepMemberStart l.id, execKernelLaunchAdmit l.id, execGraphAdmit l.id, execLevelEnd l.id])
  ++ ((List.range 32).flatMap fun d => [execResumption d, execNodeGroupStart d, execWorkgroupStart d])
  ++ ((List.range 32).filter fun d => (s.headSaved d).isSome).map execResumeCheck
  ++ ((s.ctxs.filter fun c => c.phase != .onCores).flatMap fun c =>
    (if c.phase = .stopping then [execContextSwitch c.key] else []) ++ [execPtStateSaveDone c.key])
  ++ (s.graphs.flatMap fun g => g.segs.map (fun x => execHoldLapse g.lvl x.node x.core) ++ [execGraphDrainOrder g.lvl])

/-- What the fabric's ports, the shard engines and the deputies do. -/
def State.unitMoves (s : State) : List Move :=
  let turns : List UnitTurn := (List.range 16).map UnitTurn.fabricSend
    ++ (s.reductions.filter fun r => r.st == RedState.adding).map (fun r => UnitTurn.addition r.ctx r.page r.round)
    ++ (s.jobs.filter fun j => j.deputy == DepSt.releasing).map fun j => UnitTurn.release j.id
  turns.map fun (u : UnitTurn) => ((fun s => .next (s.unitTurn u)) : Move)

/-- Events of the command complexes. -/
def State.hostEvents (s : State) : List Move :=
  (s.jobs.flatMap fun j =>
    [execJobNoop j.id, execJobGraph j.id, execJobStep j.id, execJobWait j.id, execWaitPacketRecheck j.id, execJobCancel j.id])
  ++ (List.range s.partitions.length).flatMap fun n =>
    [execEnergyAdmit n, execLevelCancelApply n, execCtxcreate n, execCtxdestroy n, execMgmtMap n, execMgmtUnmap n, execMigrate n, execSetreg n, execShardgrp n,
      execMgmtPeer n, execMgmtExport n, execHostwin n, execMgmtDebug n, execAttest n]
    ++ (((s.part n).map Partition.dies).getD []).flatMap fun d => [execParserReadPacket n d, execEnergyCredit d]

/-- Whether an agent moves anything. -/
def Move.acts (s : State) (f : Move) : Bool :=
  match f s with
  | .next t => t != s
  | _ => true

/-- Pipes with a troupe that may issue. -/
def State.readyPipes (s : State) : List Nat := (s.troupes.filter fun t => !t.exited && s.readyBare t).map Troupe.pipe

/-- Whether a turn of a pipe does more than let time pass. -/
def State.issues (s : State) (p : Nat) : Bool :=
  match pipeTurn s p with
  | .next t => { t with dies := s.dies, cur := s.cur } != s
  | _ => true

/-- Cycles pass on every die and every router. -/
def State.pass (s : State) (n : Nat) : State :=
  let next (d : Die) : Die := { d with cycle := d.cycle + n }
  let count (r : Router) : Router := { r with clock := r.clock + n }
  let s := { s with dies := s.dies.map next, routers := s.routers.map count }
  ((s.leases.map Lease.die).eraseDups).foldl State.renewDue s

/-- Whether a troupe waits for nothing but its next issue cycle. -/
def State.soon (s : State) : Bool := let s := s.pass 128; s.readyPipes.any s.issues

/-- The first agent that moves anything moves, and a cycle passes. -/
def eventTurn (s : State) : Option (Host.Outcome State Fault Refusal) :=
  ((s.memEvents ++ s.coreEvents ++ s.workEvents ++ s.unitMoves ++ s.hostEvents).find? (Move.acts s)).map fun f =>
    match f s with
    | .next t => .next (t.pass 1)
    | o => o

/-- A result that an instruction of unstated latency has ready is written: the default turn writes it at once (log entry 10). -/
def landTurn (s : State) : Option (Host.Outcome State Fault Refusal) :=
  (s.troupes.findSome? fun t => t.pend.findSome? fun p =>
    match p.act with
    | .done | .sregs _ => some (t.wg, t.trix, p.k)
    | _ => none).map fun x => execVariableResultWrite x.1 x.2.1 x.2.2 s

/-- The die schedulers of the levels under way start what they can before pipes issue: the default turn's order (log entry 10). -/
def startTurn (s : State) : Option (Host.Outcome State Fault Refusal) :=
  if s.levels = [] then none
  else
    let moves := (List.range s.partitions.length).flatMap fun n =>
      execEnergyAdmit n :: (((s.part n).map Partition.dies).getD []).flatMap fun d => [execNodeGroupStart d, execWorkgroupStart d]
    moves.findSome? fun f =>
      match f s with
      | .next t => if t.adms != s.adms || t.fresh != s.fresh then some (.next t) else none
      | o => some o

/-- A pipe issues, or a cycle passes while a troupe waits for its issue cycle; none where no troupe can issue. -/
def issueTurn (s : State) : Option (Host.Outcome State Fault Refusal) :=
  match s.readyPipes.find? s.issues with
  | some p => some (pipeTurn s p)
  | none => if s.soon then some (.next (s.pass 1)) else none

/-- The module is started; then pipes issue as long as they can, and all other agents move when none can and once for every 256
instructions; with nothing to do, a cycle passes. -/
def idleTurn (s : State) : Host.Outcome State Fault Refusal :=
  if s.boot.restart then execModuleReset s
  else if !s.boot.up then execPowerOn s
  else
    ((landTurn s).orElse fun _ => (startTurn s).orElse fun _ =>
      if s.free % 256 = 255 then (eventTurn s).orElse fun _ => issueTurn s else (issueTurn s).orElse fun _ => eventTurn s).getD
      (.next (s.pass 1))

end Sys2Proof.Machine
end

