-- ==== Sys2Proof/Machine/Step.lean ====
section
/-! DEFINITION. One step of the machine: the agent whose turn it is moves. -/

namespace Sys2Proof.Machine

/-- One step: the first turn of the agenda is taken, and with an empty agenda the default one. A module that is halted or kept in
reset moves only when it is restarted. -/
def step (s : State) : Host.Outcome State Fault Refusal :=
  match s.agenda with
  | t :: rest =>
    let s := { s with agenda := rest }
    if t.restarts then runTurn s t
    else if s.boot.dead then .fault .moduleInReset
    else if s.boot.halted then .fault .moduleHalted
    else runTurn s t
  | [] =>
    if s.boot.dead then .fault .moduleInReset
    else if s.boot.halted then .fault .moduleHalted
    else idleTurn s

/-! ## The instruction that the next step runs -/

/-- The pipe whose turn is next, if it is a pipe's: with an empty agenda, the first pipe that may issue. -/
def State.nextPipe (s : State) : Option Nat :=
  match s.agenda with
  | .pipe p :: _ => some p
  | _ :: _ => none
  | [] => s.readyPipes.head?

/-- The troupe that would issue first at the next turn of a pipe. -/
def State.issuer (s : State) (p : Nat) : Option Troupe :=
  (s.pipe p).order.findSome? fun x => (s.troupe? x.1 x.2).filter s.readyBare

/-- A code byte written, on a page whose leaf the troupe's die holds. -/
def State.codeLeaf (s : State) (l : Tlb) (loc : Nat) (b : Byte) : State :=
  { s with
    mem := cellsSet s.mem loc [b]
    tlbs := (s.tlbs.filter fun t => !(t.die == l.die && t.ctx == l.ctx && t.page == l.page)) ++ [l] }

/-- Code bytes written where a troupe's program counter points, byte by byte; none where a byte has no place. -/
def State.writeCode (s : State) (c : Ctx) (t : Troupe) : List Byte → Nat → Option State
  | [], _ => some s
  | b :: bs, i =>
    let va := t.pc + BitVec.ofNat 64 i
    match s.walk c va with
    | .leaf p level _ =>
      match c.leafAt .fetch p level va with
      | .at loc _ => (s.codeLeaf ⟨t.die, c.key, va.toNat / 4096, p, level⟩ loc b).writeCode c t bs (i + 1)
      | _ => none
    | _ => none

/-- The frames of die 0 that hold the placed program: the tables of levels 4 to 1, then its code page. -/
def placedFrame : Nat := 1

/-- The context of the placed program: number 0 of partition 0, on die 0, with one table of each level. -/
def placedCtx : Ctx := { newCtx 0 0 1 0 0 with ptb := rootPte placedFrame }

/-- The leaf of the code page. -/
def placedLeaf : DWord := (⟨1, 0, false, false, false, true, true, true, false⟩ : LeafSpec).pte (placedFrame + 4)

/-- Tables and code in the memory of die 0. -/
def placedMem (m : List Host.Cell) (code : List Byte) : List Host.Cell :=
  let at_ (i : Nat) : Nat := dieBase 0 + 4096 * (placedFrame + i)
  let m := (List.range 3).foldl (fun m i => cellsSet m (at_ i) (natLe 8 (tablePte (placedFrame + i + 1)).toNat)) m
  cellsSet (cellsSet m (at_ 3) (natLe 8 placedLeaf.toNat)) (at_ 4) code

/-- The kernel of the placed program: one troupe, entry at address 0. -/
def placedKernel : Kdesc := ⟨0, 32, 1, 128, 8, 8, 8, 0, 0, 0, 0⟩

/-- The module up, with a workgroup of one troupe on core 0 of die 0 whose program counter is 0, where the code stands. -/
def State.place (s : State) (code : List Byte) : State :=
  let s := { s with
    boot := { s.boot with up := true, restart := false, dead := false, halted := false }
    partitions := if s.partitions = [] then [newPartition (List.range 32)] else s.partitions
    ctxs := placedCtx :: s.ctxs.filter (fun c => c.key != 0)
    tlbs := ⟨0, 0, 0, placedLeaf, 1⟩ :: s.tlbs.filter fun t => t.ctx != 0
    mem := placedMem s.mem code }
  let s := s.modRouter 0 fun r => { r with inReset := false }
  let (id, s) := s.startWg 0 0 placedKernel ⟨0, 0, 0, none, 0, 0, 0, 0, 0, 0⟩
  let s := s.modPipe 0 fun p => { p with ring := (id, 0) :: p.ring.filter (· != (id, 0)), ptr := 0 }
  { s with agenda := .pipe 0 :: s.agenda }

/-- The state with an instruction stored where the next step fetches: at the program counter of the troupe that issues next, else
in a program of its own. Log entry 11. -/
def State.withFetchWord (s : State) (nbits w : Nat) : State :=
  let code := natLe 12 (w % 2 ^ nbits)
  let own : Option State := s.nextPipe.bind fun p => (s.issuer p).bind fun t => (s.ctxOf t).bind fun c =>
    (s.writeCode c t code 0).map fun s' => if s'.agenda = [] then { s' with agenda := [.pipe p] } else s'
  own.getD (s.place code)

end Sys2Proof.Machine
end

