-- ==== Sys2Proof/Safety.lean ====
section
/-! DEFINITION. What counts as a safe run, and the terms in which claims speak of an instruction that issues: when it may issue,
what it leaves alone, and what an observer reads of a troupe, a workgroup and the memory. -/

namespace Sys2Proof.Machine

/-! ## Safe runs -/

/-- The form of the state that every step keeps: memory lists its bytes in rising order and lists none that an unlisted address
already reads as, so that equal memories are equal lists. -/
def State.Canonical (s : State) : Prop := Memory.wf s.mem = true

/-- A step that goes on: the machine is neither kept in reset nor halted by its start-up (R53, R58), and no instruction lacks a
meaning. -/
def goesOn (o : Host.Outcome State Fault Refusal) : Prop := ∃ s, o = .next s

/-- A safe run of n steps: every step goes on and the state keeps its form. -/
def SafeRun : Nat → State → Prop
  | 0, s => s.Canonical
  | n + 1, s => s.Canonical ∧ ∃ s', step s = .next s' ∧ SafeRun n s'

/-! ## When an instruction issues -/

/-- The troupe whose instruction is executed is `t`, and the hints of the instruction let it issue (R139, R142, R303). -/
def State.mayIssue (s : State) (t : Troupe) (c : Ctl) : Prop := s.cur? = some t ∧ s.ready t c = true

/-- The troupe as its operands stand at the issue cycle: results of fixed latency that have landed by then are in their
registers. -/
def State.atIssue (s : State) (t : Troupe) : Troupe := t.tick (s.now t)

/-- Steps 3 to 5 of R302 find nothing, and the pipe has physical registers for the first writes (R137). -/
def State.operandsPass (s : State) (t : Troupe) (o : Opnds) (mod : Bool) : Prop :=
  s.check (s.atIssue t) o mod = none ∧
    ∀ c b, (s.start (s.atIssue t) c b (o.rel (s.atIssue t)) (o.fresh (s.atIssue t))).isSome = true

/-- An instruction with operands `o` and a legal modifier or attribute field `mod` issues at once. -/
def State.issuesWith (s : State) (t : Troupe) (c : Ctl) (o : Opnds) (mod : Bool) : Prop :=
  s.mayIssue t c ∧ s.operandsPass t o mod

/-- Nothing holds a memory-group instruction back (R168, R388, R466). -/
def State.memFree (s : State) (t : Troupe) : Prop := s.memHeld (s.atIssue t) = false

/-! ## What an instruction leaves alone -/

/-- The troupe `u` of the state after, which was `t` before: it is found under the same name. -/
def State.becomes (s' : State) (t t' : Troupe) : Prop := s'.troupe? t.wg t.trix = some t'

/-- Every other troupe is as it was. -/
def State.othersKept (s s' : State) (t : Troupe) : Prop :=
  ∀ wg trix, ¬(wg = t.wg ∧ trix = t.trix) → s'.troupe? wg trix = s.troupe? wg trix

/-- A pipe without the list of physical registers that released names still hold. -/
def Pipe.unheld (p : Pipe) : Pipe := { p with zombies := [] }

/-- Everything outside the troupes, the pools of physical registers and the model's two counters is as it was: memory, caches,
requests, workgroups, contexts, dies, command complex, boot. -/
def State.restKept (s s' : State) : Prop :=
  { s' with troupes := s.troupes, pipes := s.pipes, free := s.free, fresh := s.fresh } = s
    ∧ s'.pipes.map Pipe.unheld = s.pipes.map Pipe.unheld

/-- The registers of a troupe that only instructions of their own write: trap state, reports, counters, phase, precision,
records, allotment, position. The program counter, the scalar and vector registers, the predicates and the bookkeeping of issue
are left out. -/
def Troupe.specials (t : Troupe) : Troupe :=
  { t with
    pc := 0, sregs := [], preds := [], regs := [], flags := 0, hazards := [], pend := [], lastIssue := none, freeAt := 0
    branched := false, atYield := false, arrived := false, openBatch := .idle, batches := [], unready := [] }

/-- The completion flags after issue: the instruction's own flag, if it names one, is set (R142). -/
def Troupe.flagged (t : Troupe) (c : Ctl) : BitVec 12 :=
  match c.flag with | some f => t.flags ||| (1#12 <<< f) | none => t.flags

/-- The troupe after the issue of an instruction that goes on to the next one: its flag is set, the program counter has moved past
its twelve bytes, the issue cycle is recorded, and the special registers are as they were. -/
def State.issuedTo (s : State) (t t' : Troupe) (c : Ctl) : Prop :=
  t'.pc = t.pc + 12 ∧ t'.flags = t.flagged c ∧ t'.lastIssue = some (s.now t) ∧ t'.specials = t.specials

/-- No earlier unordered result still on its way to a register lands at cycle `e` or after it (R144). -/
def Troupe.landsLast (t : Troupe) (r : RegId) (e l : Nat) : Prop := t.lands (fun n => decide (e ≤ n)) r l = false

/-- What an instruction that goes on to the next one leaves of the state: `t'` is `t` issued, the state outside the troupe is
kept. -/
structure State.issueKeeps (s : State) (t : Troupe) (c : Ctl) (u : State) (t' : Troupe) : Prop where
  rest : s.restKept u
  others : s.othersKept u t
  now : u.becomes t t'
  issued : s.issuedTo t t' c

/-- The registers of a troupe are as they were: scalar registers, predicates, vector names. -/
structure Troupe.regsKept (t t' : Troupe) : Prop where
  sregs : t'.sregs = t.sregs
  preds : t'.preds = t.preds
  regs : t'.regs = t.regs

/-- The vector names of `rel` are released (R133), the others are as they were. -/
def Troupe.released (t t' : Troupe) (rel : List Nat) : Prop := t'.regs = t.regs.filter fun r => !rel.contains r.name

/-- Scalar registers written by results that land at cycle `e`; the others are as they were. A result that an earlier unordered
write follows is lost (R144). -/
structure Troupe.scalarsSet (t t' : Troupe) (e : Nat) (ws : List (Nat × Word)) : Prop where
  preds : t'.preds = t.preds
  others : ∀ n, (∀ w ∈ ws, w.1 ≠ n) → t'.sregs[n]? = t.sregs[n]?
  value : ∀ w ∈ ws, t.landsLast (.s w.1) e 0 → t'.sregs[w.1]? = t.sregs[w.1]?.map fun _ => w.2
  late : ∀ w ∈ ws, t.after (.s w.1) e 0 = true → t'.sregs[w.1]? = t.sregs[w.1]?

/-- A predicate written in the lanes of `m` by a result that lands at cycle `e`; p7 is never written (R129). -/
structure Troupe.predSet (t t' : Troupe) (e n : Nat) (m v : Mask) : Prop where
  sregs : t'.sregs = t.sregs
  others : ∀ k, k ≠ n → t'.preds[k]? = t.preds[k]?
  seven : 7 ≤ n → t'.preds = t.preds
  value : n < 7 → ∀ x, t.preds[n]? = some x → ∃ y, t'.preds[n]? = some y ∧ ∀ l, l < 96 →
    (m.getLsbD l = false → y.getLsbD l = x.getLsbD l)
      ∧ (m.getLsbD l = true → t.landsLast (.p n) e l → y.getLsbD l = v.getLsbD l)

/-- Vector names after an instruction that releases `rel` and writes the names of `ws` in the lanes of `m`, with results that land
at cycle `e`: released names are unmapped, written names are mapped and read 0 in the lanes that nothing has written (R133, R136),
v255 stays as it is (R129), all other names are as they were. -/
structure Troupe.lanesSet (t t' : Troupe) (rel : List Nat) (e : Nat) (m : Mask) (ws : List (Nat × Lanes)) : Prop where
  sregs : t'.sregs = t.sregs
  preds : t'.preds = t.preds
  others : ∀ n, n ∉ rel → (∀ w ∈ ws, w.1 ≠ n) → t'.vreg? n = t.vreg? n
  released : ∀ n, n ∈ rel → (∀ w ∈ ws, w.1 ≠ n) → t'.vreg? n = none
  zero : t.vreg? 255 = none → t'.vreg? 255 = none
  value : ∀ w ∈ ws, w.1 ≠ 255 → t'.mapped w.1 = true ∧ ∀ l, l < 96 →
    (m.getLsbD l = false → lane (t'.vval w.1) l = if w.1 ∈ rel then 0 else lane (t.vval w.1) l)
      ∧ (m.getLsbD l = true → (w.1 ∈ rel ∨ t.landsLast (.v w.1) e l) → lane (t'.vval w.1) l = lane w.2 l)

/-- Results that a later event writes: the instruction is among those under way, and what it will write counts as not written
(R142, R144). -/
structure Troupe.underWay (t t' : Troupe) (c : Ctl) (act : PendAct) (rs : List RegId) : Prop where
  pend : ∃ k, t'.pend = t.pend ++ [⟨k, c.flag, act, false⟩]
  unwritten : ∀ r ∈ rs, t'.hazardous r = true

end Sys2Proof.Machine
end

