-- ==== Sys2Proof/Certificates/Slice0/Obligations.lean ====
section
/-! DEFINITION. The statements for the provers, and the tables of instructions that they quantify over. -/

namespace Sys2Proof.Claims

open Sys2Proof Sys2Proof.Machine

/-! ## Operands as an instruction reads them -/

/-- The operands of a format-O or format-X instruction with a given shape. -/
def ops (f : OForm) (sh : Shape) : Opnds := ⟨f.d, f.a, f.b, sh⟩

/-- Register j of D, A and B in lane l, as they stand at issue. -/
def rD (s : State) (t : Troupe) (f : OForm) (j l : Nat) : Word := lane (s.rdLanes (s.atIssue t) 0 f.d j) l
def rA (s : State) (t : Troupe) (f : OForm) (j l : Nat) : Word := lane (s.rdLanes (s.atIssue t) 1 f.a j) l
def rB (s : State) (t : Troupe) (f : OForm) (j l : Nat) : Word := lane (s.rdLanes (s.atIssue t) 2 f.b j) l

/-- Register j of a scalar or immediate D, A and B. -/
def sD (s : State) (t : Troupe) (f : OForm) (j : Nat) : Word := s.rdWord (s.atIssue t) 0 f.d j
def sA (s : State) (t : Troupe) (f : OForm) (j : Nat) : Word := s.rdWord (s.atIssue t) 1 f.a j
def sB (s : State) (t : Troupe) (f : OForm) (j : Nat) : Word := s.rdWord (s.atIssue t) 2 f.b j

/-- The predicates that A and B name. -/
def pA (s : State) (t : Troupe) (f : OForm) : Mask := s.rdP (s.atIssue t) 1 (numOf f.a)
def pB (s : State) (t : Troupe) (f : OForm) : Mask := s.rdP (s.atIssue t) 2 (numOf f.b)

/-- Whether the guard lets an instruction that ignores the activity mask take effect (R127), and the effective lanes of one that
does not (R126). -/
def takes (s : State) (t : Troupe) (c : Ctl) : Bool := s.takesOf (s.atIssue t) c
def eff (s : State) (t : Troupe) (c : Ctl) : Mask := s.effOf (s.atIssue t) c

/-- The names that an instruction releases by its last-read bits. -/
def rel (s : State) (t : Troupe) (o : Opnds) : List Nat := o.rel (s.atIssue t)

/-- The instruction goes on to the next one, releases the names that it reads last, and writes scalar registers after `lat` cycles,
if its guard lets it. -/
def SetsScalars (i : Instr) (s : State) (t : Troupe) (c : Ctl) (o : Opnds) (lat : Nat) (ws : List (Nat × Word)) : Prop :=
  ∃ u t', exec i s = .next u ∧ s.issueKeeps t c u t' ∧ t.released t' (rel s t o)
    ∧ (takes s t c = false → t'.sregs = t.sregs ∧ t'.preds = t.preds)
    ∧ (takes s t c = true → t.scalarsSet t' (s.now t + lat) ws)

/-- The same for a predicate, on all 96 bits. -/
def SetsPred (i : Instr) (s : State) (t : Troupe) (c : Ctl) (o : Opnds) (n : Nat) (v : Mask) : Prop :=
  ∃ u t', exec i s = .next u ∧ s.issueKeeps t c u t' ∧ t.released t' (rel s t o)
    ∧ (takes s t c = false → t'.sregs = t.sregs ∧ t'.preds = t.preds)
    ∧ (takes s t c = true → t.predSet t' (s.now t + 2) n allLanes v)

/-- The instruction goes on to the next one, releases the names that it reads last, and writes vector names after `lat` cycles in
its effective lanes. -/
def SetsLanes (i : Instr) (s : State) (t : Troupe) (c : Ctl) (o : Opnds) (lat : Nat) (ws : List (Nat × Lanes)) : Prop :=
  ∃ u t', exec i s = .next u ∧ s.issueKeeps t c u t' ∧ t.lanesSet t' (rel s t o) (s.now t + lat) (eff s t c) ws

/-- The same with results that `VARIABLE_RESULT_WRITE` writes: the names are mapped and count as unwritten. -/
def LanesLater (i : Instr) (s : State) (t : Troupe) (c : Ctl) (o : Opnds) (ws : List (Nat × Lanes)) : Prop :=
  ∃ u t', exec i s = .next u ∧ s.issueKeeps t c u t' ∧ t.lanesSet t' (rel s t o) (s.now t + 1) 0 ws
    ∧ t.underWay t' c (.vregs (ws.map fun w => (w.1, t'.token w.1)) (eff s t c) (ws.map Prod.snd))
        (((ws.map Prod.fst).filter (· != 255)).map RegId.v)

/-! ## Scalar instructions -/

/-- sD := op(value(A), value(B)) (R337). -/
inductive ScalarBin : Instr → OForm → (Word → Word → Word) → Prop
  | sadd (f) : ScalarBin (.sadd f) f fun a b => BitVec.ofNat 32 (a.toNat + b.toNat)
  | ssub (f) : ScalarBin (.ssub f) f fun a b => BitVec.ofInt 32 (a.toNat - b.toNat)
  | smul (f) : ScalarBin (.smul f) f fun a b => BitVec.ofNat 32 (a.toNat * b.toNat)
  | smulhI (f) : ScalarBin (.smulh false f) f fun a b => (BitVec.ofInt 64 (a.toInt * b.toInt)).extractLsb' 32 32
  | smulhU (f) : ScalarBin (.smulh true f) f fun a b => (BitVec.ofNat 64 (a.toNat * b.toNat)).extractLsb' 32 32
  | sand (f) : ScalarBin (.sand f) f fun a b => a &&& b
  | sor (f) : ScalarBin (.sor f) f fun a b => a ||| b
  | sxor (f) : ScalarBin (.sxor f) f fun a b => a ^^^ b
  | sshl (f) : ScalarBin (.sshl f) f fun a b => BitVec.ofNat 32 (a.toNat * 2 ^ b.toNat)
  | sshr (f) : ScalarBin (.sshr f) f fun a b => BitVec.ofNat 32 (a.toNat / 2 ^ b.toNat)
  | ssra (f) : ScalarBin (.ssra f) f fun a b => BitVec.ofInt 32 (a.toInt / 2 ^ b.toNat)
  | sminI (f) : ScalarBin (.smin false f) f fun a b => BitVec.ofInt 32 (min a.toInt b.toInt)
  | sminU (f) : ScalarBin (.smin true f) f fun a b => BitVec.ofNat 32 (min a.toNat b.toNat)
  | smaxI (f) : ScalarBin (.smax false f) f fun a b => BitVec.ofInt 32 (max a.toInt b.toInt)
  | smaxU (f) : ScalarBin (.smax true f) f fun a b => BitVec.ofNat 32 (max a.toNat b.toNat)

/-- Moves, selection and the count of a predicate's bits (R339, R347): the operand forms, and what sD becomes. -/
inductive ScalarMove : Instr → OForm → Shape → (State → Troupe → Word) → Prop
  | smov (f) : ScalarMove (.smov f) f ⟨[.sw 1 63], [.sr 1 63, .imm], [.unused]⟩ fun s t => sA s t f 0
  | smovh (f) : ScalarMove (.smovh f) f ⟨[.sd 1 63], [.sr 1 63, .imm], [.unused]⟩ fun s t =>
      BitVec.ofNat 32 ((sA s t f 0).toNat % 2 ^ 16 * 2 ^ 16 + (sD s t f 0).toNat % 2 ^ 16)
  | ssel (f) : ScalarMove (.ssel f) f ⟨[.sd 1 63], [.sr 1 63, .imm], [.sr 1 63, .imm]⟩ fun s t =>
      if sD s t f 0 = 0 then sB s t f 0 else sA s t f 0
  | pcnt (f) : ScalarMove (.pcnt f) f ⟨[.sw 1 63], [.sp 0 7], [.unused]⟩ fun s t =>
      BitVec.ofNat 32 (((List.range 96).filter fun l => (pA s t f).getLsbD l).length)

/-- The six conditions of R340 on values of a type with an order. -/
def holds {α : Type} [DecidableEq α] (lt : α → α → Bool) (code : Nat) (x y : α) : Bool :=
  match code with
  | 0 => decide (x = y)
  | 1 => !decide (x = y)
  | 2 => lt x y
  | 3 => lt x y || decide (x = y)
  | 4 => lt y x
  | _ => lt y x || decide (x = y)

/-- The compare that a modifier of R340 states, as unsigned or as signed values. -/
def compares (m : BitVec 18) (x y : Word) : Bool :=
  if m.getLsbD 4 then holds (fun a b => decide (a < b)) (m.toNat % 8) x.toNat y.toNat
  else holds (fun a b => decide (a < b)) (m.toNat % 8) x.toInt y.toInt

/-- A modifier of R340 that does not trap, and its immediate comparand. -/
def cmpLegal (m : BitVec 18) : Prop :=
  m.toNat % 8 ≤ 5 ∧ m.getLsbD 3 = false ∧ (m.getLsbD 5 = false → m.toNat / 2 ^ 6 = 0)
def cmpImmediate (m : BitVec 18) : Word := BitVec.ofInt 32 ((m.toNat / 2 ^ 6 : Int) - if m.getLsbD 17 then 4096 else 0)

/-- Divisions of R338: truncated, with a divisor of 0 and the one overflow stated. -/
inductive ScalarDivision : Instr → OForm → (Word → Word → Word) → Prop
  | sdivI (f) : ScalarDivision (.sdiv false f) f fun a b => if b = 0 then 0xFFFFFFFF#32 else BitVec.ofInt 32 (a.toInt.tdiv b.toInt)
  | sdivU (f) : ScalarDivision (.sdiv true f) f fun a b => if b = 0 then 0xFFFFFFFF#32 else BitVec.ofNat 32 (a.toNat / b.toNat)
  | sremI (f) : ScalarDivision (.srem false f) f fun a b => if b = 0 then a else BitVec.ofInt 32 (a.toInt - b.toInt * a.toInt.tdiv b.toInt)
  | sremU (f) : ScalarDivision (.srem true f) f fun a b => if b = 0 then a else BitVec.ofNat 32 (a.toNat - b.toNat * (a.toNat / b.toNat))

/-- The branches of R343: what D names, and when a branch whose guard has a bit set is taken. -/
inductive Branch : Instr → CForm → List Acc → (State → Troupe → Prop) → Prop
  | br (f) : Branch (.br f) f [.unused] fun _ _ => True
  | brz (f) : Branch (.brz f) f [.sr 1 63] fun s t => s.rdWord (s.atIssue t) 0 f.d 0 = 0
  | brnz (f) : Branch (.brnz f) f [.sr 1 63] fun s t => s.rdWord (s.atIssue t) 0 f.d 0 ≠ 0
  | bany (f) : Branch (.bany f) f [.sp 0 7] fun s t => ∃ l, l < 96 ∧ (s.rdP (s.atIssue t) 0 (numOf f.d)).getLsbD l ∧ t.am.getLsbD l
  | ball (f) : Branch (.ball f) f [.sp 0 7] fun s t => ∀ l, l < 96 → t.am.getLsbD l → (s.rdP (s.atIssue t) 0 (numOf f.d)).getLsbD l
  | bnone (f) : Branch (.bnone f) f [.sp 0 7] fun s t => ∀ l, l < 96 → t.am.getLsbD l → (s.rdP (s.atIssue t) 0 (numOf f.d)).getLsbD l = false

/-- The troupe after a transfer to an address: its bits [1:0] are cleared (R287), the rest of `issuedTo` as usual. -/
def transfers (s : State) (t : Troupe) (c : Ctl) (u : State) (pc : DWord) (t' : Troupe) : Prop :=
  s.restKept u ∧ s.othersKept u t ∧ u.becomes t t' ∧ t'.pc = BitVec.ofNat 64 (pc.toNat / 4 * 4) ∧ t'.flags = t.flagged c
    ∧ t'.specials = t.specials

/-- Predicate instructions of one predicate result (R347). -/
inductive PredOp : Instr → OForm → Shape → (State → Troupe → Mask) → Prop
  | pand (f) : PredOp (.pand f) f ⟨[.sp 0 7], [.sp 0 7], [.sp 0 7]⟩ fun s t => pA s t f &&& pB s t f
  | por (f) : PredOp (.por f) f ⟨[.sp 0 7], [.sp 0 7], [.sp 0 7]⟩ fun s t => pA s t f ||| pB s t f
  | pxor (f) : PredOp (.pxor f) f ⟨[.sp 0 7], [.sp 0 7], [.sp 0 7]⟩ fun s t => pA s t f ^^^ pB s t f
  | pnot (f) : PredOp (.pnot f) f ⟨[.sp 0 7], [.sp 0 7], [.unused]⟩ fun s t => ~~~(pA s t f)
  | pmov (f) : PredOp (.pmov f) f ⟨[.sp 0 7], [.sp 0 7], [.unused]⟩ fun s t => pA s t f
  | pfirst (f) : PredOp (.pfirst f) f ⟨[.sp 0 7], [.sp 0 7], [.unused]⟩ fun s t => pA s t f &&& -(pA s t f)
  | pfroms (f) : PredOp (.pfroms f) f ⟨[.sp 0 7], [.sr 3 63], [.unused]⟩ fun s t =>
      BitVec.ofNat 96 ((sA s t f 0).toNat + 2 ^ 32 * (sA s t f 1).toNat + 2 ^ 64 * (sA s t f 2).toNat)

/-! ## Vector instructions -/

/-- The destination and the operand kinds of R348. -/
def shTwo : Shape := ⟨[.vw 1 false], [.vr 1 false, .sr 1 63, .imm], [.vr 1 false, .sr 1 63, .imm]⟩
def shThree : Shape := ⟨[.vd 1 false], [.vr 1 false, .sr 1 63, .imm], [.vr 1 false, .sr 1 63, .imm]⟩
def shOne : Shape := ⟨[.vw 1 false], [.vr 1 false, .sr 1 63, .imm], [.unused]⟩

/-- Position and length of the field of R357. -/
def fieldAt (b : Word) : Nat := b.toNat % 32
def fieldLen (b : Word) : Nat := min (b.toNat / 256 % 64) (32 - fieldAt b)

/-- vD := op(a, b) in each lane (R350, R357). -/
inductive VectorBin : Instr → OForm → (Word → Word → Word) → Prop
  | vadd (f) : VectorBin (.vadd f) f fun a b => BitVec.ofNat 32 (a.toNat + b.toNat)
  | vsub (f) : VectorBin (.vsub f) f fun a b => BitVec.ofInt 32 (a.toNat - b.toNat)
  | vaddsI (f) : VectorBin (.vadds false f) f fun a b => BitVec.ofInt 32 (max (-2147483648) (min 2147483647 (a.toInt + b.toInt)))
  | vaddsU (f) : VectorBin (.vadds true f) f fun a b => BitVec.ofNat 32 (min (a.toNat + b.toNat) 4294967295)
  | vsubsI (f) : VectorBin (.vsubs false f) f fun a b => BitVec.ofInt 32 (max (-2147483648) (min 2147483647 (a.toInt - b.toInt)))
  | vsubsU (f) : VectorBin (.vsubs true f) f fun a b => BitVec.ofInt 32 (max ((a.toNat : Int) - b.toNat) 0)
  | vmul (f) : VectorBin (.vmul f) f fun a b => BitVec.ofNat 32 (a.toNat * b.toNat)
  | vmulhI (f) : VectorBin (.vmulh false f) f fun a b => (BitVec.ofInt 64 (a.toInt * b.toInt)).extractLsb' 32 32
  | vmulhU (f) : VectorBin (.vmulh true f) f fun a b => (BitVec.ofNat 64 (a.toNat * b.toNat)).extractLsb' 32 32
  | vand (f) : VectorBin (.vand f) f fun a b => a &&& b
  | vor (f) : VectorBin (.vor f) f fun a b => a ||| b
  | vxor (f) : VectorBin (.vxor f) f fun a b => a ^^^ b
  | vshl (f) : VectorBin (.vshl f) f fun a b => BitVec.ofNat 32 (a.toNat * 2 ^ b.toNat)
  | vshr (f) : VectorBin (.vshr f) f fun a b => BitVec.ofNat 32 (a.toNat / 2 ^ b.toNat)
  | vsra (f) : VectorBin (.vsra f) f fun a b => BitVec.ofInt 32 (a.toInt / 2 ^ b.toNat)
  | vminI (f) : VectorBin (.vmin false f) f fun a b => BitVec.ofInt 32 (min a.toInt b.toInt)
  | vminU (f) : VectorBin (.vmin true f) f fun a b => BitVec.ofNat 32 (min a.toNat b.toNat)
  | vmaxI (f) : VectorBin (.vmax false f) f fun a b => BitVec.ofInt 32 (max a.toInt b.toInt)
  | vmaxU (f) : VectorBin (.vmax true f) f fun a b => BitVec.ofNat 32 (max a.toNat b.toNat)
  | vbfeU (f) : VectorBin (.vbfe true f) f fun a b => BitVec.ofNat 32 (a.toNat / 2 ^ fieldAt b % 2 ^ fieldLen b)
  | vbfeI (f) : VectorBin (.vbfe false f) f fun a b =>
      (BitVec.ofNat (fieldLen b) (a.toNat / 2 ^ fieldAt b)).signExtend 32

/-- Vector instructions that read D, or that have one source (R350, R357, R358). -/
inductive VectorOther : Instr → OForm → Shape → (State → Troupe → Nat → Word) → Prop
  | vmad (f) : VectorOther (.vmad f) f shThree fun s t l =>
      BitVec.ofNat 32 ((rD s t f 0 l).toNat + (rA s t f 0 l).toNat * (rB s t f 0 l).toNat)
  | vsel (f) : VectorOther (.vsel f) f shThree fun s t l => if rD s t f 0 l = 0 then rB s t f 0 l else rA s t f 0 l
  | vbfi (f) : VectorOther (.vbfi f) f shThree fun s t l =>
      let b := rB s t f 0 l
      let m : Word := BitVec.ofNat 32 ((2 ^ fieldLen b - 1) * 2 ^ fieldAt b)
      (rD s t f 0 l &&& ~~~m) ||| (BitVec.ofNat 32 ((rA s t f 0 l).toNat * 2 ^ fieldAt b) &&& m)
  | vmovh (f) : VectorOther (.vmovh f) f ⟨[.vd 1 false], [.vr 1 false, .sr 1 63, .imm], [.unused]⟩ fun s t l =>
      BitVec.ofNat 32 ((rA s t f 0 l).toNat % 2 ^ 16 * 2 ^ 16 + (rD s t f 0 l).toNat % 2 ^ 16)
  | vnot (f) : VectorOther (.vnot f) f shOne fun s t l => ~~~(rA s t f 0 l)
  | vabs (f) : VectorOther (.vabs f) f shOne fun s t l => BitVec.ofNat 32 (rA s t f 0 l).toInt.natAbs
  | vneg (f) : VectorOther (.vneg f) f shOne fun s t l => BitVec.ofInt 32 (-(rA s t f 0 l).toNat)
  | vmov (f) : VectorOther (.vmov f) f shOne fun s t l => rA s t f 0 l
  | vpop (f) : VectorOther (.vpop f) f shOne fun s t l =>
      BitVec.ofNat 32 (((List.range 32).map fun k => ((rA s t f 0 l).getLsbD k).toNat).sum)
  | vclz (f) : VectorOther (.vclz f) f shOne fun s t l =>
      BitVec.ofNat 32 (if rA s t f 0 l = 0 then 32 else 31 - Nat.log2 (rA s t f 0 l).toNat)
  | vctz (f) : VectorOther (.vctz f) f shOne fun s t l =>
      BitVec.ofNat 32 (((List.range 32).takeWhile fun k => !(rA s t f 0 l).getLsbD k).length)
  | vbrev (f) : VectorOther (.vbrev f) f shOne fun s t l =>
      BitVec.ofNat 32 (((List.range 32).map fun k => 2 ^ (31 - k) * ((rA s t f 0 l).getLsbD k).toNat).sum)
  | vlane (f) : VectorOther (.vlane f) f ⟨[.vw 1 false], [.sr 1 63, .imm], [.unused]⟩ fun s t l =>
      BitVec.ofNat 32 (l + (sA s t f 0).toNat)

/-- Divisions in each lane (R352). -/
inductive VectorDivision : Instr → OForm → (Word → Word → Word) → Prop
  | vdivI (f) : VectorDivision (.vdiv false f) f fun a b => if b = 0 then 0xFFFFFFFF#32 else BitVec.ofInt 32 (a.toInt.tdiv b.toInt)
  | vdivU (f) : VectorDivision (.vdiv true f) f fun a b => if b = 0 then 0xFFFFFFFF#32 else BitVec.ofNat 32 (a.toNat / b.toNat)
  | vremI (f) : VectorDivision (.vrem false f) f fun a b => if b = 0 then a else BitVec.ofInt 32 (a.toInt - b.toInt * a.toInt.tdiv b.toInt)
  | vremU (f) : VectorDivision (.vrem true f) f fun a b => if b = 0 then a else BitVec.ofNat 32 (a.toNat - b.toNat * (a.toNat / b.toNat))

/-- The six operations of R354 and their identity elements. -/
def combine (m : BitVec 18) (x y : Word) : Word :=
  match m.toNat % 8 with
  | 0 => x + y
  | 1 => if m.getLsbD 3 then BitVec.ofNat 32 (min x.toNat y.toNat) else BitVec.ofInt 32 (min x.toInt y.toInt)
  | 2 => if m.getLsbD 3 then BitVec.ofNat 32 (max x.toNat y.toNat) else BitVec.ofInt 32 (max x.toInt y.toInt)
  | 3 => x &&& y
  | 4 => x ||| y
  | _ => x ^^^ y
def identity (m : BitVec 18) : Word :=
  match m.toNat % 8, m.getLsbD 3 with
  | 1, false => 0x7FFFFFFF#32
  | 1, true => 0xFFFFFFFF#32
  | 2, false => 0x80000000#32
  | 3, _ => 0xFFFFFFFF#32
  | _, _ => 0
/-- A modifier of R354 that does not trap. -/
def scanLegal (m : BitVec 18) (red : Bool) : Prop :=
  m.toNat < 2 ^ 5 ∧ m.toNat % 8 ≤ 5 ∧ (m.getLsbD 3 = true → m.toNat % 8 = 1 ∨ m.toNat % 8 = 2) ∧ (red = true → m.getLsbD 4 = false)
/-- The values of the effective lanes below a bound, combined in ascending order (R355). -/
def combined (m : BitVec 18) (e : Mask) (v : Nat → Word) (n : Nat) : Word :=
  (((List.range n).filter fun l => e.getLsbD l).map v).foldl (combine m) (identity m)

/-! ## Floating-point instructions -/

/-- The TE bit of a lane's `pcfg` (R274). -/
def te (t : Troupe) (l : Nat) : Bool := (t.pcfg.getD l 0).getLsbD 14

/-- The effective lanes with TE = 1 in which an exception is raised (R272). -/
def raisedIn (s : State) (t : Troupe) (c : Ctl) (raises : Nat → Bool) : Mask :=
  maskOf fun l => (eff s t c).getLsbD l && te t l && raises l

/-- A NaN produced from operands that hold none (R272). -/
def invalid (r : FNum) (operands : List FNum) : Bool := decide (r = .nan) && operands.all fun x => decide (x ≠ .nan)

/-- Some element of a lane meets a test. -/
def someElem (y : FTy) (p : Nat → Bool) : Bool := (List.range (if ftyPacked y then 2 else 1)).any p

/-- The smaller and the larger value, -0 below +0, a single NaN giving the other operand (R364). -/
def lesser (a b : FNum) : FNum :=
  if a = .nan then b else if b = .nan then a else if a.lt b then a else if b.lt a then b else if a.sign then a else b
def greater (a b : FNum) : FNum :=
  if a = .nan then b else if b = .nan then a else if a.lt b then b else if b.lt a then a else if a.sign then b else a

def shFloatTwo : Shape := ⟨[.vw 1 false], [.vr 1 false, .sr 1 63], [.vr 1 false, .sr 1 63]⟩
def shFloatThree : Shape := ⟨[.vd 1 false], [.vr 1 false, .sr 1 63], [.vr 1 false, .sr 1 63]⟩
def shFloatOne : Shape := ⟨[.vw 1 false], [.vr 1 false, .sr 1 63], [.unused]⟩

/-- The exact value of an operation on two elements (R364), before its one rounding. -/
inductive Float2 : (FTy → OForm → Instr) → (FNum → FNum → FNum) → Prop
  | fadd : Float2 .fadd FNum.add
  | fsub : Float2 .fsub FNum.sub
  | fmul : Float2 .fmul FNum.mul
  | fmin : Float2 .fmin lesser
  | fmax : Float2 .fmax greater

/-- The exact value of a fused operation on the old D, A and B (R365). -/
inductive Float3 : (FTy → OForm → Instr) → (FNum → FNum → FNum → FNum) → Prop
  | ffma : Float3 .ffma fun c a b => (a.mul b).add c
  | ffms : Float3 .ffms fun c a b => (a.mul b).sub c
  | fnma : Float3 .fnma fun c a b => (a.mul b).neg.add c
  | fnms : Float3 .fnms fun c a b => (a.mul b).neg.sub c

/-- round(d + a0 × b0 + a1 × b1) before its rounding (R366). -/
def dotExact (y : FTy) (d a b : Word) : FNum :=
  ((elem y a 0).mul (elem y b 0)).add (((elem y a 1).mul (elem y b 1)).add (elem .f32 d 0))

/-- An FP32 value as a lane, and the value of a lane. -/
def asWord (x : FNum) : Word := BitVec.ofNat 32 (fp32.code x)
def asNum (w : Word) : FNum := fp32.value w.toNat

/-- Every floating-point instruction of format O with a fixed latency: its operands, its latency, what raises (R363) and the
result of each lane, rounded once (R362). -/
inductive FloatOp : Instr → OForm → Shape → Nat → (State → Troupe → Nat → Bool) → (State → Troupe → Nat → Word) → Prop
  | two (mk g y f) : Float2 mk g → FloatOp (mk y f) f shFloatTwo 6
      (fun s t l => someElem y fun i =>
        invalid (g (elem y (rA s t f 0 l) i) (elem y (rB s t f 0 l) i)) [elem y (rA s t f 0 l) i, elem y (rB s t f 0 l) i])
      (fun s t l => elems2 y (fun a b => (ftyFmt y).round .rne (g a b)) (rA s t f 0 l) (rB s t f 0 l))
  | three (mk g y f) : Float3 mk g → FloatOp (mk y f) f shFloatThree 6
      (fun s t l => someElem y fun i =>
        invalid (g (elem y (rD s t f 0 l) i) (elem y (rA s t f 0 l) i) (elem y (rB s t f 0 l) i))
          [elem y (rD s t f 0 l) i, elem y (rA s t f 0 l) i, elem y (rB s t f 0 l) i])
      (fun s t l => elems3 y (fun c a b => (ftyFmt y).round .rne (g c a b)) (rD s t f 0 l) (rA s t f 0 l) (rB s t f 0 l))
  | dot (bf f) : FloatOp (.fdot2 bf f) f shFloatThree 10
      (fun s t l =>
        let y : FTy := if bf then .bf16x2 else .f16x2
        invalid (dotExact y (rD s t f 0 l) (rA s t f 0 l) (rB s t f 0 l))
          (elem .f32 (rD s t f 0 l) 0 :: [elem y (rA s t f 0 l) 0, elem y (rA s t f 0 l) 1, elem y (rB s t f 0 l) 0, elem y (rB s t f 0 l) 1]))
      (fun s t l => asWord (fp32.round .rne (dotExact (if bf then .bf16x2 else .f16x2) (rD s t f 0 l) (rA s t f 0 l) (rB s t f 0 l))))
  | abs (y f) : FloatOp (.fabs y f) f shFloatOne 6 (fun _ _ _ => false) fun s t l => elems1 y FNum.abs (rA s t f 0 l)
  | neg (y f) : FloatOp (.fneg y f) f shFloatOne 6 (fun _ _ _ => false) fun s t l => elems1 y FNum.neg (rA s t f 0 l)
  | frcp (f) : FloatOp (.frcp f) f shFloatOne 12 (fun s t l => (asNum (rA s t f 0 l)).isZero) fun s t l => asWord (rcpNum (asNum (rA s t f 0 l)))
  | frsq (f) : FloatOp (.frsq f) f shFloatOne 12 (fun s t l => (asNum (rA s t f 0 l)).isZero || (asNum (rA s t f 0 l)).lt (.zero false))
      fun s t l => asWord (rsqNum (asNum (rA s t f 0 l)))
  | fexp2 (f) : FloatOp (.fexp2 f) f shFloatOne 12 (fun _ _ _ => false) fun s t l => asWord (exp2Num (asNum (rA s t f 0 l)))
  | flog2 (f) : FloatOp (.flog2 f) f shFloatOne 12 (fun s t l => (asNum (rA s t f 0 l)).lt (.zero false))
      fun s t l => asWord (log2Num (asNum (rA s t f 0 l)))
  | fsin (f) : FloatOp (.fsin f) f shFloatOne 12 (fun s t l => (asNum (rA s t f 0 l)).isInf) fun s t l => asWord (sinNum (asNum (rA s t f 0 l)))
  | fcos (f) : FloatOp (.fcos f) f shFloatOne 12 (fun s t l => (asNum (rA s t f 0 l)).isInf) fun s t l => asWord (cosNum (asNum (rA s t f 0 l)))

/-- Those whose results `VARIABLE_RESULT_WRITE` writes (R367). -/
inductive FloatLate : Instr → OForm → Shape → (State → Troupe → Nat → Bool) → (State → Troupe → Nat → Word) → Prop
  | fdiv (f) : FloatLate (.fdiv f) f shFloatTwo
      (fun s t l =>
        let a := asNum (rA s t f 0 l)
        let b := asNum (rB s t f 0 l)
        (a.isInf && b.isInf) || (b.isZero && a.isFin))
      (fun s t l => asWord (divNum fp32 .rne (asNum (rA s t f 0 l)) (asNum (rB s t f 0 l))))
  | fsqrt (f) : FloatLate (.fsqrt f) f shFloatOne (fun s t l => (asNum (rA s t f 0 l)).lt (.zero false))
      (fun s t l => asWord (sqrtNum fp32 .rne (asNum (rA s t f 0 l))))

/-- The table of R367 for special operands: what the function gives for ±0, +∞, -∞ and a finite value below 0; none where the table
says that the function is computed. -/
inductive SpecialTable : (FNum → FNum) → (Bool → FNum) → FNum → FNum → Option FNum → Prop
  | fsqrt : SpecialTable (sqrtNum fp32 .rne) FNum.zero (.inf false) .nan (some .nan)
  | frcp : SpecialTable rcpNum FNum.inf (.zero false) (.zero true) none
  | frsq : SpecialTable rsqNum FNum.inf (.zero false) .nan (some .nan)
  | fexp2 : SpecialTable exp2Num (fun _ => .fin false 1 0) (.inf false) (.zero false) none
  | flog2 : SpecialTable log2Num (fun _ => .inf true) (.inf false) .nan (some .nan)
  | fsin : SpecialTable sinNum FNum.zero .nan .nan none
  | fcos : SpecialTable cosNum (fun _ => .fin false 1 0) .nan .nan none

/-! ## Modifiers of format X (R299) -/

/-- STYPE, DTYPE and XS of a conversion modifier. -/
def st (m : BitVec 18) : Nat := m.toNat / 2 ^ 7 % 16
def dt (m : BitVec 18) : Nat := m.toNat / 2 ^ 3 % 16
def xs (m : BitVec 18) : Nat := m.toNat / 2 ^ 11

/-- The rounding modes of R299, and the element types by code. -/
def roundsAs (m : BitVec 18) (r : Rm) : Prop := rmOf (m.toNat % 8) = some r
def typeCode (n : Nat) (y : FTy) : Prop := ftyCode n = some y

/-- The ten classes of R369 by bit, for a value of a format. -/
def classBit (f : Fmt) : FNum → Nat
  | .nan => 8
  | .inf n => if n then 0 else 7
  | .fin n m e => if m = 0 then (if n then 3 else 4) else if (Nat.log2 m : Int) + e < f.emin then (if n then 2 else 5) else (if n then 1 else 6)

/-- The conditions of R368, false when unordered but for `.ne` and `.uo`. -/
def floatHolds (code : Nat) (x y : FNum) : Bool :=
  if x = .nan ∨ y = .nan then decide (code = 1 ∨ code = 6)
  else match code with
    | 0 => x.eq y
    | 1 => !x.eq y
    | 2 => x.lt y
    | 3 => x.lt y || x.eq y
    | 4 => y.lt x
    | 5 => y.lt x || x.eq y
    | _ => false

/-- Format-X instructions of one vector result (R368 to R371, R373): operands, the legal modifiers, what raises, the lanes. -/
inductive FloatX : Instr → OForm → BitVec 18 → Shape → (State → Troupe → Nat → Bool) → (State → Troupe → Nat → Word) → Prop
  | fcmp (f m y) : typeCode (st m) y → dt m = 0 → xs m = 0 → m.toNat % 8 ≤ 6 → isVec f.d = true →
      FloatX (.fcmp f) f m ⟨[.vw 1 false, .sp 0 7], [.vr 2 false], []⟩ (fun _ _ _ => false) fun s t l =>
        packElems y fun i => if floatHolds (m.toNat % 8) (elem y (rA s t f 0 l) i) (elem y (rA s t f 1 l) i) then 2 ^ ftyBits y - 1 else 0
  | fclass (f m y) : typeCode (st m) y → dt m = 0 → xs m = 0 → m.toNat % 8 = 0 →
      FloatX (.fclass f) f m ⟨[.vw 1 false], [.vr 1 false], []⟩ (fun _ _ _ => false) fun s t l =>
        packElems y fun i => 2 ^ classBit (ftyFmt y) (elem y (rA s t f 0 l) i)
  | fround (f m y r) : typeCode (st m) y → dt m = st m → xs m = 0 → roundsAs m r →
      FloatX (.fround f) f m ⟨[.vw 1 false], [.vr 1 false, .sr 1 63], []⟩ (fun _ _ _ => false) fun s t l =>
        elems1 y (roundIntegral r) (rA s t f 0 l)
  | fscale (f m y r) : typeCode (st m) y → dt m = st m → roundsAs m r → xs m < 2 ^ 6 →
      FloatX (.fscale f) f m ⟨[.vw 1 false], [.vr 1 false, .sr 1 63], []⟩ (fun _ _ _ => false) fun s t l =>
        elems1 y (fun a => (ftyFmt y).round r (a.scale (if xs m < 32 then xs m else (xs m : Int) - 64))) (rA s t f 0 l)
  | fcvt (f m r a b) : tyOf (st m) = some a → tyOf (dt m) = some b → xs m = 0 → roundsAs m r →
      FloatX (.fcvt f) f m ⟨[.vw 1 false], if 9 ≤ st m then [.vr 1 false, .sr 1 63, .imm] else [.vr 1 false, .sr 1 63], []⟩
        (fun s t l => (a.value (rA s t f 0 l)).isNan && b.noNan) fun s t l => b.place r (a.value (rA s t f 0 l))
  | fcvtPacked (f m r) : (st m = 3 ∨ st m = 4) → (dt m = 3 ∨ dt m = 4) → xs m = 0 → roundsAs m r →
      FloatX (.fcvt f) f m ⟨[.vw 1 false], [.vr 1 false, .sr 1 63], []⟩ (fun _ _ _ => false) fun s t l =>
        let a : FTy := if st m = 3 then .f16x2 else .bf16x2
        let b : FTy := if dt m = 3 then .f16x2 else .bf16x2
        packElems b fun i => (ftyFmt b).code ((ftyFmt b).round r (elem a (rA s t f 0 l) i))
  | fpack (f m r big) : st m = 0 → (dt m = 8 ∨ dt m = 0) → packTarget (xs m % 16) (m.getLsbD 15) = some big → xs m < 2 ^ 5 →
      roundsAs m r → FloatX (.fpack f) f m ⟨[.vw 1 false], [.vr 8 false], []⟩ (fun _ _ _ => false) fun s t l =>
        let sc := packScale big r ((List.range 8).map fun j => asNum (rA s t f j l))
        if dt m = 8 then BitVec.ofNat 32 (e3m5.code sc) else asWord sc

/-! ## Variable precision -/

/-- Capacity of a window of w registers, and the operand kinds of R374. -/
def capacity (w : VpW) : Nat := 16 + 32 * (w.n - 1)
def shW (w : VpW) : Shape := ⟨[.vw w.n true], [.vr w.n true], [.vr w.n true]⟩

/-- L, G of a lane. -/
def precL (t : Troupe) (l : Nat) : Nat := (t.pcfg.getD l 0).toNat % 128
def precG (t : Troupe) (l : Nat) : Nat := (t.pcfg.getD l 0).toNat / 128 % 128

/-- The value of a window in a lane (R273). -/
def vA (s : State) (t : Troupe) (f : OForm) (w l : Nat) : FNum := vpValue ((List.range w).map fun j => rA s t f j l)
def vB (s : State) (t : Troupe) (f : OForm) (w l : Nat) : FNum := vpValue ((List.range w).map fun j => rB s t f j l)
def vD (s : State) (t : Troupe) (f : OForm) (w l : Nat) : FNum := vpValue ((List.range w).map fun j => rD s t f j l)

/-- The registers of a result window: each lane rounded at its own L, word 0 first, unused bits zero (R275). -/
def windowOf (t : Troupe) (w : VpW) (n : Nat) (r : Rm) (x : Nat → FNum) : List (Nat × Lanes) :=
  (List.range w.n).map fun j => (n + j, lanesOf fun l =>
    BitVec.ofNat 32 ((vpFmt (capacity w)).code ((vpFmt (precL t l)).round r (x l)) / 2 ^ (32 * (w.n - 1 - j))))

/-- The cancellation that the guard of R276 traps. -/
def cancels (t : Troupe) (l : Nat) (a b : FNum) : Bool :=
  te t l && decide (precG t l ≠ 0) && a.isFin && b.isFin && !a.isZero && !b.isZero
    && ((a.add b).isZero || decide ((a.add b).exp ≤ max a.exp b.exp - precG t l))

/-- Latency of VP arithmetic by width (R145). -/
def vpLatency : VpW → Nat
  | .w1 => 6
  | .w2 => 12
  | .w3 => 21
  | .w4 => 33

/-- The instructions whose result is a window of fixed latency (R376, R378, R379): operands, mode, exact result, the addends under
the guard, what raises. -/
inductive VpWindow : Instr → VpW → OForm → Shape → Bool → Rm → (State → Troupe → Nat → FNum) →
    (State → Troupe → Nat → Option (FNum × FNum)) → (State → Troupe → Nat → Bool) → Prop
  | vpadd (w f) : VpWindow (.vpadd w f) w f (shW w) true .rne (fun s t l => (vA s t f w.n l).add (vB s t f w.n l))
      (fun s t l => some (vA s t f w.n l, vB s t f w.n l))
      fun s t l => invalid ((vA s t f w.n l).add (vB s t f w.n l)) [vA s t f w.n l, vB s t f w.n l]
  | vpsub (w f) : VpWindow (.vpsub w f) w f (shW w) true .rne (fun s t l => (vA s t f w.n l).add (vB s t f w.n l).neg)
      (fun s t l => some (vA s t f w.n l, (vB s t f w.n l).neg))
      fun s t l => invalid ((vA s t f w.n l).add (vB s t f w.n l).neg) [vA s t f w.n l, vB s t f w.n l]
  | vpmul (w f) : VpWindow (.vpmul w f) w f (shW w) true .rne (fun s t l => (vA s t f w.n l).mul (vB s t f w.n l)) (fun _ _ _ => none)
      fun s t l => invalid ((vA s t f w.n l).mul (vB s t f w.n l)) [vA s t f w.n l, vB s t f w.n l]
  | vpfma (w f) : VpWindow (.vpfma w f) w f ⟨[.vd w.n true], [.vr w.n true], [.vr w.n true]⟩ true .rne
      (fun s t l => ((vA s t f w.n l).mul (vB s t f w.n l)).add (vD s t f w.n l))
      (fun s t l => some ((vA s t f w.n l).mul (vB s t f w.n l), vD s t f w.n l))
      fun s t l => invalid (((vA s t f w.n l).mul (vB s t f w.n l)).add (vD s t f w.n l)) [vA s t f w.n l, vB s t f w.n l, vD s t f w.n l]
  | vpexp (w f) : VpWindow (.vpexp w f) w f ⟨[.vw w.n true], [.vr w.n true], [.vr 1 false, .sr 1 63, .imm]⟩ true .rne
      (fun s t l => (vA s t f w.n l).scale (max (-70000) (min 70000 (rB s t f 0 l).toInt))) (fun _ _ _ => none) fun _ _ _ => false
  | vpround (w f m r) : f.b = .imm m → st m = 15 → dt m = 15 → xs m < 4 → roundsAs m r →
      VpWindow (.vpround w f) w f ⟨[.vw w.n true], [.vr (xs m + 1) true], []⟩ true r (fun s t l => vA s t f (xs m + 1) l)
        (fun _ _ _ => none) fun _ _ _ => false
  | vpcvtIn (w f m r y) : f.b = .imm m → vpcvtTy (st m) = some y → dt m = 15 → xs m = 0 → roundsAs m r →
      VpWindow (.vpcvt w f) w f ⟨[.vw w.n true], if 9 ≤ st m then [.vr 1 false, .sr 1 63, .imm] else [.vr 1 false, .sr 1 63], []⟩ true r
        (fun s t l => y.value (rA s t f 0 l)) (fun _ _ _ => none) fun _ _ _ => false
  | vpdiv (w f) : VpWindow (.vpdiv w f) w f (shW w) false .rne
      (fun s t l => divNum (vpFmt (precL t l)) .rne (vA s t f w.n l) (vB s t f w.n l)) (fun _ _ _ => none)
      fun s t l =>
        let a := vA s t f w.n l
        let b := vB s t f w.n l
        (a.isInf && b.isInf) || (b.isZero && a.isFin)
  | vpsqrt (w f) : VpWindow (.vpsqrt w f) w f ⟨[.vw w.n true], [.vr w.n true], [.unused]⟩ false .rne
      (fun s t l => sqrtNum (vpFmt (precL t l)) .rne (vA s t f w.n l)) (fun _ _ _ => none)
      fun s t l => (vA s t f w.n l).lt (.zero false)

/-- Every effective lane's L fits the window (R275), no addition cancels (R276) and nothing raises (R272). -/
def vpQuiet (s : State) (t : Troupe) (c : Ctl) (w : VpW) (addends : Nat → Option (FNum × FNum)) (raises : Nat → Bool) : Prop :=
  ∀ l, l < 96 → (eff s t c).getLsbD l = true → precL t l ≤ capacity w
    ∧ (∀ a b, addends l = some (a, b) → cancels t l a b = false) ∧ (te t l = true → raises l = false)

/-- A lane's `pcfg` after `vpsetl` (R380). -/
def newPcfg (m : BitVec 18) (old : BitVec 15) (v : Word) : BitVec 15 :=
  (if m.getLsbD 2 then v.extractLsb' 14 1 else old.extractLsb' 14 1)
    ++ ((if m.getLsbD 1 then v.extractLsb' 7 7 else old.extractLsb' 7 7)
      ++ (if m.getLsbD 0 then BitVec.ofNat 7 (min (max (v.toNat % 128) 7) 112) else old.extractLsb' 0 7))

/-! ## Memory requests -/

/-- The operands of a format-M instruction, and its registers as they stand at issue. -/
def opsM (f : MForm) (sh : Shape) : Opnds := ⟨f.d, f.a, .imm 0, sh⟩
def mD (s : State) (t : Troupe) (f : MForm) (j l : Nat) : Word := lane (s.rdLanes (s.atIssue t) 0 f.d j) l
def mA (s : State) (t : Troupe) (f : MForm) (j l : Nat) : Word := lane (s.rdLanes (s.atIssue t) 1 f.a j) l

/-- The effective address of a lane: the 64-bit pair of A plus OFS in units of `unit` bytes (R297, R385). -/
def address (s : State) (t : Troupe) (f : MForm) (unit l : Nat) : DWord :=
  (mA s t f 1 l ++ mA s t f 0 l) + BitVec.ofInt 64 (f.attr.ofs.toInt * unit)

/-- The low n bytes of registers j and j + 1 of D in a lane, lowest first. -/
def dataBytes (s : State) (t : Troupe) (f : MForm) (j n l : Nat) : List Byte :=
  natLe n ((mD s t f j l).toNat + if n = 8 then 2 ^ 32 * (mD s t f (j + 1) l).toNat else 0)

/-- Bytes of a SIZE code, and the registers that they take (R298). -/
def bytesOf (f : MForm) : Nat := match f.attr.size.toNat with | 0 => 1 | 1 => 1 | 2 => 2 | 3 => 2 | 4 => 4 | _ => 8
def regsOf (f : MForm) : Nat := if f.attr.size = 5 then 2 else 1

/-- The address pair of R383, and the data kinds of a store. -/
def shPair : List Acc := [.vr 2 false, .sr 2 60]
def shData (n : Nat) : List Acc := [.vr n false, if n = 2 then .sr 2 60 else .sr 1 63, .imm]

/-- One lane of a memory instruction as it leaves: lane, operation, address, bytes, data, second operand. -/
abbrev LaneOut := Nat × MemOp × DWord × Nat × List Byte × List Byte

/-- What an instruction hands to the memory system: counter, flag and size of its record, whether it is posted, policy, scope and
order, and the lanes. -/
structure Handed where
  ac : Option Nat
  flag : Option Nat
  size : BitVec 3
  posted : Bool
  pol : Policy
  scope : Scope
  ord : MemOrd
  lanes : List LaneOut

/-- The lanes' requests as they leave: one for each lane, all of one record, each with the troupe's place and the instruction's
attributes; a release is held, and what writes carries the die's phase (R238, R387, R388). -/
def leaves (s : State) (t : Troupe) (h : Handed) (id : Nat) (rs : List MemReq) : Prop :=
  rs.map (fun r => (r.lane, r.op, r.va, r.bytes, r.val, r.val2)) = h.lanes
    ∧ ∀ r ∈ rs, r.split = id ∧ r.wg = t.wg ∧ r.trix = t.trix ∧ r.die = t.die ∧ r.core = t.core
        ∧ (∀ w, s.wgOf t = some w → r.ctx = w.ctx) ∧ r.pol = h.pol ∧ r.scope = h.scope ∧ r.ord = h.ord ∧ r.fault = none
        ∧ r.stage = (if h.ord.releases then .held else .untranslated false)
        ∧ (h.ord.releases = false → r.phase = if memWrites r.op then some (s.die t.die).dph else none)

/-- The state that hands its requests over: the troupe `t'` has issued, everything that programs see is as it was. -/
def handsOver (s : State) (t : Troupe) (c : Ctl) (base : State) (t' : Troupe) (ac : Option Nat) : Prop :=
  base.mem = s.mem ∧ base.lines = s.lines ∧ base.wbs = s.wbs ∧ base.reqs = s.reqs ∧ base.wgs = s.wgs ∧ base.ctxs = s.ctxs
    ∧ base.bufs = s.bufs ∧ base.levels = s.levels ∧ base.graphs = s.graphs
    ∧ s.othersKept base t ∧ base.becomes t t'
    ∧ t'.pc = t.pc + 12 ∧ t'.flags = t.flagged c ∧ t'.sregs = t.sregs ∧ t'.preds = t.preds
    ∧ t'.acs = (match ac with | some k => t.acs.modify k (· + 1) | none => t.acs)
    ∧ { t' with acs := t.acs, sph := t.sph, phLives := t.phLives }.specials = t.specials

/-- A memory instruction hands over its lanes' requests. `land` says where their replies go, `names` which vector names they write:
these are mapped and unwritten. -/
def Sends (i : Instr) (s : State) (t : Troupe) (c : Ctl) (o : Opnds) (h : Handed) (names : List Nat)
    (land : Troupe → Landing) : Prop :=
  ∃ base t' id rs, exec i s = .next (base.addReqs rs) ∧ handsOver s t c base t' h.ac
    ∧ t.lanesSet t' (rel s t o) (s.now t + 1) 0 (names.map fun n => (n, []))
    ∧ (∀ n ∈ names, n ≠ 255 → ∀ l, l < 96 → (eff s t c).getLsbD l = true → t'.hazardAt (.v n) l = true)
    ∧ base.splits = s.splits ++ [⟨id, t.wg, t.trix, h.ac, h.flag, h.lanes.length, land t', h.size,
        if h.ord.acquires then some h.scope else none, h.posted⟩]
    ∧ leaves s t h id rs

/-- An instruction of the memory group whose lanes are none: it goes on, with its names released and mapped. -/
def SendsNothing (i : Instr) (s : State) (t : Troupe) (c : Ctl) (o : Opnds) (names : List Nat) : Prop :=
  ∃ u t', exec i s = .next u ∧ s.issueKeeps t c u t' ∧ t.lanesSet t' (rel s t o) (s.now t + 1) 0 (names.map fun n => (n, []))

/-- The typed operation of an atomic (R399, R401, R402). -/
def typed (k : Nat) (sop uop : AtomOp) : AtomTy → MemOp
  | .int => .atom sop
  | .uint => .atom uop
  | y => .fatom k y

/-- The operations of R400 with their operation codes, the sizes they take, and whether they read a second operand. -/
inductive AtomicOp : Instr → MForm → MemOp → List Nat → Bool → Prop
  | add (y f) : AtomicOp (.atomAdd y f) f (typed 0 .add .add y) (if y = .int ∨ y = .uint then [4, 5] else [4]) false
  | sub (y f) : AtomicOp (.atomSub y f) f (typed 1 .sub .sub y) (if y = .int ∨ y = .uint then [4, 5] else [4]) false
  | min (y f) : AtomicOp (.atomMin y f) f (typed 2 .min .umin y) (if y = .int ∨ y = .uint then [4, 5] else [4]) false
  | max (y f) : AtomicOp (.atomMax y f) f (typed 3 .max .umax y) (if y = .int ∨ y = .uint then [4, 5] else [4]) false
  | and (f) : AtomicOp (.atomAnd f) f (.atom .and) [4, 5] false
  | or (f) : AtomicOp (.atomOr f) f (.atom .or) [4, 5] false
  | xor (f) : AtomicOp (.atomXor f) f (.atom .xor) [4, 5] false
  | xchg (f) : AtomicOp (.atomXchg f) f (.atom .xchg) [4, 5] false
  | cas (f) : AtomicOp (.atomCas f) f (.atom .cas) [4, 5] true
  | inc (f) : AtomicOp (.atomInc f) f (.atom .inc) [4, 5] false
  | dec (f) : AtomicOp (.atomDec f) f (.atom .dec) [4, 5] false

/-- The per-lane memory instructions (R387, R381, R382, R390, R391, R400): operands, accepted attributes, unit of OFS, alignment,
the registers that replies write (none for a posted instruction), where they land, and a lane's request at its address. -/
inductive LaneMemory : Instr → MForm → Shape → AttrRule → Nat → Nat → Option Nat → (List (Nat × Nat) → Landing) →
    (State → Troupe → Nat → MemOp × Nat × List Byte × List Byte) → Prop
  | ld (f) : LaneMemory (.ld f) f ⟨[.vw (regsOf f) false], shPair, []⟩ ⟨[0, 1, 2, 3, 4, 5], [0, 1], true, true, 5, List.range 64⟩
      (bytesOf f) (bytesOf f) (some (regsOf f)) .vec fun _ _ _ => (.load f.attr.size, bytesOf f, [], [])
  | st (f) : LaneMemory (.st f) f ⟨shData (regsOf f), shPair, []⟩ ⟨[0, 1, 2, 3, 4, 5], [0, 2], false, true, 5, List.range 64⟩
      (bytesOf f) (bytesOf f) none (fun _ => .nothing) fun s t l => (.store, bytesOf f, dataBytes s t f 0 (bytesOf f) l, [])
  | tld (f) : LaneMemory (.tld f) f ⟨[.vw 1 false], shPair, []⟩ ⟨[4], [0, 1], true, true, 5, [0]⟩
      0 1 (some 1) .vec fun _ _ _ => (.tload, 1, [], [])
  | tst (f) : LaneMemory (.tst f) f ⟨[.vr 1 false, .sr 1 63], shPair, []⟩
      ⟨[4], [0, 2], false, true, 5, [0x11, 0x12, 0x13, 0x14, 0x15, 0x16, 0x18, 0x19]⟩
      0 1 none (fun _ => .nothing) fun s t l => (.tstore (f.attr.ofs.setWidth 8), 1, natLe 4 (mD s t f 0 l).toNat, [])
  | vpld (w f) : LaneMemory (.vpld w f) f ⟨[.vw w.n true], shPair, []⟩ ⟨[0], [0, 1], true, true, 5, List.range 64⟩
      1 1 (some w.n) (.vp w) fun _ t l => (.vpload w (precL t l) false, 2 + (precL t l + 7) / 8, [], [])
  | vpst (w f) : LaneMemory (.vpst w f) f ⟨[.vr w.n true], shPair, []⟩ ⟨[0], [0, 2], false, true, 5, List.range 64⟩
      1 1 none (fun _ => .nothing) fun s t l =>
        (.vpstore w (precL t l) false, 2 + (precL t l + 7) / 8,
          vpElemCode (precL t l) ((vpFmt (precL t l)).round .rne (vpValue ((List.range w.n).map fun j => mD s t f j l))),
          (List.range w.n).flatMap fun j => natLe 4 (mD s t f j l).toNat)
  | atomic (i f op sizes cas) : AtomicOp i f op sizes cas →
      LaneMemory i f ⟨[if cas then .vx (2 * regsOf f) (regsOf f) else .vd (regsOf f) false], shPair, []⟩ ⟨sizes, [0, 1, 2, 3], true, true, 5, List.range 64⟩
        (bytesOf f) (bytesOf f) (some (regsOf f)) .vec fun s t l =>
          (op, bytesOf f, dataBytes s t f 0 (bytesOf f) l, if cas then dataBytes s t f (regsOf f) (bytesOf f) l else [])

/-- Policy, scope and order of an attribute field (R203, R228, R297). -/
def policy (f : MForm) : Policy := match f.attr.pol.toNat with | 0 => .own | 1 => .wt | 2 => .si | _ => .wi
def scope (f : MForm) : Scope :=
  match f.attr.scope.toNat with | 0 => .tr | 1 => .wg | 2 => .cl | 3 => .die | 4 => .dev | _ => .sys
def order (f : MForm) : MemOrd := match f.attr.ord.toNat with | 0 => .plain | 1 => .acq | 2 => .rel | _ => .acqrel

/-- An instruction that a precision check may stop passes it: `vpld` and `vpst` in every effective lane (R275). -/
def fits (i : Instr) (s : State) (t : Troupe) (c : Ctl) : Prop :=
  ∀ w f, i = .vpld w f ∨ i = .vpst w f → ∀ l, l < 96 → (eff s t c).getLsbD l = true → precL t l ≤ capacity w

end Sys2Proof.Claims

open Sys2Proof Sys2Proof.Machine Sys2Proof.Claims

/-! ## Scalar instructions -/

/-- A scalar instruction of two sources issues, and its destination holds the result that R337 states, from whatever its sources
read (R291, R336); the guard decides whether it takes effect (R127), and a result that an earlier unordered write follows is
lost (R144). Nothing else changes. -/
def Obligations.ScalarBinaryResult : Prop :=
  ∀ i f op s t, ScalarBin i f op → s.issuesWith t f.c (ops f ⟨[.sw 1 63], [.sr 1 63, .imm], [.sr 1 63, .imm]⟩) true →
    SetsScalars i s t f.c (ops f ⟨[.sw 1 63], [.sr 1 63, .imm], [.sr 1 63, .imm]⟩) 2 [(numOf f.d, op (sA s t f 0) (sB s t f 0))]

/-- `smov`, `smovh`, `ssel`, `pcnt` and `scmp` issue and write their scalar or predicate (R339, R340, R347). -/
def Obligations.ScalarMoveCompareResult : Prop :=
  (∀ i f sh val s t, ScalarMove i f sh val → s.issuesWith t f.c (ops f sh) true → SetsScalars i s t f.c (ops f sh) 2 [(numOf f.d, val s t)])
  ∧ (∀ f (m : BitVec 18) s t, f.b = .imm m → cmpLegal m →
      let sh : Shape := ⟨[.sw 1 63, .sp 0 7], if m.getLsbD 5 then [.sr 1 63] else [.sr 2 60], []⟩
      s.issuesWith t f.c (ops f sh) true →
      let r := compares m (sA s t f 0) (if m.getLsbD 5 then cmpImmediate m else sA s t f 1)
      (isScal f.d = true → SetsScalars (.scmp f) s t f.c (ops f sh) 2 [(numOf f.d, if r then 1 else 0)])
        ∧ (isSpecial f.d = true → SetsPred (.scmp f) s t f.c (ops f sh) (numOf f.d) (if r then allLanes else 0)))

/-- A scalar or vector division issues, and its result waits for `VARIABLE_RESULT_WRITE`, with its register unwritten until then
(R338, R352). -/
def Obligations.DivisionIssues : Prop :=
  (∀ i f op s t, ScalarDivision i f op → s.issuesWith t f.c (ops f ⟨[.sw 1 63], [.sr 1 63, .imm], [.sr 1 63, .imm]⟩) true →
      ∃ u t', exec i s = .next u ∧ s.issueKeeps t f.c u t' ∧ t.regsKept t'
        ∧ (takes s t f.c = true →
            t.underWay t' f.c (.sregs [(numOf f.d, op (sA s t f 0) (sB s t f 0))]) (([numOf f.d].filter (· < 61)).map .s)))
  ∧ (∀ i f op s t, VectorDivision i f op → s.issuesWith t f.c (ops f shTwo) true →
      LanesLater i s t f.c (ops f shTwo) [(numOf f.d, lanesOf fun l => op (rA s t f 0 l) (rB s t f 0 l))])

/-- Branches, calls, returns, jumps, `nop` and `yield`: where the program counter goes (R300, R343, R344, R346). -/
def Obligations.ControlFlow : Prop :=
  (∀ i f accs cond s t, Branch i f accs cond →
      s.issuesWith t f.c ⟨f.d, .imm 0, .imm 0, ⟨accs, [.unused], [.unused]⟩⟩ true →
      ∃ u t', exec i s = .next u ∧ t.regsKept t'
        ∧ (takes s t f.c = true → cond s t → transfers s t f.c u (t.pc + BitVec.ofInt 64 (12 * f.off.toInt)) t')
        ∧ (takes s t f.c = false ∨ ¬cond s t → s.issueKeeps t f.c u t'))
  ∧ ((∀ (f : CForm) s t, s.issuesWith t f.c ⟨f.d, .imm 0, .imm 0, ⟨[.unused], [.unused], [.unused]⟩⟩ true → takes s t f.c = true →
      ∃ u t', exec (.call f) s = .next u ∧ transfers s t f.c u (t.pc + BitVec.ofInt 64 (12 * f.off.toInt)) t'
        ∧ t'.regs = t.regs ∧ t.scalarsSet t' (s.now t + 2) [(58, loW (t.pc + 12)), (59, hiW (t.pc + 12))])
    ∧ (∀ (f : OForm) s t, s.issuesWith t f.c (ops f ⟨[.unused], [.unused], [.unused]⟩) true → takes s t f.c = true →
      ∃ u t', exec (.ret f) s = .next u ∧ t.regsKept t'
        ∧ transfers s t f.c u (s.rdS (s.atIssue t) 1 59 ++ s.rdS (s.atIssue t) 1 58) t')
    ∧ (∀ (f : OForm) s t, s.issuesWith t f.c (ops f ⟨[.unused], [.sr 2 60], [.unused]⟩) true → takes s t f.c = true →
      ∃ u t', exec (.jmp f) s = .next u ∧ t.regsKept t' ∧ transfers s t f.c u (sA s t f 1 ++ sA s t f 0) t')
    ∧ (∀ i (f : OForm) (o : Opnds) s t, (i = .ret f ∧ o = ops f ⟨[.unused], [.unused], [.unused]⟩
          ∨ i = .jmp f ∧ o = ops f ⟨[.unused], [.sr 2 60], [.unused]⟩) → s.issuesWith t f.c o true → takes s t f.c = false →
      ∃ u t', exec i s = .next u ∧ s.issueKeeps t f.c u t' ∧ t.regsKept t'))
  ∧ (∀ i (f : OForm) s t, i = .nop f ∨ i = .yield f → s.issuesWith t f.c (ops f ⟨[.unused], [.unused], [.unused]⟩) true →
      ∃ u t', exec i s = .next u ∧ s.issueKeeps t f.c u t' ∧ t.regsKept t'
        ∧ (i = .yield f → takes s t f.c = true → t'.atYield = true))

/-- A predicate instruction writes all 96 bits of its predicate, whatever the activity mask; p7 stays all ones (R129, R347). -/
def Obligations.PredicateResult : Prop :=
  (∀ i f sh val s t, PredOp i f sh val → s.issuesWith t f.c (ops f sh) true → SetsPred i s t f.c (ops f sh) (numOf f.d) (val s t))
  ∧ (∀ f s t, s.issuesWith t f.c (ops f ⟨[.sw 3 63], [.sp 0 7], [.unused]⟩) true →
      SetsScalars (.ptos f) s t f.c (ops f ⟨[.sw 3 63], [.sp 0 7], [.unused]⟩) 2 [(numOf f.d, (pA s t f).extractLsb' 0 32), (numOf f.d + 1, (pA s t f).extractLsb' 32 32),
        (numOf f.d + 2, (pA s t f).extractLsb' 64 32)])

/-! ## Vector integer and bit instructions -/

/-- A vector instruction of two sources writes vD in the effective lanes, with the result of R350 or R357 in each. -/
def Obligations.VectorBinaryResult : Prop :=
  ∀ i f op s t, VectorBin i f op → s.issuesWith t f.c (ops f shTwo) true →
    SetsLanes i s t f.c (ops f shTwo) 6 [(numOf f.d, lanesOf fun l => op (rA s t f 0 l) (rB s t f 0 l))]

/-- Moves, selections and the other vector instructions of one result, and the two with a carry, write their effective lanes. -/
def Obligations.VectorOtherResult : Prop :=
  (∀ i f sh val s t, VectorOther i f sh val → s.issuesWith t f.c (ops f sh) true →
      SetsLanes i s t f.c (ops f sh) 6 [(numOf f.d, lanesOf (val s t))])
  ∧ (∀ f s t, s.issuesWith t f.c (ops f ⟨[.vc], [.vr 1 false, .sr 1 63, .imm], [.vr 1 false, .sr 1 63, .imm]⟩) true →
      let sum (l : Nat) : Nat := (rA s t f 0 l).toNat + (rB s t f 0 l).toNat + (rD s t f 0 l).toNat
      SetsLanes (.vaddc f) s t f.c (ops f ⟨[.vc], [.vr 1 false, .sr 1 63, .imm], [.vr 1 false, .sr 1 63, .imm]⟩) 6
        [(numOf f.d, lanesOf fun l => BitVec.ofNat 32 (sum l)), (numOf f.d + 1, lanesOf fun l => BitVec.ofNat 32 (sum l / 2 ^ 32))])

/-- `vcmp` compares lane by lane (R353): a vector D takes all ones or zero in the effective lanes, a predicate D one bit for each
of them and keeps its others. -/
def Obligations.VectorCompareResult : Prop :=
  ∀ f (m : BitVec 18) s t, f.b = .imm m → cmpLegal m →
    let sh : Shape := ⟨[.vw 1 false, .sp 0 7], if m.getLsbD 5 then [.vr 1 false] else [.vr 2 false], []⟩
    s.issuesWith t f.c (ops f sh) true →
    let r (l : Nat) : Bool := compares m (rA s t f 0 l) (if m.getLsbD 5 then cmpImmediate m else rA s t f 1 l)
    (isVec f.d = true → SetsLanes (.vcmp f) s t f.c (ops f sh) 6 [(numOf f.d, lanesOf fun l => if r l then 0xFFFFFFFF#32 else 0)])
      ∧ (isSpecial f.d = true → ∃ u t', exec (.vcmp f) s = .next u ∧ s.issueKeeps t f.c u t'
          ∧ t.released t' (rel s t (ops f sh)) ∧ t.predSet t' (s.now t + 6) (numOf f.d) (eff s t f.c) (maskOf r))

/-- `vscan` and `vred` combine the effective lanes in ascending order (R354, R355); a scalar D of `vred` stays as it is when no
lane is effective. -/
def Obligations.ScanReduceResult : Prop :=
  (∀ f (m : BitVec 18) s t, f.b = .imm m → scanLegal m false → s.issuesWith t f.c (ops f ⟨[.vw 1 false], [.vr 1 false], []⟩) true →
    SetsLanes (.vscan f) s t f.c (ops f ⟨[.vw 1 false], [.vr 1 false], []⟩) 10 [(numOf f.d, lanesOf fun l =>
      combined m (eff s t f.c) (rA s t f 0) (if m.getLsbD 4 then l else l + 1))])
  ∧ (∀ f (m : BitVec 18) s t, f.b = .imm m → scanLegal m true →
      s.issuesWith t f.c (ops f ⟨[.vw 1 false, .sw 1 63], [.vr 1 false], []⟩) true →
      let r := combined m (eff s t f.c) (rA s t f 0) 96
      (isVec f.d = true →
        SetsLanes (.vred f) s t f.c (ops f ⟨[.vw 1 false, .sw 1 63], [.vr 1 false], []⟩) 10 [(numOf f.d, lanesOf fun _ => r)])
      ∧ (isScal f.d = true →
          ∃ u t', exec (.vred f) s = .next u ∧ s.issueKeeps t f.c u t'
            ∧ t.released t' (rel s t (ops f ⟨[.vw 1 false, .sw 1 63], [.vr 1 false], []⟩))
            ∧ (eff s t f.c = 0 → t'.sregs = t.sregs ∧ t'.preds = t.preds)
            ∧ (eff s t f.c ≠ 0 → t.scalarsSet t' (s.now t + 10) [(numOf f.d, r)])))

/-- `vmatch` and its like, the funnel shift and the permutations issue and write their results in the effective lanes. -/
def Obligations.MatchFunnelPermuteResult : Prop :=
  (∀ f s t, s.issuesWith t f.c (ops f ⟨[.vw 1 false], [.vr 1 false], [.unused]⟩) true →
      let same (l : Nat) : List Nat := (List.range 96).filter fun k => (eff s t f.c).getLsbD k && rA s t f 0 k == rA s t f 0 l
      SetsLanes (.vmatch f) s t f.c (ops f ⟨[.vw 1 false], [.vr 1 false], [.unused]⟩) 10 [(numOf f.d, lanesOf fun l =>
        BitVec.ofNat 32 ((same l).length * 2 ^ 16 + ((same l).filter (· < l)).length * 2 ^ 8 + (same l).headD l))])
  ∧ ((∀ f (m : BitVec 18) s t, f.b = .imm m → m.toNat < 2 ^ 7 → (m.getLsbD 6 = true → m.toNat % 2 ^ 5 = 0) →
      let sh : Shape := ⟨if m.getLsbD 6 then [.vd 1 false] else [.vw 1 false], [.vr 2 false], []⟩
      s.issuesWith t f.c (ops f sh) true →
      let by_ (l : Nat) : Nat := if m.getLsbD 6 then (rD s t f 0 l).toNat % 32 else m.toNat % 32
      let w (l : Nat) : Nat := (rA s t f 1 l).toNat * 2 ^ 32 + (rA s t f 0 l).toNat
      SetsLanes (.vfunnel f) s t f.c (ops f sh) 6 [(numOf f.d, lanesOf fun l =>
        BitVec.ofNat 32 (if m.getLsbD 5 then w l * 2 ^ by_ l / 2 ^ 32 else w l / 2 ^ by_ l))])
    ∧ (∀ f (m : BitVec 18) s t, f.b = .imm m → s.issuesWith t f.c (ops f ⟨[.vw 1 false], [.vr 2 false], []⟩) true →
        let w (l : Nat) : Nat := (rA s t f 1 l).toNat * 2 ^ 32 + (rA s t f 0 l).toNat
        let sel (k : Nat) : Nat := m.toNat / 2 ^ (4 * k + 2) % 16
        let y (l k : Nat) : Nat := w l / 256 ^ (sel k % 8) % 256
        let byte (l k : Nat) : Nat := if 4 ≤ k + m.toNat % 4 then 0 else if 8 ≤ sel k then (if 128 ≤ y l k then 255 else 0) else y l k
        SetsLanes (.vbperm f) s t f.c (ops f ⟨[.vw 1 false], [.vr 2 false], []⟩) 6 [(numOf f.d, lanesOf fun l =>
          BitVec.ofNat 32 (byte l 0 + 2 ^ 8 * byte l 1 + 2 ^ 16 * byte l 2 + 2 ^ 24 * byte l 3))]))

/-! ## Floating point and variable precision -/

/-- A floating-point instruction rounds the exact result of each effective lane once, at once or with a variable latency. -/
def Obligations.FloatResult : Prop :=
  (∀ i f sh lat raises val s t, FloatOp i f sh lat raises val → s.issuesWith t f.c (ops f sh) true →
      raisedIn s t f.c (raises s t) = 0 → SetsLanes i s t f.c (ops f sh) lat [(numOf f.d, lanesOf (val s t))])
  ∧ (∀ i f sh raises val s t, FloatLate i f sh raises val → s.issuesWith t f.c (ops f sh) true →
      raisedIn s t f.c (raises s t) = 0 → LanesLater i s t f.c (ops f sh) [(numOf f.d, lanesOf (val s t))])

/-- Enabled floating-point exceptions and the precision checks trap before any effect, with the lanes that raise them (R269, R275,
R276, R375). -/
def Obligations.ArithmeticTraps : Prop :=
  ((∀ i f sh lat raises val s t, FloatOp i f sh lat raises val → s.issuesWith t f.c (ops f sh) true →
      raisedIn s t f.c (raises s t) ≠ 0 → exec i s = .next (s.takeTrap t ⟨0x1A, 0, raisedIn s t f.c (raises s t)⟩ t.pc))
    ∧ (∀ i f sh raises val s t, FloatLate i f sh raises val → s.issuesWith t f.c (ops f sh) true →
      raisedIn s t f.c (raises s t) ≠ 0 → exec i s = .next (s.takeTrap t ⟨0x1A, 0, raisedIn s t f.c (raises s t)⟩ t.pc)))
  ∧ (∀ i w f sh now r exact addends raises s t, VpWindow i w f sh now r exact addends raises → s.issuesWith t f.c (ops f sh) true →
      let wide := maskOf fun l => (eff s t f.c).getLsbD l && decide (capacity w < precL t l)
      let guard := maskOf fun l => (eff s t f.c).getLsbD l && match addends s t l with | some (a, b) => cancels t l a b | none => false
      (wide ≠ 0 → exec i s = .next (s.takeTrap t ⟨0x19, 0, wide⟩ t.pc))
        ∧ (wide = 0 → guard ≠ 0 → exec i s = .next (s.takeTrap t ⟨0x18, 0, guard⟩ t.pc))
        ∧ (wide = 0 → guard = 0 → raisedIn s t f.c (raises s t) ≠ 0 →
            exec i s = .next (s.takeTrap t ⟨0x1A, 0, raisedIn s t f.c (raises s t)⟩ t.pc)))

/-- The special functions and roots give the table of R367 for zeros, infinities, NaNs and negative values. -/
def Obligations.SpecialOperands : Prop :=
  ∀ fn zero pinf ninf below, SpecialTable fn zero pinf ninf below →
    asWord (fn .nan) = asWord .nan ∧ asWord (fn (.inf false)) = asWord pinf ∧ asWord (fn (.inf true)) = asWord ninf
      ∧ (∀ n e, asWord (fn (.fin n 0 e)) = asWord (zero n))
      ∧ (∀ m e r, 0 < m → below = some r → asWord (fn (.fin true m e)) = asWord r)

/-- Format-X floating-point instructions of one vector result, `fcmp` to a predicate and `fscale` by a variable power
(R368 to R371, R373). -/
def Obligations.FloatModifierResult : Prop :=
  (∀ i f m sh raises val s t, FloatX i f m sh raises val → f.b = .imm m → s.issuesWith t f.c (ops f sh) true →
      raisedIn s t f.c (raises s t) = 0 → SetsLanes i s t f.c (ops f sh) 6 [(numOf f.d, lanesOf (val s t))])
  ∧ ((∀ f (m : BitVec 18) y s t, f.b = .imm m → typeCode (st m) y → ftyPacked y = false → dt m = 0 → xs m = 0 → m.toNat % 8 ≤ 6 →
      isSpecial f.d = true → s.issuesWith t f.c (ops f ⟨[.vw 1 false, .sp 0 7], [.vr 2 false], []⟩) true →
      ∃ u t', exec (.fcmp f) s = .next u ∧ s.issueKeeps t f.c u t'
        ∧ t.released t' (rel s t (ops f ⟨[.vw 1 false, .sp 0 7], [.vr 2 false], []⟩))
        ∧ t.predSet t' (s.now t + 6) (numOf f.d) (eff s t f.c)
            (maskOf fun l => floatHolds (m.toNat % 8) (elem y (rA s t f 0 l) 0) (elem y (rA s t f 1 l) 0)))
    ∧ (∀ f (m : BitVec 18) y r s t, f.b = .imm m → typeCode (st m) y → dt m = st m → roundsAs m r → xs m = 2 ^ 6 →
        s.issuesWith t f.c (ops f ⟨[.vd 1 false], [.vr 1 false, .sr 1 63], []⟩) true →
        SetsLanes (.fscale f) s t f.c (ops f ⟨[.vd 1 false], [.vr 1 false, .sr 1 63], []⟩) 6 [(numOf f.d, lanesOf fun l =>
          elems1 y (fun a => (ftyFmt y).round r (a.scale (max (-70000) (min 70000 (rD s t f 0 l).toInt)))) (rA s t f 0 l))]))

/-- `fcvtn` narrows eight values of a lane to one microblock: eight codes of 4 bits in vD, or of 8 bits in a pair (R372). -/
def Obligations.NarrowResult : Prop :=
  ∀ f (m : BitVec 18) r y s t, f.b = .imm m → st m = 0 → narrowTy (dt m) (m.getLsbD 11) = some y → xs m < 4 → roundsAs m r →
    let wide := decide (tyWidth y = 8)
    let sh : Shape := ⟨[.vw (if wide then 2 else 1) false], [.vr (if m.getLsbD 12 then 9 else 8) false], []⟩
    let x (l : Nat) : List FNum := (List.range 8).map fun j => asNum (rA s t f j l)
    s.issuesWith t f.c (ops f sh) true → raisedIn s t f.c (fun l => y.noNan && (x l).any FNum.isNan) = 0 →
    let codes (l : Nat) : Nat :=
      packCodes (tyWidth y) (narrowBlock y r (if m.getLsbD 12 then asNum (rA s t f 8 l) else .fin false 1 0) (x l))
    SetsLanes (.fcvtn f) s t f.c (ops f sh) 6
      ((numOf f.d, lanesOf fun l => BitVec.ofNat 32 (codes l))
        :: if wide then [(numOf f.d + 1, lanesOf fun l => BitVec.ofNat 32 (codes l / 2 ^ 32))] else [])

/-- A variable-precision instruction rounds the exact result of each effective lane at the lane's own length and writes the whole
window (R273, R275, R375, R376, R378, R379). -/
def Obligations.PrecisionResult : Prop :=
  ∀ i w f sh now r exact addends raises s t, VpWindow i w f sh now r exact addends raises → s.issuesWith t f.c (ops f sh) true →
    vpQuiet s t f.c w (addends s t) (raises s t) →
    (now = true → SetsLanes i s t f.c (ops f sh) (vpLatency w) (windowOf t w (numOf f.d) r (exact s t)))
      ∧ (now = false → LanesLater i s t f.c (ops f sh) (windowOf t w (numOf f.d) r (exact s t)))

/-- `vpcmp`, `vpcvt` out of a window, `vpsetl` and `vpgetl` (R274, R377, R379, R380). -/
def Obligations.PrecisionOtherResult : Prop :=
  ((∀ w f s t, s.issuesWith t f.c (ops f ⟨[.vw 1 false], [.vr w.n true], [.vr w.n true]⟩) true →
      vpQuiet s t f.c w (fun _ => none) (fun _ => false) →
      SetsLanes (.vpcmp w f) s t f.c (ops f ⟨[.vw 1 false], [.vr w.n true], [.vr w.n true]⟩) (vpLatency w)
        [(numOf f.d, lanesOf fun l =>
          let a := vA s t f w.n l
          let b := vB s t f w.n l
          if a = .nan ∨ b = .nan then 2 else if a.lt b then 0xFFFFFFFF#32 else if b.lt a then 1 else 0)])
    ∧ (∀ w f (m : BitVec 18) r y s t, f.b = .imm m → st m = 15 → vpcvtTy (dt m) = some y → xs m = 0 → roundsAs m r →
        s.issuesWith t f.c (ops f ⟨[.vw 1 false], [.vr w.n true], []⟩) true →
        vpQuiet s t f.c w (fun _ => none) (fun l => (vA s t f w.n l).isNan && y.noNan) →
        SetsLanes (.vpcvt w f) s t f.c (ops f ⟨[.vw 1 false], [.vr w.n true], []⟩) (vpLatency w)
          [(numOf f.d, lanesOf fun l => y.place r (vA s t f w.n l))]))
  ∧ ((∀ f (m : BitVec 18) s t, f.b = .imm m → m.toNat < 8 → t.pcfg.length = 96 →
      s.issuesWith t f.c (ops f ⟨[.unused], [.vr 1 false, .sr 1 63, .imm], []⟩) true →
      ∃ u t', exec (.vpsetl f) s = .next u ∧ s.restKept u ∧ s.othersKept u t ∧ u.becomes t t' ∧ t'.pc = t.pc + 12
        ∧ t'.flags = t.flagged f.c ∧ { t' with pcfg := t.pcfg }.specials = t.specials ∧ t'.sregs = t.sregs ∧ t'.preds = t.preds
        ∧ t.released t' (rel s t (ops f ⟨[.unused], [.vr 1 false, .sr 1 63, .imm], []⟩))
        ∧ ∀ l, l < 96 → t'.pcfg.getD l 0 =
            if (eff s t f.c).getLsbD l then newPcfg m (t.pcfg.getD l 0) (rA s t f 0 l) else t.pcfg.getD l 0)
    ∧ (∀ f s t, f.b = .imm 0 → s.issuesWith t f.c (ops f ⟨[.vw 1 false], [.unused], []⟩) true →
        SetsLanes (.vpgetl f) s t f.c (ops f ⟨[.vw 1 false], [.unused], []⟩) 6
          [(numOf f.d, lanesOf fun l => (t.pcfg.getD l 0).setWidth 32)]))

/-! ## Memory instructions -/

/-- A per-lane memory instruction whose lanes are aligned issues and hands over one request for each effective lane, at the lane's
effective address, with its data and attributes; a counted one raises its arrival counter, and the names that its replies write
are mapped and unwritten until then (R143, R385, R387, R400). -/
def Obligations.LaneMemoryRequests : Prop :=
  ∀ i f sh rule unit align back land req s t, LaneMemory i f sh rule unit align back land req →
    s.issuesWith t f.c (opsM f sh) (f.attr.fits rule) → fits i s t f.c →
    s.memHold (s.atIssue t) (back.map fun _ => f.attr.ac.toNat) (order f).releases (scope f) = false →
    (∀ l, l < 96 → (eff s t f.c).getLsbD l = true → (address s t f unit l).toNat % align = 0) →
    let names := (List.range (back.getD 0)).map (numOf f.d + ·)
    (eff s t f.c = 0 → SendsNothing i s t f.c (opsM f sh) names)
      ∧ (eff s t f.c ≠ 0 → Sends i s t f.c (opsM f sh)
          ⟨back.map fun _ => f.attr.ac.toNat, none, f.attr.size, back.isNone, policy f, scope f, order f,
            (lanesIn (eff s t f.c)).map fun l => (l, (req s t l).1, address s t f unit l, (req s t l).2.1, (req s t l).2.2.1, (req s t l).2.2.2)⟩
          names fun t' => land (names.map fun n => (n, t'.token n)))

/-- `sld` and `sst` hand over one request for the troupe, `cpf` prefetches that no record counts (R341, R342, R398). -/
def Obligations.OtherMemoryRequests : Prop :=
  ((∀ f s t, s.issuesWith t f.c (opsM f ⟨[if regsOf f = 2 then .sw 2 60 else .sw 1 63], [.sr 2 60], []⟩)
        (f.attr.fits ⟨[0, 1, 2, 3, 4, 5], [0, 1], true, true, 5, List.range 64⟩) →
      s.memHold (s.atIssue t) (some f.attr.ac.toNat) false .tr = false →
      let a := (s.rdWord (s.atIssue t) 1 f.a 1 ++ s.rdWord (s.atIssue t) 1 f.a 0) + BitVec.ofInt 64 (f.attr.ofs.toInt * bytesOf f)
      (takes s t f.c = false → ∃ u t', exec (.sld f) s = .next u ∧ s.issueKeeps t f.c u t' ∧ t.regsKept t')
        ∧ (takes s t f.c = true → a.toNat % bytesOf f = 0 →
            Sends (.sld f) s t f.c (opsM f ⟨[if regsOf f = 2 then .sw 2 60 else .sw 1 63], [.sr 2 60], []⟩)
              ⟨some f.attr.ac.toNat, f.c.flag, f.attr.size, false, policy f, scope f, order f,
                [(0, .load f.attr.size, a, bytesOf f, [], [])]⟩ [] fun _ => .scalar (numOf f.d) (regsOf f == 2)))
    ∧ (∀ f s t, s.issuesWith t f.c (opsM f ⟨[if regsOf f = 2 then .sr 2 60 else .sr 1 63, .imm], [.sr 2 60], []⟩)
        (f.attr.fits ⟨[0, 1, 2, 3, 4, 5], [0, 2], false, true, 5, List.range 64⟩) →
      s.memHold (s.atIssue t) none (order f).releases (scope f) = false →
      let a := (s.rdWord (s.atIssue t) 1 f.a 1 ++ s.rdWord (s.atIssue t) 1 f.a 0) + BitVec.ofInt 64 (f.attr.ofs.toInt * bytesOf f)
      (takes s t f.c = false → ∃ u t', exec (.sst f) s = .next u ∧ s.issueKeeps t f.c u t' ∧ t.regsKept t')
        ∧ (takes s t f.c = true → a.toNat % bytesOf f = 0 →
            Sends (.sst f) s t f.c (opsM f ⟨[if regsOf f = 2 then .sr 2 60 else .sr 1 63, .imm], [.sr 2 60], []⟩)
              ⟨none, none, f.attr.size, true, policy f, scope f, order f,
                [(0, .store, a, bytesOf f, dataBytes s t f 0 (bytesOf f) 0, [])]⟩ [] fun _ => .nothing)))
  ∧ (∀ f s t, s.issuesWith t f.c (opsM f ⟨[.unused], shPair, []⟩) (f.attr.fits ⟨[0], [0], false, true, 0, List.range 64⟩) → s.memFree t →
      ∃ base t' id rs, exec (.cpf f) s = .next (base.addReqs rs) ∧ handsOver s t f.c base t' none
        ∧ t.lanesSet t' (rel s t (opsM f ⟨[.unused], shPair, []⟩)) (s.now t + 1) 0 [] ∧ base.splits = s.splits
        ∧ leaves s t ⟨none, none, 0, true, policy f, .tr, .plain, (lanesIn (eff s t f.c)).map fun l =>
            (l, .prefetch, BitVec.ofNat 64 ((address s t f 64 l).toNat / 64 * 64), 64, [], [])⟩ id rs)

/-- Lanes whose effective address is not aligned make a load, store or atomic trap with MISALIGN before any effect: the address of
the lowest one, and all of them listed (R385). -/
def Obligations.MisalignedAccessTraps : Prop :=
  ∀ i f sh rule unit align back land req s t, LaneMemory i f sh rule unit align back land req → fits i s t f.c →
    s.issuesWith t f.c (opsM f sh) (f.attr.fits rule) →
    let bad := maskOf fun l => (eff s t f.c).getLsbD l && (address s t f unit l).toNat % align != 0
    ∀ l, lowest bad = some l → exec i s = .next (s.takeTrap t ⟨0x05, address s t f unit l, bad⟩ t.pc)

/-- What handing requests over may change: requests, park table and resolvers, the homes' published phases and order-network queues,
the D bits of page table entries (R161), and a troupe's record of the dies it has sent to. No other bit of memory, no register, no
counter and no record of an instruction changes. -/
def Obligations.RequestsKeepState : Prop :=
  ∀ (s : State) rs, let u := s.addReqs rs
    u.splits = s.splits ∧ u.wgs = s.wgs ∧ u.ctxs = s.ctxs ∧ u.bufs = s.bufs ∧ u.pipes = s.pipes ∧ u.levels = s.levels ∧ u.graphs = s.graphs
      ∧ u.troupes.map (fun t => { t with sent := 0 }) = s.troupes.map (fun t => { t with sent := 0 })
      ∧ (∀ q ∈ s.reqs, (∀ r ∈ rs, r.id ≠ q.id) → q.id < s.fresh → q ∈ u.reqs)
      ∧ (s.migrs = [] → ∀ a, u.viewByte a = s.viewByte a
          ∨ u.viewByte a = s.viewByte a ||| 0x80#8 ∧ ∃ r ∈ rs, memWrites r.op = true)

/-- `ldsp` reads its buffers at issue, in each effective lane whose scratchpad address the workgroup holds; `stsp` writes the lanes'
bytes there, lane by lane, and touches no memory (R155, R156, R389). -/
def Obligations.ScratchpadAccess : Prop :=
  (∀ f s t, s.issuesWith t f.c (opsM f ⟨[.vw (regsOf f) false], shPair, []⟩) (f.attr.fits ⟨[0, 1, 2, 3, 4, 5], [0, 1], true, false, 2, List.range 64⟩) →
    s.memHold (s.atIssue t) (some f.attr.ac.toNat) false .tr = false →
    (∀ l, l < 96 → (eff s t f.c).getLsbD l = true → (address s t f (bytesOf f) l).toNat % bytesOf f = 0
      ∧ (s.scratch? t (address s t f (bytesOf f) l).toNat (bytesOf f)).isSome = true) → eff s t f.c ≠ 0 →
    ∃ u t' id, exec (.ldsp f) s = .next u ∧ u.mem = s.mem ∧ u.bufs = s.bufs ∧ s.othersKept u t ∧ u.becomes t t' ∧ t'.pc = t.pc + 12
      ∧ t'.flags = t.flagged f.c ∧ t'.sregs = t.sregs ∧ t'.preds = t.preds ∧ t'.acs = t.acs.modify f.attr.ac.toNat (· + 1)
      ∧ (∃ p ∈ u.splits, p.id = id ∧ p.wg = t.wg ∧ p.trix = t.trix ∧ p.ac = some f.attr.ac.toNat ∧ p.left = (lanesIn (eff s t f.c)).length)
      ∧ ∀ l, l < 96 → (eff s t f.c).getLsbD l = true → ∀ core buf ofs,
          s.scratch? t (address s t f (bytesOf f) l).toNat (bytesOf f) = some (core, buf, ofs) →
          ∃ r ∈ u.reqs, r.split = id ∧ r.lane = l ∧ r.stage = .answered
            ∧ (match s.padRead core buf ofs (bytesOf f) with | .ok b => r.result = b ∧ r.fault = none | .error e => r.fault = some e))
  ∧ (∀ f s t, s.issuesWith t f.c (opsM f ⟨shData (regsOf f), shPair, []⟩) (f.attr.fits ⟨[0, 1, 2, 3, 4, 5], [0, 2], false, false, 2, List.range 64⟩) →
    s.memHold (s.atIssue t) none false .tr = false → f.attr.ord = 0 →
    (∀ l, l < 96 → (eff s t f.c).getLsbD l = true → (address s t f (bytesOf f) l).toNat % bytesOf f = 0
      ∧ (s.scratch? t (address s t f (bytesOf f) l).toNat (bytesOf f)).isSome = true) →
    let place (l : Nat) : Option (Nat × Nat × Nat) := s.scratch? t (address s t f (bytesOf f) l).toNat (bytesOf f)
    let hits (core buf k l : Nat) : Bool := (eff s t f.c).getLsbD l && match place l with
      | some (c, b, ofs) => c == core && b == buf && decide (ofs ≤ k) && decide (k < ofs + bytesOf f)
      | none => false
    ∃ u t', exec (.stsp f) s = .next u ∧ u.mem = s.mem ∧ u.reqs = s.reqs ∧ u.splits = s.splits ∧ s.othersKept u t ∧ u.becomes t t'
      ∧ t'.pc = t.pc + 12 ∧ t'.flags = t.flagged f.c ∧ t'.sregs = t.sregs ∧ t'.preds = t.preds ∧ t'.acs = t.acs
      ∧ ∀ core idx b, s.buf? core idx = some b → ∃ b', u.buf? core idx = some b' ∧ ∀ k, k < 8192 →
          match (List.range 96).reverse.find? (hits core idx k) with
          | none => b'.get k = b.get k
          | some l => ∀ ofs, place l = some (core, idx, ofs) → some (b'.get k) = (dataBytes s t f 0 (bytesOf f) l)[k - ofs]?)


/-! ## Instructions that end by a later event -/

namespace Sys2Proof.Claims

/-- The instruction issues and is under way until an event ends it: its flag is set, what it will write counts as unwritten. One
that releases at `.dev` or `.sys` closes the die's store phase (R239). -/
def UnderWay (i : Instr) (s : State) (t : Troupe) (c : Ctl) (o : Opnds) (names : List Nat) (closes holds : Bool)
    (act : Troupe → PendAct) (rs : List RegId) : Prop :=
  ∃ u t' k, exec i s = .next u ∧ s.othersKept u t ∧ u.becomes t t' ∧ t'.pc = t.pc + 12 ∧ t'.flags = t.flagged c
    ∧ t.lanesSet t' (rel s t o) (s.now t + 1) 0 (names.map fun n => (n, []))
    ∧ t'.pend = t.pend ++ [⟨k, c.flag, act t', holds⟩] ∧ (∀ r ∈ rs, t'.hazardous r = true)
    ∧ u.mem = s.mem ∧ u.lines = s.lines ∧ u.reqs = s.reqs ∧ u.wgs = s.wgs ∧ u.ctxs = s.ctxs ∧ u.copies = s.copies
    ∧ (closes = false → s.restKept u ∧ t'.specials = t.specials)
    ∧ (closes = true → { t' with sph := t.sph, phLives := t.phLives }.specials = t.specials ∧ t'.sph = (s.die t.die).dph
        ∧ (t.die < s.dies.length → (u.die t.die).dph = (s.die t.die).dph + 1))

/-- The instruction issues without effect. -/
abbrev Passes (i : Instr) (s : State) (t : Troupe) (c : Ctl) (o : Opnds) : Prop := SendsNothing i s t c o []

def opsC (f : MForm) (sh : Shape) : Opnds := ⟨f.d, f.a, .imm 0, sh⟩
def sReg (n : Nat) : List RegId := ([n].filter (· < 61)).map RegId.s

/-- The tags that a mask register pair names, lowest first, among the n declared ones (R418). -/
def tagsNamed (s : State) (t : Troupe) (f : OForm) (w : Workgroup) : List Nat :=
  (List.range 64).filter fun n => (sA s t f 1 ++ sA s t f 0 : DWord).getLsbD n && decide (n < w.ntags)

/-- FAULT, tag number and STAT of a tag as a result word (R418). -/
def resultWord (w : Workgroup) (n : Nat) : Word := (0#8 ++ ((w.tag n).fault ++ (BitVec.ofNat 8 n ++ (w.tag n).stat)))

/-- The three instructions with a result that look at tags: none while the instruction waits (R418). -/
inductive TagResult : (OForm → Instr) → (Workgroup → List Nat → Option Word) → Prop
  | any : TagResult .tagwany fun w m =>
      if m = [] then some 0xFFFFFFFF#32 else (m.find? fun n => (w.tag n).done).map (resultWord w)
  | all : TagResult .tagwall fun w m => if ∀ n ∈ m, (w.tag n).done = true
      then some (match m.find? fun n => decide ((w.tag n).stat ≠ 0) with | some n => resultWord w n | none => 0) else none
  | first : TagResult .tagfirst fun w m => some (match m.find? fun n => (w.tag n).done with | some n => resultWord w n | none => 0xFFFFFFFF#32)

/-- The register numbers of R451. -/
def specialNumber (n : Nat) : Prop :=
  n ≤ 6 ∨ 8 ≤ n ∧ n ≤ 0xD ∨ 0x10 ≤ n ∧ n ≤ 0x15 ∨ 0x20 ≤ n ∧ n ≤ 0x3F

/-- Instructions that take effect once per issue and end later: operands, legal modifier, what must hold for issue, whether they
close a phase and hold memory-group instructions back, what is under way, the register still to be written (R199, R394 to R396, R418,
R420, R447, R451). -/
inductive EndsLater : Instr → Ctl → Opnds → Bool → (State → Troupe → Prop) → Bool → Bool → (State → Troupe → Troupe → PendAct) →
    List RegId → Prop
  | fence (f : MForm) : EndsLater (.fence f) f.c (opsC f ⟨[.unused], [.unused], []⟩) (f.attr.fits ⟨[0], [1, 2, 3], false, false, 5, [0]⟩)
      (fun s t => s.memHold (s.atIssue t) none (order f).releases (scope f) = false) ((order f).releases && (scope f).wide) true
      (fun _ _ _ => .fence (order f).acquires (order f).releases (scope f)) []
  | phadv (f : OForm) : isScal f.d = true → EndsLater (.phadv f) f.c (ops f ⟨[.sw 1 60, .unused], [.unused], [.unused]⟩) true State.memFree
      false true (fun _ _ _ => .phadv (some (numOf f.d))) (sReg (numOf f.d))
  | phadvNone (f : OForm) : isScal f.d = false → EndsLater (.phadv f) f.c (ops f ⟨[.sw 1 60, .unused], [.unused], [.unused]⟩) true
      State.memFree false true (fun _ _ _ => .phadv none) []
  | phwait (f : OForm) : EndsLater (.phwait f) f.c (ops f ⟨[.unused], [.sr 1 63, .imm], [.sr 1 63, .imm]⟩) true State.memFree false true
      (fun s t _ => .phwait ((sA s t f 0).toNat % 32) ((sB s t f 0).setWidth 16)) []
  | shflush (f : OForm) : EndsLater (.shflush f) f.c (ops f ⟨[.sw 1 60], [.sr 1 63], [.unused]⟩) true
      (fun s t => s.memHold (s.atIssue t) none true .dev = false ∧ (takes s t f.c = true → (sA s t f 0).toNat < 32)) false false
      (fun s t _ => .shflush (numOf f.d) ((sA s t f 0).toNat % 16) 0 (decide (16 ≤ (sA s t f 0).toNat)) false 0) (sReg (numOf f.d))
  | tags (f : OForm) (i res v) : TagResult i res → EndsLater (i f) f.c (ops f ⟨[.sw 1 60], [.sr 2 60], [.unused]⟩) true
      (fun s t => s.memFree t ∧ ∃ w, s.wgOf t = some w ∧ res w (tagsNamed s t f w) = some v) false false
      (fun _ _ _ => .sregs [(numOf f.d, v)]) (sReg (numOf f.d))
  | rcnt (f : OForm) : EndsLater (.rcnt f) f.c (ops f ⟨[.sw 1 60], [.sr 1 63, .imm], [.unused]⟩) true State.memFree false false
      (fun s t _ => .rcnt ((sA s t f 0).toNat % 256) (numOf f.d)) (sReg (numOf f.d))
  | rcntadd (f : OForm) : EndsLater (.rcntadd f) f.c (ops f ⟨[.unused], [.sr 1 63, .imm], [.sr 1 63, .imm]⟩) true
      (fun s t => s.memHold (s.atIssue t) none true .dev = false) true false
      (fun s t t' => .rcntadd ((sA s t f 0).toNat % 256) (sB s t f 0) t'.sph) []
  | lvlid (f : OForm) : EndsLater (.lvlid f) f.c (ops f ⟨[.sw 1 60], [.sr 1 63, .imm], [.unused]⟩) true State.memFree false false
      (fun s t _ => .lvlid ((sA s t f 0).toNat % 4) (numOf f.d)) (sReg (numOf f.d))
  | sreg (f : OForm) (m : BitVec 18) : f.b = .imm m → specialNumber m.toNat →
      EndsLater (.sreg f) f.c (ops f ⟨[.sw 2 60], [.unused], []⟩) true (fun _ _ => True) false false
      (fun s t _ => .special (s.special t m.toNat) (numOf f.d)) (sReg (numOf f.d) ++ sReg (numOf f.d + 1))

/-- An instruction under way has ended: it is no longer among those under way, its flag is clear, the scalar registers of `ws` hold
their results unless an unordered later one stays (R142, R144), and everything else is as it was. -/
def Ended (i : Instr) (s : State) (t : Troupe) (p : Pend) (ws : List (Nat × Word)) (keeps : State → State → Prop) : Prop :=
  ∃ u t', exec i s = .next u ∧ keeps s u ∧ s.othersKept u t ∧ u.becomes t t' ∧ t'.pc = t.pc ∧ t'.preds = t.preds ∧ t'.regs = t.regs
    ∧ t'.pend = t.pend.filter (fun q => q.k != p.k)
    ∧ t'.flags = (match p.flag with | some f => t.flags &&& ~~~(1#12 <<< f) | none => t.flags)
    ∧ (∀ n, (∀ w ∈ ws, w.1 ≠ n) → t'.sregs[n]? = t.sregs[n]?)
    ∧ ∀ w ∈ ws, t.landsLast (.s w.1) (s.now t) 0 → t'.sregs[w.1]? = t.sregs[w.1]?.map fun _ => w.2

/-- The release that an instruction under way makes, if it makes one, has nothing left to wait for (R388). -/
def released (s : State) (t : Troupe) (p : Pend) : Prop :=
  match p.act with
  | .fence acq rel sc => (rel = true → s.releaseDone t p.k sc t.sph = true) ∧ (acq = true → s.landedBefore t p.k = true)
  | _ => True

/-- What is under way, when its time has come, and the scalar registers that its end writes. -/
inductive EndsWith (s : State) (t : Troupe) (p : Pend) : List (Nat × Word) → Prop
  | done : p.act = .done → EndsWith s t p []
  | results (ws) : p.act = .sregs ws → (ws.map Prod.fst).Nodup → EndsWith s t p ws
  | fence (rel sc) : p.act = .fence false rel sc → released s t p → EndsWith s t p []
  | phwait (h ph) : p.act = .phwait h ph → (h = t.die ∨ phaseReached ((s.die h).phcomp.getD t.die 0) ph = true
      ∨ ∃ life, t.phLives[h]? = some life ∧ life ≠ s.lifeOf h) → EndsWith s t p []
  | range : p.act = .range [] → EndsWith s t p []
  | special (v : DWord) (d) : p.act = .special v d → EndsWith s t p [(d, v.setWidth 32), (d + 1, v.extractLsb' 32 32)]
  | rcnt (k d w c) : p.act = .rcnt k d → s.wgOf t = some w → s.ctx? w.ctx = some c → EndsWith s t p [(d, c.counter k)]
  | lvlid (sel d) : p.act = .lvlid sel d → EndsWith s t p [(d, match s.selLevel t sel with
      | none => 1
      | some l => if (s.cancelOf l.id).isSome then 2 else 0)]
  | lvlcancel (sel w q) : p.act = .lvlcancel sel → s.wgOf t = some w → s.part w.part = some q → (∀ x ∈ q.cancels, x.1 ≠ p.k) →
      EndsWith s t p []
  | mrdy : p.act = .mrdy → s.landedBefore t p.k = true → t.resultsIn p.k = true → EndsWith s t p []

/-- The context registers that `sreg` reads are the context's own, the trap registers the troupe's (R248, R451). -/
inductive SpecialValue (s : State) (t : Troupe) (c : Ctx) : Nat → DWord → Prop
  | place : SpecialValue s t c 0x00 c.place
  | seed : SpecialValue s t c 0x01 c.seed
  | ptb : SpecialValue s t c 0x02 c.ptb
  | shard : SpecialValue s t c 0x03 c.shard
  | trap : SpecialValue s t c 0x04 c.trap
  | save : SpecialValue s t c 0x05 c.save
  | comp : SpecialValue s t c 0x06 c.comp
  | leaselog2 : SpecialValue s t c 0x0C (BitVec.ofNat 64 (s.die t.die).leaseLog2)
  | tstat : SpecialValue s t c 0x10
      (0#16 ++ (t.errpend ++ (0#15 ++ (BitVec.ofBool t.stfail ++ (0#7 ++ (BitVec.ofBool t.intrap ++ t.cause))))))
  | taddr : SpecialValue s t c 0x11 t.taddr
  | tpc : SpecialValue s t c 0x12 t.tpc
  | tlanes (k) : k < 3 → SpecialValue s t c (0x13 + k) ((t.tlanes.extractLsb' (32 * k) 32).setWidth 64)
  | ncbase (k) : k < 16 → SpecialValue s t c (0x20 + k) (c.ncbase.getD k 0)
  | nclim (k) : k < 16 → SpecialValue s t c (0x30 + k) (c.nclim.getD k 0)

/-! ## Looking at memory from a wait -/

/-- A check of a waiting troupe reads `b` at its address: no access of its own to the n bytes that it waits on is outstanding (R208), the
page translates (R393), no store of the die to the line is under way, and the home answers: it is reached with the life that its
router knows (R13, R39), its link takes requests (R42, R48), and it has the line and its data (R172, R177, R218). -/
def Looks (s : State) (t : Troupe) (va : DWord) (n : Nat) (b : List Byte) : Prop :=
  s.pendingAt t va n = false ∧ ∃ c loc p, s.ctxOf t = some c ∧ s.translate c t.die .read va = .at loc p ∧ locKind loc ≠ 15
    ∧ s.gap t.die (c.homeOf t.die loc) = none ∧ s.storeUnder t.die (loc / 64) = false ∧ s.farFault c loc b.length = none
    ∧ s.lost? (c.homeOf t.die loc) (loc / 64) = none ∧ s.notPresent loc b.length = false ∧ s.badLines loc b.length = none
    ∧ s.view loc b.length = b

/-- The wait of `t` is over, with the registers of `ws` written: the troupe goes on to the next instruction. -/
def WaitOver (i : Instr) (s : State) (t : Troupe) (ws : List (Nat × Word)) : Prop :=
  ∃ u t', exec i s = .next u ∧ u.mem = s.mem ∧ u.wgs = s.wgs ∧ u.reqs = s.reqs ∧ s.othersKept u t ∧ u.becomes t t' ∧ t'.pc = t.pc + 12
    ∧ t'.wait = .none ∧ t'.preds = t.preds ∧ (∀ n, (∀ w ∈ ws, w.1 ≠ n) → t'.sregs[n]? = t.sregs[n]?)
    ∧ ∀ w ∈ ws, w.1 < 61 → t'.sregs[w.1]? = t.sregs[w.1]?.map fun _ => w.2

/-- The troupe stands in a wait, and nothing else has changed but its flag. -/
def WaitsOn (i : Instr) (s : State) (t : Troupe) (c : Ctl) (w : Wait) : Prop :=
  ∃ u t', exec i s = .next u ∧ u.mem = s.mem ∧ u.wgs = s.wgs ∧ u.reqs = s.reqs ∧ s.othersKept u t ∧ u.becomes t t' ∧ t'.pc = t.pc
    ∧ t'.wait = w ∧ t'.flags = t.flagged c ∧ t.regsKept t'

def leW (b : List Byte) : DWord := BitVec.ofNat 64 (leNat b)

/-- Whether the waiters of generation g are left behind by an object whose latest `barinit` made `igen` (R410). -/
abbrev leftBehind (igen g : Nat) : Prop := 1 ≤ (igen + 2 ^ 32 - g) % 2 ^ 32 ∧ (igen + 2 ^ 32 - g) % 2 ^ 32 < 2 ^ 31

/-- An object whose first bytes are `b` traps a waiter of generation g with BARSTALE: it is invalid, or its generation has gone on by a
`barinit` that leaves the waiter behind (R410). -/
def staleObject (b : List Byte) (g : Nat) : Prop := byteAt b 16 ≠ 1 ∨ leAt b 0 4 ≠ g ∧ leftBehind (leAt b 12 4) g

/-! ## Cache ranges -/

/-- A line that a range instruction of die, core and context treats: one that the range [a, a + n) touches in a page in state 001, or
110 of kind 0x8 or 0x9, with R permission (R397). -/
def inRange (s : State) (c : Ctx) (a n ln : Nat) : Prop :=
  ∃ page i p level at_ loc, i < 64 ∧ 4096 * page + 64 * i < a + n ∧ a < 4096 * page + 64 * i + 64 ∧ n ≠ 0
    ∧ s.walk c (BitVec.ofNat 64 (4096 * page)) = .leaf p level at_ ∧ pteR p = true
    ∧ (pteShare p = 1 ∨ pteShare p = 6 ∧ (pteKind p = 8 ∨ pteKind p = 9))
    ∧ c.locOf (leafPa p level (BitVec.ofNat 64 (4096 * page))) = some loc ∧ ln = loc / 64 + i

/-- The three instructions: whether the copies stay, and whether dirty window lines are dropped without being written back
(R225). -/
inductive RangeInstr : (OForm → Instr) → Bool → Bool → Prop
  | cwb : RangeInstr .cwb true false
  | cinv : RangeInstr .cinv false false
  | cinvd : RangeInstr .cinvd false true

/-! ## Objects of one address -/

/-- The lane that gives the address, and the address (R404). -/
def leader (s : State) (t : Troupe) (c : Ctl) (a : Operand) : Nat := if isVec a then (lowest (eff s t c)).getD 0 else 0
def leaderVa (s : State) (t : Troupe) (c : Ctl) (a : Operand) : DWord :=
  if isVec a then lane (s.rdLanes (s.atIssue t) 1 a 1) (leader s t c a) ++ lane (s.rdLanes (s.atIssue t) 1 a 0) (leader s t c a)
  else s.rdWord (s.atIssue t) 1 a 1 ++ s.rdWord (s.atIssue t) 1 a 0

/-- Whether the instruction acts: with a vector operand when a lane is effective, else when its guard has a bit (R404). -/
def acts (s : State) (t : Troupe) (c : Ctl) (vec : Bool) : Prop := if vec then eff s t c ≠ 0 else takes s t c = true

/-- The effective lanes agree on the registers of a vector operand (R295). -/
def agree (s : State) (t : Troupe) (c : Ctl) (k w : Nat) (a : Operand) : Prop :=
  isVec a = true → ∀ l m j, l < 96 → m < 96 → j < w → (eff s t c).getLsbD l = true → (eff s t c).getLsbD m = true →
    lane (s.rdLanes (s.atIssue t) k a j) l = lane (s.rdLanes (s.atIssue t) k a j) m

end Sys2Proof.Claims

/-- A fence, a phase instruction, a read of a special register, of a counter, of tags or of a level, a counter addition and
`shflush` issue, and are under way until the event that ends them; with a guard of no bits they have no effect. -/
def Obligations.UnderWayInstructions : Prop :=
  ∀ i c o mod cond closes holds act rs s t, EndsLater i c o mod cond closes holds act rs → s.issuesWith t c o mod → cond s t →
    (takes s t c = true → UnderWay i s t c o [] closes holds (act s t) rs) ∧ (takes s t c = false → Passes i s t c o)

/-- `VARIABLE_RESULT_WRITE` ends an instruction under way whose time has come, writes its results and clears its flag; what a read of
a special register gives (R142, R145, R248, R394 to R396, R420, R436, R447, R451). -/
def Obligations.ResultsLand : Prop :=
  (∀ s t p ws, s.troupe? t.wg t.trix = some t → t.pend? p.k = some p → EndsWith s t p ws → (∀ w ∈ ws, w.1 < 64) →
      Ended (.variableResultWrite t.wg t.trix p.k) s t p ws State.restKept)
  ∧ (∀ s t c n v, s.ctxOf t = some c → SpecialValue s t c n v → s.special t n = v)

/-- The results that act on more than registers: an acquire fence drops untracked copies (R205), `phadv` closes the die's phase and
returns it (R395), a counter addition is one atomic step (R420), a vector result reaches the lanes of its mapping (R145). -/
def Obligations.ResultsActOutside : Prop :=
  (∀ s t p rel sc, s.troupe? t.wg t.trix = some t → t.pend? p.k = some p → p.act = .fence true rel sc → released s t p →
    Ended (.variableResultWrite t.wg t.trix p.k) s t p [] fun s u => u.mem = s.mem ∧ u.reqs = s.reqs ∧
      ∀ l, l ∈ u.lines ↔ l ∈ s.lines ∧ ¬(l.tracked = false ∧ l.excl = false ∧ l.window = false ∧ l.die = t.die
        ∧ match sc with
          | .tr | .wg => False
          | .cl | .die => l.core = some t.core
          | .dev | .sys => l.core = some t.core ∨ l.core = none))
  ∧ (∀ s t p d, s.troupe? t.wg t.trix = some t → t.pend? p.k = some p → p.act = .phadv (some d) → d < 64 → t.die < s.dies.length →
      (∀ h, h < s.dies.length → ((s.die t.die).dph - (s.die h).phcomp.getD t.die 0).toNat < 2 ^ 15 - 1) →
      Ended (.variableResultWrite t.wg t.trix p.k) s t p [(d, ((s.die t.die).dph).setWidth 32)] fun s u =>
        u.mem = s.mem ∧ u.lines = s.lines ∧ u.reqs = s.reqs ∧ (u.die t.die).dph = (s.die t.die).dph + 1)
  ∧ (∀ s t p k v ph w c, s.troupe? t.wg t.trix = some t → t.pend? p.k = some p → p.act = .rcntadd k v ph →
      s.releaseDone t p.k .dev ph = true → s.wgOf t = some w → s.ctx? w.ctx = some c →
      Ended (.variableResultWrite t.wg t.trix p.k) s t p [] fun s u => u.mem = s.mem ∧ u.reqs = s.reqs ∧
        ∃ c', u.ctx? w.ctx = some c' ∧ c'.counter k = c.counter k + v ∧ ∀ j, j ≠ k → c'.counter j = c.counter j)
  ∧ (∀ s t p n tok m (v : Lanes), s.troupe? t.wg t.trix = some t → t.pend? p.k = some p → p.act = .vregs [(n, tok)] m [v] →
      ∃ u t', exec (.variableResultWrite t.wg t.trix p.k) s = .next u ∧ s.restKept u ∧ s.othersKept u t ∧ u.becomes t t'
        ∧ t'.sregs = t.sregs ∧ t'.preds = t.preds ∧ t'.pend = t.pend.filter (fun q => q.k != p.k)
        ∧ ∀ r, t.vreg? n = some r → ∀ l, l < 96 →
          (r.token ≠ tok ∨ m.getLsbD l = false → lane (t'.vval n) l = lane (t.vval n) l)
            ∧ (r.token = tok → m.getLsbD l = true → t.landsLast (.v n) (s.now t) l → lane (t'.vval n) l = lane v l))

/-- `waitac` waits while its counter is above n; then it passes and clears its ERRPEND bit, or traps with the code and address of
the lowest lane whose fault entry is valid, and lists every such lane (R143, R251). -/
def Obligations.ArrivalWait : Prop :=
  ∀ f s t, s.issuesWith t f.c (ops f ⟨[.sp 16 31], [.immIn 0 63], [.unused]⟩) true → s.memFree t →
    let k := numOf f.d - 16
    let n := match f.a with | .imm v => v.toNat | _ => 0
    let listed : Mask := maskOf fun l => (t.faults.getD l 0).getLsbD 63
    (takes s t f.c = true → n < t.acs.getD k 0 → exec (.waitac f) s = .next s)
    ∧ (takes s t f.c = false → Passes (.waitac f) s t f.c (ops f ⟨[.sp 16 31], [.immIn 0 63], [.unused]⟩))
    ∧ (takes s t f.c = true → t.acs.getD k 0 ≤ n → (t.errpend.getLsbD k = false ∨ t.intrap = true ∨ listed = 0) →
        ∃ u t', exec (.waitac f) s = .next u ∧ s.restKept u ∧ s.othersKept u t ∧ u.becomes t t' ∧ t.regsKept t' ∧ t'.pc = t.pc + 12
          ∧ t'.flags = t.flagged f.c ∧ { t' with errpend := t.errpend }.specials = t.specials
          ∧ ∀ j, j < 16 → t'.errpend.getLsbD j = (t.errpend.getLsbD j && (t.intrap || j != k)))
    ∧ (∀ l, takes s t f.c = true → t.acs.getD k 0 ≤ n → t.errpend.getLsbD k = true → t.intrap = false → lowest listed = some l →
        exec (.waitac f) s = .next (s.takeTrap { s.atIssue t with errpend := t.errpend &&& ~~~(1#16 <<< k) }
          ⟨(t.faults.getD l 0).extractLsb' 54 8, ((t.faults.getD l 0).extractLsb' 0 48).setWidth 64, listed⟩ t.pc))

/-- `waitmem` compares the location with sD, ends with the new value when they differ, and else stands in the wait, in which the
check is made again (R393). -/
def Obligations.MemoryWait : Prop :=
  (∀ f s t l (b : List Byte), s.issuesWith t f.c (opsC f ⟨[.sd (regsOf f) 60], shPair, []⟩) (f.attr.fits ⟨[4, 5], [0, 1], false, true, 5, List.range 64⟩) →
    s.memFree t → lowest (eff s t f.c) = some l → agree s t f.c 1 2 f.a → (address s t f (bytesOf f) l).toNat % bytesOf f = 0 →
    b.length = bytesOf f → Looks s t (address s t f (bytesOf f) l) (bytesOf f) b →
    let old : DWord := (if regsOf f = 2 then s.rdWord (s.atIssue t) 0 f.d 1 else 0#32) ++ s.rdWord (s.atIssue t) 0 f.d 0
    (leW b ≠ old → WaitOver (.waitmem f) s t ((numOf f.d, (leW b).setWidth 32)
        :: if regsOf f = 2 then [(numOf f.d + 1, (leW b).extractLsb' 32 32)] else []))
      ∧ (leW b = old → WaitsOn (.waitmem f) s t f.c (.mem (address s t f (bytesOf f) l) l (numOf f.d) (regsOf f == 2) (policy f) (scope f)
          (f.attr.ord == 1) f.c.flag old (rel s t (opsC f ⟨[.sd (regsOf f) 60], shPair, []⟩)))))
  ∧ (∀ f s t, s.issuesWith t f.c (opsC f ⟨[.sd (regsOf f) 60], shPair, []⟩) (f.attr.fits ⟨[4, 5], [0, 1], false, true, 5, List.range 64⟩) →
      s.memFree t → eff s t f.c = 0 → Passes (.waitmem f) s t f.c (opsC f ⟨[.sd (regsOf f) 60], shPair, []⟩))
  ∧ (∀ s t va l d wide pol sc acq flag old rel (b : List Byte), s.troupe? t.wg t.trix = some t → t.stopped = false → d < 60 →
      t.wait = .mem va l d wide pol sc acq flag old rel → b.length = (if wide then 8 else 4) → Looks s t va b.length b →
      (leW b ≠ old → WaitOver (.waitmemRecheck t.wg t.trix) s t ((d, (leW b).setWidth 32) :: if wide then [(d + 1, (leW b).extractLsb' 32 32)] else []))
        ∧ (leW b = old → ∃ u, exec (.waitmemRecheck t.wg t.trix) s = .next u ∧ u.mem = s.mem ∧ u.troupes = s.troupes ∧ u.reqs = s.reqs))

/-- `bowait` traps with BARSTALE on an object that is invalid or has left its generation behind, waits while the generation stands,
and else ends with the new one (R410). `b` is the object's first 17 bytes. -/
def Obligations.ObjectWait : Prop :=
  (∀ f s t (b : List Byte), s.issuesWith t f.c (opsC f ⟨[.sd 1 60], shPair, []⟩) (f.attr.fits ⟨[4], [0], false, true, 5, [0]⟩) → s.memFree t →
    acts s t f.c (isVec f.a) → agree s t f.c 1 2 f.a → (leaderVa s t f.c f.a).toNat % 64 = 0 → b.length = 17 → Looks s t (leaderVa s t f.c f.a) 64 b →
    let g := s.rdWord (s.atIssue t) 0 f.d 0
    (staleObject b g.toNat → ∃ (s' : State) (t' : Troupe), s'.mem = s.mem ∧ s'.reqs = s.reqs ∧ s'.wgs = s.wgs ∧ s.othersKept s' t ∧ s'.becomes t t'
        ∧ t'.pc = t.pc ∧ t'.wait = .bo (leaderVa s t f.c f.a) (leader s t f.c f.a) (numOf f.d) (scope f) f.c.flag g
            (rel s t (opsC f ⟨[.sd 1 60], shPair, []⟩)) ∧ t.regsKept t'
        ∧ exec (.bowait f) s = .next (State.takeTrap s' { t' with
            wait := .none, flags := match f.c.flag with | some f => t'.flags &&& ~~~(1#12 <<< f) | none => t'.flags }
          ⟨0x20, leaderVa s t f.c f.a, 0⟩ t.pc))
      ∧ (byteAt b 16 = 1 → leAt b 0 4 = g.toNat → WaitsOn (.bowait f) s t f.c (.bo (leaderVa s t f.c f.a) (leader s t f.c f.a) (numOf f.d)
        (scope f) f.c.flag g (rel s t (opsC f ⟨[.sd 1 60], shPair, []⟩))))
      ∧ (byteAt b 16 = 1 → leAt b 0 4 ≠ g.toNat → ¬leftBehind (leAt b 12 4) g.toNat →
          WaitOver (.bowait f) s t [(numOf f.d, BitVec.ofNat 32 (leAt b 0 4))]))
  ∧ (∀ f s t, s.issuesWith t f.c (opsC f ⟨[.sd 1 60], shPair, []⟩) (f.attr.fits ⟨[4], [0], false, true, 5, [0]⟩) → s.memFree t →
      ¬acts s t f.c (isVec f.a) → Passes (.bowait f) s t f.c (opsC f ⟨[.sd 1 60], shPair, []⟩))
  ∧ (∀ s t va l d sc flag g rel (b : List Byte), s.troupe? t.wg t.trix = some t → t.stopped = false → d < 61 →
      t.wait = .bo va l d sc flag g rel → b.length = 17 → Looks s t va 64 b →
      (byteAt b 16 = 1 → leAt b 0 4 = g.toNat →
          ∃ u, exec (.bowaitRecheck t.wg t.trix) s = .next u ∧ u.mem = s.mem ∧ u.troupes = s.troupes ∧ u.reqs = s.reqs)
        ∧ (byteAt b 16 = 1 → leAt b 0 4 ≠ g.toNat → ¬leftBehind (leAt b 12 4) g.toNat →
            WaitOver (.bowaitRecheck t.wg t.trix) s t [(d, BitVec.ofNat 32 (leAt b 0 4))])
        ∧ (staleObject b g.toNat → ∃ s' : State, s'.troupes = s.troupes ∧ s'.mem = s.mem ∧ s'.reqs = s.reqs ∧ s'.wgs = s.wgs
            ∧ exec (.bowaitRecheck t.wg t.trix) s = .next (s'.takeTrap { t with
                wait := .none, flags := match flag with | some f => t.flags &&& ~~~(1#12 <<< f) | none => t.flags } ⟨0x20, va, 0⟩ t.pc)))

/-- A cache-range instruction treats every line of its range in the issuing core's L1 and the die's remote-data cache, and with a line that
leaves the remote-data cache the tracked copies of the die's other L1s (R207): `cwb` cleans, `cinv` and `cinvd` drop, and each dirty
line is written back but for window lines under `cinvd`: to a home on another die in a packet, where the mesh reaches it
(R225, R397, R13). -/
def Obligations.CacheRanges : Prop :=
  ∀ i stays drops f s t c, RangeInstr i stays drops → s.issuesWith t f.c (ops f ⟨[.unused], [.sr 2 60], [.sr 1 63, .imm]⟩) true → s.memFree t →
    s.ctxOf t = some c →
    let a := (sA s t f 1 ++ sA s t f 0 : DWord).toNat
    let n := (sB s t f 0).toNat
    let mine (l : CLine) : Prop := l.die = t.die ∧ (l.core = some t.core ∨ l.core = none) ∧ inRange s c a n l.line
    let below (l : CLine) : Prop := stays = false ∧ l.die = t.die ∧ l.core ≠ none ∧ (l.tracked = true ∨ l.excl = true)
      ∧ ∃ x ∈ s.lines, mine x ∧ x.core = none ∧ x.window = false ∧ x.line = l.line
    let treated (l : CLine) : Prop := mine l ∨ below l
    let sends (l : CLine) : Prop := l ∈ s.lines ∧ treated l ∧ l.dirty ≠ 0 ∧ ¬(l.window = true ∧ drops = true)
    let reached (l : CLine) : Prop := l.home = l.die ∨ s.reachable l.die l.home = true
    (eff s t f.c = 0 → Passes (i f) s t f.c (ops f ⟨[.unused], [.sr 2 60], [.sr 1 63, .imm]⟩))
      ∧ (eff s t f.c ≠ 0 → s.pendingAt (s.atIssue t) (sA s t f 1 ++ sA s t f 0) n = false →
          ∃ u t' k ids, exec (i f) s = .next u ∧ u.mem = s.mem ∧ u.reqs = s.reqs ∧ u.wgs = s.wgs ∧ u.becomes t t'
            ∧ t'.pc = t.pc + 12 ∧ t'.flags = t.flagged f.c ∧ t.regsKept t' ∧ t'.specials = t.specials
            ∧ t'.pend = t.pend ++ [⟨k, f.c.flag, .range ids, false⟩]
            ∧ (∀ l, l ∈ u.lines ↔ l ∈ s.lines ∧ ¬treated l ∨ stays = true ∧ ∃ x ∈ s.lines, treated x ∧ l = { x with dirty := 0 })
            ∧ (∀ x, sends x → reached x → ∃ w ∈ u.wbs, w.id ∈ ids ∧ w.line = x.line ∧ w.data = x.data ∧ w.mask = x.dirty ∧ w.die = x.die
                ∧ w.core = x.core ∧ w.home = x.home
                ∧ (x.home ≠ x.die → ∃ p ∈ u.packets, p.src = x.die ∧ p.dst = x.home ∧ p.chan = 0 ∧ p.load = .wb w.id))
            ∧ (∀ w ∈ u.wbs, w ∈ s.wbs ∨ ∃ x, sends x ∧ w.line = x.line ∧ w.data = x.data ∧ w.mask = x.dirty)
            ∧ (∀ j ∈ ids, ∃ w ∈ u.wbs, w.id = j)
            ∧ ((∀ x, sends x → reached x) → s.othersKept u t ∧ ∀ w ∈ s.wbs, w ∈ u.wbs))

/-- `barinit`, `barinval` and `bosig` send one request of the leader lane to the object's home (R404, R407 to R409). -/
def Obligations.ObjectRequests : Prop :=
  (∀ f s t, s.issuesWith t f.c (ops f ⟨[.unused], shPair, [.sr 1 63, .imm]⟩) true → s.memFree t → agree s t f.c 1 2 f.a →
    (¬acts s t f.c (isVec f.a) → Passes (.barinit f) s t f.c (ops f ⟨[.unused], shPair, [.sr 1 63, .imm]⟩))
      ∧ (acts s t f.c (isVec f.a) → (leaderVa s t f.c f.a).toNat % 64 = 0 →
          Sends (.barinit f) s t f.c (ops f ⟨[.unused], shPair, [.sr 1 63, .imm]⟩)
            ⟨none, f.c.flag, 4, true, .wt, .tr, .plain, [(leader s t f.c f.a, .barinit, leaderVa s t f.c f.a, 64, natLe 4 (sB s t f 0).toNat, [])]⟩
            [] fun _ => .nothing))
  ∧ (∀ f s t, s.issuesWith t f.c (ops f ⟨[.unused], shPair, [.unused]⟩) true → s.memFree t → agree s t f.c 1 2 f.a →
      (¬acts s t f.c (isVec f.a) → Passes (.barinval f) s t f.c (ops f ⟨[.unused], shPair, [.unused]⟩))
        ∧ (acts s t f.c (isVec f.a) → (leaderVa s t f.c f.a).toNat % 64 = 0 →
            Sends (.barinval f) s t f.c (ops f ⟨[.unused], shPair, [.unused]⟩)
              ⟨none, f.c.flag, 4, true, .wt, .tr, .plain, [(leader s t f.c f.a, .barinval, leaderVa s t f.c f.a, 64, [], [])]⟩ [] fun _ => .nothing))
  ∧ (∀ f s t, s.issuesWith t f.c (opsC f ⟨[.sd 1 60], shPair, []⟩) (f.attr.fits ⟨[4], [0], true, true, 5, [0]⟩) →
      s.memHold (s.atIssue t) (some f.attr.ac.toNat) true (scope f) = false → agree s t f.c 1 2 f.a →
      (¬acts s t f.c (isVec f.a) → Passes (.bosig f) s t f.c (opsC f ⟨[.sd 1 60], shPair, []⟩))
        ∧ (acts s t f.c (isVec f.a) → (leaderVa s t f.c f.a).toNat % 64 = 0 →
            Sends (.bosig f) s t f.c (opsC f ⟨[.sd 1 60], shPair, []⟩)
              ⟨some f.attr.ac.toNat, f.c.flag, 4, false, .wt, scope f, .rel,
                [(leader s t f.c f.a, .bosig, leaderVa s t f.c f.a, 64, natLe 4 (s.rdWord (s.atIssue t) 0 f.d 0).toNat, [])]⟩
              [] fun _ => .status (numOf f.d)))

/-! ## Barriers, copies, buffers -/

namespace Sys2Proof.Claims

/-- The troupe has issued and gone on; its registers are as they were but for the names that it releases, memory and requests are
as they were. -/
def Goes (s : State) (t : Troupe) (c : Ctl) (o : Opnds) (u : State) (t' : Troupe) : Prop :=
  s.othersKept u t ∧ u.becomes t t' ∧ t'.pc = t.pc + 12 ∧ t'.flags = t.flagged c ∧ t.released t' (rel s t o) ∧ t'.sregs = t.sregs
    ∧ t'.preds = t.preds ∧ u.mem = s.mem ∧ u.reqs = s.reqs

def shBar : Shape := ⟨[.unused], [.sp 48 63], [.unused]⟩
def barNo (f : OForm) : Nat := numOf f.a - 48

/-- Every troupe of the workgroup that has not exited has arrived once t has. -/
def allHere (s : State) (t : Troupe) (w : Workgroup) (n : Nat) : Prop := ∀ i ∈ s.alive t.wg, i = t.trix ∨ i ∈ (w.bar n).arrived

/-- Register j of a uniform or leader-lane operand. -/
def leadWord (s : State) (t : Troupe) (c : Ctl) (k : Nat) (a : Operand) (j : Nat) : Word :=
  if isVec a then lane (s.rdLanes (s.atIssue t) k a j) ((lowest (eff s t c)).getD 0) else s.rdWord (s.atIssue t) k a j

/-- A legal control word of `cpy` or `arm` (R412). -/
def controlOk (armed : Bool) (tags : Nat) (w : Word) : Prop :=
  w.toNat / 2 ^ 24 = 0 ∧ w.getLsbD 7 = false ∧ (armed = false → w.toNat / 2 ^ 16 % 256 = 0) ∧ w.toNat % 64 < tags

def shCopy (n : Nat) : Shape := ⟨[.sd n 60], shPair, [.vr 4 false, .sr 4 60]⟩

/-- The copy that an instruction captures (R413). -/
def captured (s : State) (t : Troupe) (f : OForm) (w : Workgroup) (id : Nat) (stage : CopyStage) (status : Byte) : Copy :=
  { id := id, wg := t.wg, trix := t.trix, ctx := w.ctx, die := t.die, lvlk := s.ident t 74, ctl := sD s t f 0, gen := sD s t f 1
    layout := leadWord s t f.c 1 f.a 1 ++ leadWord s t f.c 1 f.a 0, coords := (List.range 4).map (leadWord s t f.c 2 f.b)
    counter := (sD s t f 0).toNat / 2 ^ 16 % 256, stage := stage, kind := 0, peer := 0, sig := 0, sigidx := 0, sigaddr := 0, size := 0
    status := status, fault := 0, bufs := [], due := none }

/-- One more copy is outstanding on a tag (R417). -/
def joinsTag (u : State) (t : Troupe) (w : Workgroup) (n : Nat) : Prop :=
  ∃ w', u.wg? t.wg = some w' ∧ w'.tag n = { w.tag n with count := (w.tag n).count + 1, done := false } ∧ ∀ m, m ≠ n → w'.tag m = w.tag m

/-- A scalar result that `VARIABLE_RESULT_WRITE` will write to sD. -/
def Answers (t t' : Troupe) (c : Ctl) (d : Nat) (v : Word) : Prop :=
  t'.specials = t.specials ∧ (∃ k, t'.pend = t.pend ++ [⟨k, c.flag, .sregs [(d, v)], false⟩]) ∧ ∀ r ∈ sReg d, t'.hazardous r = true

def shGet : Shape := ⟨[.sw 1 60], [.unused], [.unused]⟩
def shGive : Shape := ⟨[.sw 1 60], [.sr 1 63], [.sr 1 63, .imm]⟩
def shFree : Shape := ⟨[.unused], [.sr 1 63], [.unused]⟩

/-- The handle of a buffer: its package-wide core in [15:8], its number in [7:0] (R154). -/
def handleOf (core i : Nat) : BitVec 16 := BitVec.ofNat 16 (core * 256 + i)

/-- The workgroup that `bgive` names: running on a core of the giver's cluster, of the same launch (R424). -/
def takesOver (t : Troupe) (g r : Workgroup) (n : Nat) : Prop :=
  r.lvl = g.lvl ∧ r.node = g.node ∧ r.w = n ∧ (r.status = .running ∨ r.status = .stopping) ∧ r.die = t.die ∧ r.core / 4 = t.core / 4

/-! ## Matrix operations -/

/-- An operation joins its pipe's quarter and the troupe's open batch, in issue order (R434), with the earlier values of its accumulators
that no `mrdy` has ordered before it (R436). -/
def Enters (s u : State) (t t' : Troupe) (kind : MatKind) (acc : Nat) (m : Mask) : Prop :=
  (∃ id was, (u.pipe t.pipe).ops = (s.pipe t.pipe).ops ++ [⟨id, t.wg, t.trix, none, t.openBatch.count, kind, acc, m, was⟩]
      ∧ ∀ x, x ∈ was ↔ x ∈ t.unready ∧ acc ≤ x.1 ∧ x.1 < acc + 64)
    ∧ t'.openBatch.count = t.openBatch.count + 1 ∧ t'.openBatch.left = t.openBatch.left + 1 ∧ t'.openBatch.err = t.openBatch.err
    ∧ (∀ j, j < 64 → t'.hazardous (.v (acc + j)) = true)

/-- The quarter takes an operation: no `mrdy` holds the troupe, fewer than eight are issued and not performed. -/
def quarterFree (s : State) (t : Troupe) : Prop :=
  (∀ p ∈ t.pend, p.act ≠ .mrdy) ∧ (s.pipe t.pipe).ops.length < 8 ∧ t.pipe < s.pipes.length

/-- The fields of a control word (R427). -/
def cFmt (w : Word) : Nat := w.toNat / 2 ^ 8 % 8
def cSp (w : Word) : Nat := w.toNat / 2 ^ 6 % 4
def cSlot (w : Word) : Nat := w.toNat % 64
def cJid (w : Word) : Nat := w.toNat / 2 ^ 12 % 16
def cMask (w : Word) : Nat := w.toNat / 2 ^ 16

/-- The slots of a tile (R428). -/
def slotCount (fmt sp : Nat) : Nat := if fmt = 0 then (if sp = 2 then 3 else 2) else if sp = 0 then 1 else 2

/-- A control word that keeps the map, for a format (R427). -/
def tileWord (fmt : Nat) (w : Word) : Prop :=
  w.getLsbD 11 = false ∧ cFmt w = fmt ∧ fmt ≤ 5 ∧ cSp w ≤ 2 ∧ cSlot w + slotCount fmt (cSp w) ≤ 64

def formatIndex : MFmt → Nat | .e2m1 => 0 | .e4m3 => 1 | .e5m2 => 2 | .i8 => 3 | .bf16 => 4 | .f16 => 5

/-- The width of the A window (R431). -/
def windowA (fmt sp : Nat) : Nat := (if fmt = 0 then 20 else 16) * 2 ^ sp

/-- The A window is usable: below the allotment, mapped, apart from D (R431). -/
def usableA (t : Troupe) (f : OForm) (n : Nat) : Prop :=
  numOf f.a + n ≤ t.allot ∧ numOf f.a + n ≤ 255 ∧ (∀ j, j < n → t.mapped (numOf f.a + j) = true) ∧
    (numOf f.a + n ≤ numOf f.d ∨ numOf f.d + 64 ≤ numOf f.a)

/-- A solo operation, or one of a joint operation whose partners have all reached theirs and agree (R433). -/
def mayStart (t : Troupe) (w : Word) : Prop :=
  cJid w = 0 ∧ cMask w = 0 ∨ cJid w ≠ 0 ∧ (∃ x, t.atJoint = some x ∧ x.go = some true) ∧ (cMask w).testBit t.trix = true ∧ t.trix < 16
    ∧ ∀ i j, i < 16 → j < 16 → (cMask w).testBit i = true → (cMask w).testBit j = true → i % 4 = j % 4 → i = j

/-- The troupe whose pipe holds the tile: the lowest participant (R429). -/
def tileHolder (t : Troupe) (w : Word) (n : Nat) : Prop :=
  if cJid w = 0 then n = t.trix else (cMask w).testBit n = true ∧ ∀ i, i < n → (cMask w).testBit i = false

end Sys2Proof.Claims

/-- `barr` arrives, `barwt` waits for the generation of the latest arrival, `barw` does both; the generation completes with the last
troupe that has not exited (R405). -/
def Obligations.WorkgroupBarriers : Prop :=
  ∀ (f : OForm) (s : State) (t : Troupe) (w : Workgroup), s.issuesWith t f.c (ops f shBar) true → s.memFree t → s.wgOf t = some w →
    barNo f < w.nbars → barNo f < w.bars.length → barNo f < t.barGen.length →
    let n := barNo f
    let fresh := t.arrived = false ∧ t.trix ∉ (w.bar n).arrived ∧ s.releaseDone (s.atIssue t) s.fresh .wg 0 = true
    let passed := ∀ g, t.barGen.getD n none = some g → g < (w.bar n).gen
    (takes s t f.c = false → Passes (.barr f) s t f.c (ops f shBar) ∧ Passes (.barw f) s t f.c (ops f shBar)
      ∧ Passes (.barwt f) s t f.c (ops f shBar))
    ∧ (takes s t f.c = true → passed → Passes (.barwt f) s t f.c (ops f shBar) ∧ (t.arrived = true → Passes (.barw f) s t f.c (ops f shBar)))
    ∧ (takes s t f.c = true → ¬passed → exec (.barwt f) s = .next s ∧ (t.arrived = true → exec (.barw f) s = .next s))
    ∧ (takes s t f.c = true → fresh →
        (∃ u t', exec (.barr f) s = .next u ∧ Goes s t f.c (ops f shBar) u t' ∧ t'.barGen = t.barGen.set n (some (w.bar n).gen)
          ∧ (allHere s t w n → ∃ w', u.wg? t.wg = some w' ∧ w'.bar n = ⟨(w.bar n).gen + 1, []⟩ ∧ ∀ m, m ≠ n → w'.bar m = w.bar m)
          ∧ (¬allHere s t w n → ∃ w', u.wg? t.wg = some w' ∧ w'.bar n = ⟨(w.bar n).gen, (w.bar n).arrived ++ [t.trix]⟩
              ∧ ∀ m, m ≠ n → w'.bar m = w.bar m))
        ∧ (allHere s t w n → ∃ u t', exec (.barw f) s = .next u ∧ Goes s t f.c (ops f shBar) u t'
            ∧ ∃ w', u.wg? t.wg = some w' ∧ w'.bar n = ⟨(w.bar n).gen + 1, []⟩)
        ∧ (¬allHere s t w n → ∃ u t', exec (.barw f) s = .next u ∧ u.becomes t t' ∧ t'.pc = t.pc ∧ t'.arrived = true
            ∧ t'.barGen = t.barGen.set n (some (w.bar n).gen)
            ∧ ∃ w', u.wg? t.wg = some w' ∧ w'.bar n = ⟨(w.bar n).gen, (w.bar n).arrived ++ [t.trix]⟩))

/-- `cpy` starts one copy with what its operands hold at issue, `arm` one that fires when its counter has reached its threshold, both
on a tag; `tagclr` clears the status of tags (R412, R413, R417, R418, R421). -/
def Obligations.CopiesStart : Prop :=
  (∀ f s t w, s.issuesWith t f.c (ops f (shCopy 2)) true → s.memFree t → s.wgOf t = some w → agree s t f.c 1 2 f.a →
    (¬acts s t f.c (isVec f.a || isVec f.b) → ∃ u t', exec (.cpy f) s = .next u ∧ Goes s t f.c (ops f (shCopy 2)) u t' ∧ s.restKept u)
    ∧ (acts s t f.c (isVec f.a || isVec f.b) → controlOk false w.ntags (sD s t f 0) →
        (leadWord s t f.c 1 f.a 0).toNat % 64 = 0 → (w.tag ((sD s t f 0).toNat % 64)).count < 255 → s.copiesOn t.die < 2048 →
        (sD s t f 0).toNat % 64 < w.tags.length →
        ∃ u t' id, exec (.cpy f) s = .next u ∧ Goes s t f.c (ops f (shCopy 2)) u t' ∧ t'.specials = t.specials
          ∧ u.copies = s.copies ++ [captured s t f w id .waiting 0] ∧ joinsTag u t w ((sD s t f 0).toNat % 64)))
  ∧ (∀ f s t w c, s.issuesWith t f.c (ops f (shCopy 3)) true → s.memFree t → s.wgOf t = some w → s.ctx? w.ctx = some c → agree s t f.c 1 2 f.a →
      acts s t f.c (isVec f.a || isVec f.b) → controlOk true w.ntags (sD s t f 0) → (leadWord s t f.c 1 f.a 0).toNat % 64 = 0 →
      (w.tag ((sD s t f 0).toNat % 64)).count < 255 → (sD s t f 0).toNat % 64 < w.tags.length →
      ∃ u t' id, exec (.arm f) s = .next u ∧ Goes s t f.c (ops f (shCopy 3)) u t' ∧ joinsTag u t w ((sD s t f 0).toNat % 64)
        ∧ (4096 ≤ s.armedOn c.lowDie → u.copies = s.copies ++ [captured s t f w id .signalled 4])
        ∧ (s.armedOn c.lowDie < 4096 →
            (u.copies.map fun x => { x with stage := .waiting }) = (s.copies.map fun x => { x with stage := .waiting }) ++ [captured s t f w id .waiting 0]
            ∧ (captured s t f w id (if (c.counter ((sD s t f 0).toNat / 2 ^ 16 % 256) - sD s t f 2).toNat < 2 ^ 31 then .waiting
                else .armed (sD s t f 2)) 0) ∈ u.copies))
  ∧ (∀ f s t w, s.issuesWith t f.c (ops f ⟨[.unused], [.sr 2 60], [.unused]⟩) true → s.memFree t → s.wgOf t = some w →
      ∃ u t' w', exec (.tagclr f) s = .next u ∧ Goes s t f.c (ops f ⟨[.unused], [.sr 2 60], [.unused]⟩) u t' ∧ u.wg? t.wg = some w'
        ∧ ∀ n, n < w.tags.length → w'.tag n =
            if takes s t f.c = true ∧ n ∈ tagsNamed s t f w then { w.tag n with stat := 0, fault := 0 } else w.tag n)

/-- `bget` binds the lowest free buffer of the core within the workgroup's reservation, `bgive` passes one to a running workgroup of
the cluster, `bfree` frees one; a handle that is not held traps with SCROWN (R423 to R425). -/
def Obligations.ScratchpadBuffers : Prop :=
  (∀ f s t w, s.issuesWith t f.c (ops f shGet) true → s.memFree t → s.wgOf t = some w → takes s t f.c = true →
    let room := (s.bufs.filter fun b => b.wg == w.id).length < w.bufs ∧ w.binds.length < 64
    (∀ i, room → i < 64 → s.buf? (8 * t.die + t.core) i = none → (∀ j, j < i → (s.buf? (8 * t.die + t.core) j).isSome = true) →
        ∃ u t', exec (.bget f) s = .next u ∧ Goes s t f.c (ops f shGet) u t'
          ∧ Answers t t' f.c (numOf f.d) ((handleOf (8 * t.die + t.core) i).setWidth 32)
          ∧ (∃ b, u.bufs = s.bufs ++ [b] ∧ b.core = 8 * t.die + t.core ∧ b.idx = i ∧ b.wg = t.wg ∧ b.damaged = [])
          ∧ ∃ w', u.wg? t.wg = some w' ∧ w'.binds = w.binds ++ [⟨handleOf (8 * t.die + t.core) i, 8 * t.die + t.core, i, none⟩])
      ∧ (¬room ∨ (∀ j, j < 64 → (s.buf? (8 * t.die + t.core) j).isSome = true) →
          ∃ u t', exec (.bget f) s = .next u ∧ Goes s t f.c (ops f shGet) u t' ∧ Answers t t' f.c (numOf f.d) 0xFFFF
            ∧ u.bufs = s.bufs ∧ u.wgs = s.wgs))
  ∧ (∀ f s t g r b, s.issuesWith t f.c (ops f shGive) true → s.memFree t → s.wgOf t = some g → takes s t f.c = true →
      g.bound? ((sA s t f 0).toNat % 2 ^ 16) = some b → s.bufBusy t.wg b.core b.idx = false →
      s.releaseDone (s.atIssue t) s.fresh .cl 0 = true → s.receiver t (sB s t f 0).toNat = some r → s.wg? r.id = some r → r.id ≠ t.wg →
      takesOver t g r (sB s t f 0).toNat ∧
        ∃ u t' st, exec (.bgive f) s = .next u ∧ Goes s t f.c (ops f shGive) u t' ∧ Answers t t' f.c (numOf f.d) st ∧ u.bufs = s.bufs
          ∧ (64 ≤ r.binds.length → st = 2 ∧ u.wgs = s.wgs)
          ∧ (r.binds.length < 64 → (∃ x ∈ r.binds, x.handle = b.handle) → st = 3 ∧ u.wgs = s.wgs)
          ∧ (r.binds.length < 64 → (∀ x ∈ r.binds, x.handle ≠ b.handle) → st = 0
              ∧ (∃ g', u.wg? t.wg = some g' ∧ g'.binds = g.binds.filter fun x => x.handle != b.handle)
              ∧ ∃ r', u.wg? r.id = some r' ∧ r'.binds = r.binds ++ [b]))
  ∧ (∀ f s t g b, s.issuesWith t f.c (ops f shGive) true → s.memFree t → s.wgOf t = some g → takes s t f.c = true →
      g.bound? ((sA s t f 0).toNat % 2 ^ 16) = some b → s.bufBusy t.wg b.core b.idx = false →
      s.releaseDone (s.atIssue t) s.fresh .cl 0 = true → s.receiver t (sB s t f 0).toNat = none →
      ∃ u t', exec (.bgive f) s = .next u ∧ Goes s t f.c (ops f shGive) u t' ∧ Answers t t' f.c (numOf f.d) 1 ∧ u.bufs = s.bufs ∧ u.wgs = s.wgs)
  ∧ (∀ f s t g b, s.issuesWith t f.c (ops f shFree) true → s.memFree t → s.wgOf t = some g → takes s t f.c = true →
      g.bound? ((sA s t f 0).toNat % 2 ^ 16) = some b → s.bufBusy t.wg b.core b.idx = false →
      ∃ u t' g', exec (.bfree f) s = .next u ∧ Goes s t f.c (ops f shFree) u t' ∧ u.wg? t.wg = some g'
        ∧ g'.binds = g.binds.filter (fun x => x.handle != b.handle) ∧ ∀ x, x ∈ u.bufs ↔ x ∈ s.bufs ∧ ¬(x.core = b.core ∧ x.idx = b.idx))
  ∧ (∀ f s t g, s.wgOf t = some g → takes s t f.c = true → g.bound? ((sA s t f 0).toNat % 2 ^ 16) = none →
      let scrown : TrapInfo := ⟨0x0A, BitVec.ofNat 64 ((sA s t f 0).toNat % 2 ^ 16 * 2 ^ 16), 0⟩
      (s.issuesWith t f.c (ops f shFree) true → exec (.bfree f) s = .next (s.takeTrap t scrown t.pc))
        ∧ (s.issuesWith t f.c (ops f shGive) true → exec (.bgive f) s = .next (s.takeTrap t scrown t.pc)))
  ∧ (∀ f s t g b, s.wgOf t = some g → takes s t f.c = true → g.bound? ((sA s t f 0).toNat % 2 ^ 16) = some b → s.bufBusy t.wg b.core b.idx = true →
      (s.issuesWith t f.c (ops f shFree) true → exec (.bfree f) s = .next s)
        ∧ (s.issuesWith t f.c (ops f shGive) true → exec (.bgive f) s = .next s))

/-- `mma`, `mma.sp`, `mclr` and `mbscale` enter the quarter of their pipe, for the rows of their effective lanes, with the operands
that their control word, band word and tile address give (R426, R427, R431 to R434, R437). -/
def Obligations.MatrixOperationsIssue : Prop :=
  (∀ f s t, s.issuesWith t f.c (ops f ⟨[.vw 64 false], [.unused], [.unused]⟩) true → quarterFree s t →
    ∃ u t', exec (.mclr f) s = .next u ∧ u.mem = s.mem ∧ s.othersKept u t ∧ u.becomes t t' ∧ t'.pc = t.pc + 12 ∧ t'.flags = t.flagged f.c
      ∧ t.lanesSet t' [] (s.now t + 1) 0 ((List.range 64).map fun j => (numOf f.d + j, [])) ∧ t'.specials = t.specials
      ∧ Enters s u t t' .mclr (numOf f.d) (eff s t f.c))
  ∧ (∀ f s t, s.issuesWith t f.c (ops f ⟨[.vd 64 false], [.sr 1 63], [.unused]⟩) (!isLast f.d) → quarterFree s t →
      ∃ u t', exec (.mbscale f) s = .next u ∧ u.mem = s.mem ∧ s.othersKept u t ∧ u.becomes t t' ∧ t'.pc = t.pc + 12
        ∧ t'.flags = t.flagged f.c ∧ t.regsKept t' ∧ t'.specials = t.specials
        ∧ Enters s u t t' (.mbscale (sA s t f 0)) (numOf f.d) (eff s t f.c))
  ∧ (∀ x f s t, s.issuesWith t f.c (ops f ⟨[.vd 64 false], [.vd 1 false], [.sr 4 60]⟩) (!isLast f.d) → quarterFree s t → s.memFree t →
      tileWord (formatIndex x) (sB s t f 0) → mayStart t (sB s t f 0) → usableA t f (windowA (formatIndex x) (cSp (sB s t f 0))) →
      ∃ u t' lead un pads, exec (.mma x f) s = .next u ∧ u.mem = s.mem ∧ s.othersKept u t ∧ u.becomes t t' ∧ t'.pc = t.pc + 12
        ∧ t'.flags = t.flagged f.c ∧ t.regsKept t' ∧ tileHolder t (sB s t f 0) lead
        ∧ Enters s u t t' (.mma (formatIndex x) (cSp (sB s t f 0)) (cSlot (sB s t f 0)) (sB s t f 3 ++ sB s t f 2) (sB s t f 1)
            ((List.range (windowA (formatIndex x) (cSp (sB s t f 0)))).map (numOf f.a + ·)) none lead un pads) (numOf f.d) (eff s t f.c))
  ∧ (∀ x f s t, s.issuesWith t f.c (ops f ⟨[.vd 64 false], [.sr 1 63], [.sr 4 60]⟩) (!isLast f.d) → quarterFree s t → s.memFree t →
      tileWord (formatIndex x) (sB s t f 0) → mayStart t (sB s t f 0) → cSp (sB s t f 0) = 0 → (sA s t f 0).toNat % 64 = 0 →
      ∃ u t' lead un pads, exec (.mmaSp x f) s = .next u ∧ u.mem = s.mem ∧ s.othersKept u t ∧ u.becomes t t' ∧ t'.pc = t.pc + 12
        ∧ t'.flags = t.flagged f.c ∧ t.regsKept t' ∧ tileHolder t (sB s t f 0) lead
        ∧ Enters s u t t' (.mma (formatIndex x) 0 (cSlot (sB s t f 0)) (sB s t f 3 ++ sB s t f 2) (sB s t f 1) [] (some (sA s t f 0)) lead un pads)
            (numOf f.d) (eff s t f.c))

/-- `mldb` starts a tile fill that its arrival counter counts, `mrdy` waits for earlier results, `mfence` makes the open batch's
operations part of a closed batch, `mwait` returns the status of a complete batch and makes it idle, `mwait.t` traps on one in its error
phase (R256, R430, R434 to R436). -/
def Obligations.MatrixBatches : Prop :=
  (∀ f s t w, s.issuesWith t f.c (opsC f ⟨[.sr 1 63], [.sr 2 60], []⟩) (f.attr.fits ⟨[0], [0], true, true, 5, [0]⟩) →
    s.memHold (s.atIssue t) (some f.attr.ac.toNat) false .tr = false → (∀ p ∈ t.pend, p.act ≠ .mrdy) → s.wgOf t = some w →
    takes s t f.c = true →
    let cw := s.rdWord (s.atIssue t) 0 f.d 0
    let va := s.rdWord (s.atIssue t) 1 f.a 1 ++ s.rdWord (s.atIssue t) 1 f.a 0
    tileWord (cFmt cw) cw → cJid cw = 0 → cMask cw = 0 → va.toNat % 64 = 0 →
    ∃ u t' id, exec (.mldb f) s = .next u ∧ Goes s t f.c (opsC f ⟨[.sr 1 63], [.sr 2 60], []⟩) u t' ∧ t'.acs = t.acs.modify f.attr.ac.toNat (· + 1)
      ∧ u.fills = s.fills ++ [⟨id, t.pipe, id, w.ctx, va, cFmt cw, cSp cw, cSlot cw⟩]
      ∧ ∃ p ∈ u.splits, p.id = id ∧ p.wg = t.wg ∧ p.trix = t.trix ∧ p.ac = some f.attr.ac.toNat ∧ p.left = 1)
  ∧ (∀ f s t, s.issuesWith t f.c (ops f ⟨[.unused], [.unused], [.unused]⟩) true → (∀ p ∈ t.pend, p.act ≠ .mrdy) → takes s t f.c = true →
      ∃ u t' k, exec (.mrdy f) s = .next u ∧ Goes s t f.c (ops f ⟨[.unused], [.unused], [.unused]⟩) u t' ∧ s.restKept u
        ∧ t'.pend = t.pend ++ [⟨k, f.c.flag, .mrdy, false⟩] ∧ t'.unready = [] ∧ t'.unreadyPad = [])
  ∧ (∀ f (m : BitVec 18) s t, f.a = .imm m → s.issuesWith t f.c (ops f ⟨[.unused], [.immIn 0 7], [.unused]⟩) true →
      (∀ p ∈ t.pend, p.act ≠ .mrdy) → takes s t f.c = true → t.batches.length = 8 → t.pipe < s.pipes.length →
      let b := t.batches.getD m.toNat Batch.idle
      ∃ u t', exec (.mfence f) s = .next u ∧ u.mem = s.mem ∧ s.othersKept u t ∧ u.becomes t t' ∧ t'.pc = t.pc + 12 ∧ t'.sregs = t.sregs
        ∧ t'.preds = t.preds ∧ t'.openBatch.count = 0 ∧ t'.openBatch.left = 0 ∧ t'.openBatch.err = none
        ∧ (t'.batches.getD m.toNat Batch.idle).closed = true
        ∧ (t'.batches.getD m.toNat Batch.idle).count = b.count + t.openBatch.count
        ∧ (t'.batches.getD m.toNat Batch.idle).left = b.left + t.openBatch.left
        ∧ (∀ j, j ≠ m.toNat → (t'.batches.getD j Batch.idle).closed = (t.batches.getD j Batch.idle).closed
          ∧ (t'.batches.getD j Batch.idle).left = (t.batches.getD j Batch.idle).left
          ∧ (t'.batches.getD j Batch.idle).err = (t.batches.getD j Batch.idle).err)
        ∧ ∀ o ∈ (u.pipe t.pipe).ops, o.wg = t.wg → o.trix = t.trix → o.batch ≠ none)
  ∧ (∀ i f (m : BitVec 18) s t, i = Instr.mwait f ∨ i = .mwaitT f → f.a = .imm m →
      s.issuesWith t f.c (ops f ⟨[.sw 1 60], [.immIn 0 7], [.unused]⟩) true → (∀ p ∈ t.pend, p.act ≠ .mrdy) → takes s t f.c = true →
      let b := t.batches.getD m.toNat Batch.idle
      (b.left ≠ 0 → exec i s = .next s)
        ∧ (b.left = 0 → (i = .mwait f ∨ b.err = none ∨ b.closed = false) →
            ∃ u t', exec i s = .next u ∧ s.restKept u ∧ s.othersKept u t ∧ u.becomes t t' ∧ t'.pc = t.pc + 12 ∧ t'.flags = t.flagged f.c
              ∧ t'.sregs = t.sregs ∧ t'.preds = t.preds ∧ t'.batches = t.batches.set m.toNat Batch.idle
              ∧ Answers t t' f.c (numOf f.d) (match b.err with
                  | some (code, n) => BitVec.ofNat 32 (min n 255 * 256 + code.toNat) | none => 0)
              ∧ (b.spoilt = [] → b.tileSpoilt = false → ∀ n, t'.vreg? n = t.vreg? n))
        ∧ (∀ code n, b.left = 0 → b.closed = true → b.err = some (code, n) → i = .mwaitT f →
            exec i s = .next (s.takeTrap t ⟨0x28, b.taddr, 0⟩ t.pc)))

/-! ## Graph instructions, traps, special registers -/

namespace Sys2Proof.Claims

/-- Node n of the troupe's graph instance takes an emission: no cancel is applied, the node exists, and for a task node HOLD is 0
(R110). -/
def takesRecords (s : State) (t : Troupe) (n : Nat) (task : Bool) (g : Graph) (x : GNode) : Prop :=
  s.graphOf t = some g ∧ s.graphCancelled g = false ∧ g.node? n = some x ∧ (task = true → x.k.hold = 0)

/-- An emission under way: what the queue engine will apply, and the status names that count as unwritten (R440). -/
def Emits (i : Instr) (s : State) (t : Troupe) (f : OForm) (head : Bool) (sh : Shape) (width : Nat) : Prop :=
  let e := (sB s t f 0).toNat
  ∃ u t' k tok ph, exec i s = .next u ∧ u.mem = s.mem ∧ u.graphs = s.graphs ∧ u.reqs = s.reqs ∧ s.othersKept u t ∧ u.becomes t t'
    ∧ t'.pc = t.pc + 12 ∧ t'.flags = t.flagged f.c ∧ t.lanesSet t' (rel s t (ops f sh)) (s.now t + 1) 0 [(numOf f.d, [])]
    ∧ t'.pend = t.pend ++ [⟨k, f.c.flag, .emit head (e % 64) (e / 64 % 8) (numOf f.d) tok (eff s t f.c)
        ((lanesIn (eff s t f.c)).map fun l => (List.range width).flatMap fun j => natLe 4 (rA s t f j l).toNat) ph, false⟩]
    ∧ ph = (s.die t.die).dph ∧ t'.sph = ph ∧ (numOf f.d ≠ 255 → t'.hazardous (.v (numOf f.d)) = true)
    ∧ (e / 64 % 8 < 7 → t'.hazardous (.p (e / 64 % 8)) = true)

def shEmit (width : Nat) : Shape := ⟨[.vw 1 false], [.vr width false], [.sr 1 63, .imm]⟩
def shDeq : Shape := ⟨[.vw 3 false], [.unused], [.sr 1 63, .imm]⟩
def shNo : Shape := ⟨[.unused], [.unused], [.unused]⟩

/-- The names of a record window: RECSIZE / 4 of the node, none when the instruction fails as a whole (R438). -/
def recordNames (s : State) (t : Troupe) (node : Nat) (task : Bool) (n : Nat) : Prop :=
  (∃ g x, takesRecords s t node task g x ∧ n = x.k.recsize / 4) ∨ (∀ g x, ¬takesRecords s t node task g x) ∧ n = 0

/-- The per-lane atomics on dependency counters and chunk objects (R445, R446): D's use, accepted attributes, names written, how the
replies land, and a lane's operation and operand. -/
inductive ObjectLanes (s : State) (t : Troupe) : Instr → MForm → List Acc → AttrRule → Nat → Scope → MemOrd →
    (List (Nat × Nat) → Landing) → (Nat → MemOp × List Byte) → Prop
  | depinit (f : MForm) (g x n) : takesRecords s t f.attr.ofs.toNat false g x → n = x.k.recsize / 4 →
      ObjectLanes s t (.depinit f) f [.vx (1 + n) 1] ⟨[4], [0], true, false, 0, List.range 64⟩ 1 .dev .rel .vec fun l =>
        (.depinit f.attr.ofs.toNat ((List.range n).flatMap fun j => natLe 4 (mD s t f (1 + j) l).toNat)
          (((t.lrecs.getD l none).map LaneRec.depth).getD 0 + 1), natLe 4 (mD s t f 0 l).toNat)
  | depinitFails (f : MForm) : (∀ g x, ¬takesRecords s t f.attr.ofs.toNat false g x) →
      ObjectLanes s t (.depinit f) f [.vw 1 false] ⟨[4], [0], true, false, 0, List.range 64⟩ 1 .dev .rel .vec fun l =>
        (.depinit f.attr.ofs.toNat [] (((t.lrecs.getD l none).map LaneRec.depth).getD 0 + 1), [])
  | depdec (f : MForm) : ObjectLanes s t (.depdec f) f [.vw 1 false] ⟨[4], [0], true, false, 0, [0]⟩ 1 .dev .rel .vec
      fun _ => (.depdec, [])
  | chunk (f : MForm) : ObjectLanes s t (.chunk f) f [.vw 4 false] ⟨[5], [0], true, false, 5, [0]⟩ 4 (scope f) .plain (.vp .w4)
      fun _ => (.chunk, [])

/-- A request for the host's view of a trap: entered at the handler's first instruction (R247). -/
structure Entered (s u : State) (t t' : Troupe) (i : TrapInfo) (tpc handler : DWord) : Prop where
  rest : { u with troupes := s.troupes, free := s.free } = s
  others : s.othersKept u t
  now : u.becomes t t'
  state : t'.intrap = true ∧ t'.cause = i.cause ∧ t'.taddr = i.taddr ∧ t'.tpc = tpc &&& ~~~3#64 ∧ t'.tlanes = i.lanes
  pc : t'.pc = handler &&& ~~~3#64
  regs : t.regsKept t'
  kept : t'.flags = t.flags ∧ t'.acs = t.acs ∧ t'.sph = t.sph ∧ t'.pcfg = t.pcfg ∧ t'.pend = t.pend ∧ t'.hazards = t.hazards
    ∧ t'.errpend = t.errpend ∧ t'.stfail = t.stfail ∧ t'.faults = t.faults ∧ t'.allot = t.allot

/-- The handler address that the context's trap table holds for a cause (R246). -/
def handlerIs (s : State) (t : Troupe) (cause : Byte) (h : Nat) : Prop :=
  ∃ c b, s.ctxOf t = some c ∧ c.trap.getLsbD 0 = true
    ∧ s.readVa c t.die .read 3 (BitVec.ofNat 64 (c.trap.toNat / 2 ^ 11 % 2 ^ 37 * 2 ^ 11 + 8 * cause.toNat)) 8 = .bytes b ∧ leNat b = h

/-- The workgroup of t has ended by a trap: every troupe has exited, the error core has the record, the workgroup drains with its
item status (R253). -/
structure Ends (s u : State) (t : Troupe) (i : TrapInfo) (tpc : DWord) : Prop where
  mem : u.mem = s.mem
  exits : ∀ x ∈ u.troupes, x.wg = t.wg → x.exited = true
  record : ErrRec.trap t.wg t.trix i.cause tpc i.taddr i.lanes t.intrap ∈ u.errors
  item : ∀ w, u.wg? t.wg = some w → w.status = .draining ∧ (if i.cause = 0x23 then w.cancelled = true else w.failed = true)
  others : ∀ x ∈ s.troupes, x.wg ≠ t.wg → x ∈ u.troupes

/-- The instructions whose operand checks come first: operands and legal modifier. -/
inductive Checked (s : State) (t : Troupe) : Instr → Ctl → Opnds → Bool → Prop
  | scalar (i f op) : ScalarBin i f op → Checked s t i f.c (ops f ⟨[.sw 1 63], [.sr 1 63, .imm], [.sr 1 63, .imm]⟩) true
  | vector (i f op) : VectorBin i f op → Checked s t i f.c (ops f shTwo) true
  | memory (i f sh rule unit align back land req) : LaneMemory i f sh rule unit align back land req →
      Checked s t i f.c (opsM f sh) (f.attr.fits rule)
  | later (i c o mod cond closes holds act rs) : EndsLater i c o mod cond closes holds act rs → Checked s t i c o mod

end Sys2Proof.Claims

/-- `remit` and `tenq` emit one record for each effective lane, `tdeq` pops one, `gexit` frees the lanes' slots: the queue engine
does so when it replies. `lvlcancel` sends a cancel to the level's leader (R439 to R444, R448). -/
def Obligations.QueueInstructions : Prop :=
  (∀ i head f s t n, (i = Instr.remit f ∧ head = false ∨ i = .tenq f ∧ head = true) → recordNames s t ((sB s t f 0).toNat % 64) head n →
    s.issuesWith t f.c (ops f (shEmit n)) true → s.memHold (s.atIssue t) none true .dev = false →
    (eff s t f.c = 0 → SendsNothing i s t f.c (ops f (shEmit n)) [numOf f.d])
      ∧ (eff s t f.c ≠ 0 → (sB s t f 0).toNat < 2 ^ 10 → ((sB s t f 0).getLsbD 9 = true → ∀ g x, takesRecords s t ((sB s t f 0).toNat % 64) head g x →
            ∀ l, l < 96 → (eff s t f.c).getLsbD l = true → depthFails g x (((t.lrecs.getD l none).map LaneRec.depth).getD 0 + 1) = false) →
          Emits i s t f head (shEmit n) n)
      ∧ (∀ g x, eff s t f.c ≠ 0 → (sB s t f 0).toNat < 2 ^ 10 → (sB s t f 0).getLsbD 9 = true → takesRecords s t ((sB s t f 0).toNat % 64) head g x →
          let deep : Mask := maskOf fun l => (eff s t f.c).getLsbD l && depthFails g x (((t.lrecs.getD l none).map LaneRec.depth).getD 0 + 1)
          deep ≠ 0 → exec i s = .next (s.takeTrap t ⟨0x21, 0, deep⟩ t.pc))
      ∧ (2 ^ 10 ≤ (sB s t f 0).toNat → eff s t f.c ≠ 0 → exec i s = .next (s.takeTrap t ⟨0x02, 0, 0⟩ t.pc)))
  ∧ (∀ f s t, s.issuesWith t f.c (ops f shDeq) true → s.memFree t →
      (eff s t f.c = 0 → SendsNothing (.tdeq f) s t f.c (ops f shDeq) ((List.range 3).map (numOf f.d + ·)))
        ∧ (eff s t f.c ≠ 0 → (sB s t f 0).toNat < 2 ^ 9 →
            let e := (sB s t f 0).toNat
            ∃ u t' k toks, exec (.tdeq f) s = .next u ∧ s.restKept u ∧ s.othersKept u t ∧ u.becomes t t' ∧ t'.pc = t.pc + 12
              ∧ t.lanesSet t' [] (s.now t + 1) 0 ((List.range 3).map fun j => (numOf f.d + j, [])) ∧ t'.specials = t.specials
              ∧ t'.pend = t.pend ++ [⟨k, f.c.flag, .deq (e % 64) (e / 64 % 8) toks (eff s t f.c), false⟩]
              ∧ toks.map Prod.fst = (List.range 3).map (numOf f.d + ·)
              ∧ ∀ j, j < 3 → t'.hazardous (.v (numOf f.d + j)) = true))
  ∧ (∀ f s t, s.issuesWith t f.c (ops f shNo) true → s.memFree t →
      (eff s t f.c = 0 → Passes (.gexit f) s t f.c (ops f shNo))
        ∧ (eff s t f.c ≠ 0 → UnderWay (.gexit f) s t f.c (ops f shNo) [] false false (fun _ => .gexit (eff s t f.c)) []))
  ∧ (∀ f s t w, s.issuesWith t f.c (ops f ⟨[.unused], [.sr 1 63, .imm], [.unused]⟩) true → s.memFree t → s.wgOf t = some w →
      takes s t f.c = true → w.part < s.partitions.length →
      ∃ u t' k, exec (.lvlcancel f) s = .next u ∧ Goes s t f.c (ops f ⟨[.unused], [.sr 1 63, .imm], [.unused]⟩) u t'
        ∧ t'.pend = t.pend ++ [⟨k, f.c.flag, .lvlcancel ((sA s t f 0).toNat % 4), false⟩]
        ∧ match s.selLevel t ((sA s t f 0).toNat % 4) with
          | none => u.partitions = s.partitions
          | some l => ∃ p q, s.partitions[w.part]? = some p ∧ u.partitions[w.part]? = some q ∧ q.cancels = p.cancels ++ [(k, l.id)])

/-- `depinit`, `depdec` and `chunk` send one atomic to the object of each effective lane; the first two are releases at `.dev`
(R438, R439, R445, R446). -/
def Obligations.ObjectLaneRequests : Prop :=
  ∀ i f d rule back sc o land req s t, ObjectLanes s t i f d rule back sc o land req →
    s.issuesWith t f.c (opsM f ⟨d, shPair, []⟩) (f.attr.fits rule) → s.memHold (s.atIssue t) (some f.attr.ac.toNat) o.releases sc = false →
    (∀ l, l < 96 → (eff s t f.c).getLsbD l = true → (address s t f 0 l).toNat % 32 = 0) →
    let names := (List.range back).map (numOf f.d + ·)
    (eff s t f.c = 0 → SendsNothing i s t f.c (opsM f ⟨d, shPair, []⟩) names)
      ∧ (eff s t f.c ≠ 0 → Sends i s t f.c (opsM f ⟨d, shPair, []⟩)
          ⟨some f.attr.ac.toNat, none, 4, false, .wt, sc, o,
            (lanesIn (eff s t f.c)).map fun l => (l, (req l).1, address s t f 0 l, 32, (req l).2, [])⟩
          names fun t' => land (names.map fun n => (n, t'.token n)))

/-- A trap enters its handler, or ends the workgroup where it is nested or finds none (R246 to R248, R253). -/
def Obligations.TrapEntryAndEnd : Prop :=
  (∀ s t i tpc h, s.troupe? t.wg t.trix = some t → t.intrap = false → handlerIs s t i.cause h → h ≠ 0 →
      ∃ t', Entered s (s.takeTrap t i tpc) t t' i tpc (BitVec.ofNat 64 h))
  ∧ (∀ s t i tpc, s.troupe? t.wg t.trix = some t → t.exited = false →
      (t.intrap = true ∨ (∃ c, s.ctxOf t = some c ∧ c.trap.getLsbD 0 = false) ∨ handlerIs s t i.cause 0) → Ends s (s.takeTrap t i tpc) t i tpc)

/-- `trap`, `bkpt`, an unassigned word and a fetch that ends with a fault code take their traps; `tret` returns, outside a handler it
traps; `halt` stops the workgroup for the debug core or is a breakpoint (R253, R287, R303, R305, R449, R450, R453). -/
def Obligations.TrapInstructions : Prop :=
  (∀ f (m : BitVec 18) s t, f.b = .imm m → s.issuesWith t f.c (ops f ⟨[.unused], [.unused], []⟩) true →
    (takes s t f.c = true → exec (.trap f) s = .next (s.takeTrap t ⟨0x31, m.signExtend 64, 0⟩ (t.pc + 12)))
      ∧ (takes s t f.c = false → Passes (.trap f) s t f.c (ops f ⟨[.unused], [.unused], []⟩)))
  ∧ (∀ f s t, s.issuesWith t f.c (ops f shNo) true →
      (takes s t f.c = true → exec (.bkpt f) s = .next (s.takeTrap t ⟨0x30, 0, 0⟩ t.pc)
        ∧ (t.intrap = false → exec (.tret f) s = .next (s.takeTrap t ⟨0x02, 0, 0⟩ t.pc))
        ∧ (t.intrap = true → ∃ u t', exec (.tret f) s = .next u ∧ s.restKept u ∧ s.othersKept u t ∧ u.becomes t t' ∧ t.regsKept t'
            ∧ t'.intrap = false ∧ t'.pc = t.tpc &&& ~~~3#64 ∧ t'.flags = t.flagged f.c ∧ { t' with intrap := true }.specials = t.specials))
      ∧ (takes s t f.c = false → Passes (.bkpt f) s t f.c (ops f shNo) ∧ Passes (.tret f) s t f.c (ops f shNo)
          ∧ Passes (.halt f) s t f.c (ops f shNo)))
  ∧ (∀ f s t c w, s.issuesWith t f.c (ops f shNo) true → s.ctxOf t = some c → s.wgOf t = some w → takes s t f.c = true →
      (c.halten = false → exec (.halt f) s = .next (s.takeTrap t ⟨0x30, 0, 0⟩ t.pc))
        ∧ (c.halten = true → ∃ u t', exec (.halt f) s = .next u ∧ Goes s t f.c (ops f shNo) u t' ∧ t'.specials = t.specials
            ∧ ∃ w', u.wg? t.wg = some w' ∧ w' = { w with status := .stopping, halt := true }))
  ∧ (∀ w code s t, s.cur? = some t → s.readyBare t = true →
      exec (.unassignedOpcode w) s = .next (s.takeTrap t ⟨0x01, 0, 0⟩ t.pc)
        ∧ ∃ v : State, v = { s with dies := v.dies, routers := v.routers, regions := v.regions, errors := v.errors }
            ∧ exec (.instructionFetchFault code) s = .next (v.takeTrap t ⟨code, t.pc, 0⟩ t.pc))

/-- `swreg` writes TPC in a handler and traps on every other register, `shrink` unmaps the names above the new allotment, `grow`
raises it, `faultrd` reads and clears the fault entries of its lanes, `pcfgrd` reads a lane's precision (R248, R250, R451, R452, R454). -/
def Obligations.SystemRegisters : Prop :=
  (∀ f (m : BitVec 18) s t, f.b = .imm m → specialNumber m.toNat → s.issuesWith t f.c (ops f ⟨[.unused], [.sr 2 60], []⟩) true →
    (takes s t f.c = true → ¬(m = 0x12 ∧ t.intrap = true) → exec (.swreg f) s = .next (s.takeTrap t ⟨0x02, 0, 0⟩ t.pc))
      ∧ (takes s t f.c = true → m = 0x12 → t.intrap = true → ∃ u t', exec (.swreg f) s = .next u ∧ s.restKept u
          ∧ Goes s t f.c (ops f ⟨[.unused], [.sr 2 60], []⟩) u t' ∧ t'.tpc = (sA s t f 1 ++ sA s t f 0) &&& ~~~3#64
          ∧ { t' with tpc := t.tpc }.specials = t.specials))
  ∧ (∀ f s t w, s.issuesWith t f.c (ops f ⟨[.unused], [.sr 1 63, .imm], [.unused]⟩) true → takes s t f.c = true → s.wgOf t = some w →
      let a := (sA s t f 0).toNat
      (1 ≤ a → a ≤ t.allot → ∃ u t', exec (.shrink f) s = .next u ∧ s.restKept u ∧ s.othersKept u t ∧ u.becomes t t' ∧ t'.pc = t.pc + 12
          ∧ t'.flags = t.flagged f.c ∧ t'.sregs = t.sregs ∧ t'.preds = t.preds ∧ t'.allot = a ∧ { t' with allot := t.allot }.specials = t.specials
          ∧ t'.regs = t.regs.filter fun r => decide (r.name < a))
        ∧ (t.allot ≤ a → a ≤ w.allot → ∃ u t', exec (.grow f) s = .next u ∧ s.restKept u ∧ s.othersKept u t ∧ u.becomes t t'
            ∧ t'.pc = t.pc + 12 ∧ t'.flags = t.flagged f.c ∧ t.regsKept t' ∧ t'.allot = a ∧ { t' with allot := t.allot }.specials = t.specials)
        ∧ (a = 0 ∨ t.allot < a → exec (.shrink f) s = .next (s.takeTrap t ⟨0x02, 0, 0⟩ t.pc))
        ∧ (a < t.allot ∨ w.allot < a → exec (.grow f) s = .next (s.takeTrap t ⟨0x02, 0, 0⟩ t.pc)))
  ∧ (∀ f s t, s.issuesWith t f.c (ops f ⟨[.vw 2 false], [.unused], [.unused]⟩) true → t.faults.length = 96 →
      ∃ u t', exec (.faultrd f) s = .next u ∧ s.restKept u ∧ s.othersKept u t ∧ u.becomes t t' ∧ t'.pc = t.pc + 12
        ∧ t.lanesSet t' [] (s.now t + 6) (eff s t f.c) [(numOf f.d, lanesOf fun l => (t.faults.getD l 0).setWidth 32),
            (numOf f.d + 1, lanesOf fun l => (t.faults.getD l 0).extractLsb' 32 32)]
        ∧ { t' with faults := t.faults }.specials = t.specials
        ∧ ∀ l, l < 96 → t'.faults.getD l 0 = if (eff s t f.c).getLsbD l then 0 else t.faults.getD l 0)
  ∧ (∀ f s t, s.issuesWith t f.c (ops f ⟨[.sw 1 60], [.sr 1 63, .imm], [.unused]⟩) true →
      (takes s t f.c = true → (sA s t f 0).toNat < 96 → SetsScalars (.pcfgrd f) s t f.c (ops f ⟨[.sw 1 60], [.sr 1 63, .imm], [.unused]⟩) 6
          [(numOf f.d, (t.pcfg.getD (sA s t f 0).toNat 0).setWidth 32)])
        ∧ (takes s t f.c = true → 96 ≤ (sA s t f 0).toNat → exec (.pcfgrd f) s = .next (s.takeTrap t ⟨0x02, 0, 0⟩ t.pc)))

/-- `exit` waits until flags, arrival counters, batches and `shflush` calls are over; then the troupe's registers and its place in the
ring are freed, what it still reports goes to the error core, and its workgroup drains when no troupe is left (R102, R345). -/
def Obligations.ExitEndsTroupe : Prop :=
  ∀ f s t w, s.issuesWith t f.c (ops f shNo) true → s.wgOf t = some w →
    let busy := t.flags ≠ 0 ∨ (∃ n ∈ t.acs, n ≠ 0) ∨ t.openBatch.left ≠ 0 ∨ (∃ b ∈ t.batches, b.left ≠ 0)
      ∨ ∃ p ∈ t.pend, ∃ d g r wait unsent stage, p.act = .shflush d g r wait unsent stage
    (takes s t f.c = false → Passes (.exit f) s t f.c (ops f shNo))
    ∧ (takes s t f.c = true → busy → exec (.exit f) s = .next s)
    ∧ (takes s t f.c = true → ¬busy → ∃ u t' w', exec (.exit f) s = .next u ∧ u.mem = s.mem ∧ u.reqs = s.reqs ∧ s.othersKept u t
        ∧ u.becomes t t' ∧ t'.exited = true ∧ t'.regs = [] ∧ u.wg? t.wg = some w'
        ∧ (w'.status = if ∀ x ∈ s.troupes, x.wg = t.wg → x.exited = false → x.trix = t.trix then .draining else w.status)
        ∧ (w'.failed = true ↔ w.failed = true ∨ t.errpend ≠ 0 ∨ t.leftovers ≠ []) ∧ u.errors = s.errors ++ t.leftovers)

/-- The checks of R302 in their order: operands, modifier and peak (ILLOPND), then the first unmapped source name (DEADREG), then a
damaged source register (MEMERR); a check that fails is all that happens (R245). -/
def Obligations.OperandChecksTrap : Prop :=
  ∀ i c o mod s t, Checked s t i c o mod → s.mayIssue t c →
    let bad := o.ok (s.atIssue t) = false ∨ mod = false ∨ s.overPeak (s.atIssue t) (o.rel (s.atIssue t))
      ((o.fresh (s.atIssue t)).filter fun n => t.mapped n || !(o.src (s.atIssue t)).contains n) = true
    (bad → exec i s = .next (s.takeTrap t ⟨0x02, 0, 0⟩ t.pc))
    ∧ (∀ n, ¬bad → (o.src (s.atIssue t)).find? (fun n => !t.mapped n) = some n → exec i s = .next (s.takeTrap t ⟨0x03, BitVec.ofNat 64 n, 0⟩ t.pc))
    ∧ (¬bad → (∀ n ∈ o.src (s.atIssue t), t.mapped n = true) → ((∃ r ∈ t.regs, r.damaged = true ∧ r.name ∈ o.src (s.atIssue t))
        ∨ ∃ n ∈ o.scalars (s.atIssue t), n ∈ t.badS) → exec i s = .next (s.takeTrap t ⟨0x10, 0, 0⟩ t.pc))

/-! ## Encoding, operands, the step, reset -/

namespace Sys2Proof.Claims

/-- The words of instructions without a guard, a hint or a flag. -/
def plainCtl : Ctl := ⟨7, false, 0, 0, 15, false⟩

/-- Words written out field by field from R289, R291, R297 and R300 with the opcodes of R307 to R315, one or more of each group. -/
inductive Written : IWord → Instr → Prop
  | vadd : Written 0x0C000001_02012010_00041C80#96 (.vadd ⟨⟨7, false, 0, 0, 3, false⟩, .vec 4 false 0 0, .vec 1 false 1 1, .vec 2 true 0 0⟩)
  | scmp : Written 0x3C000800_758000A4_000E5C14#96 (.scmp ⟨⟨7, false, 2, 0, 15, false⟩, .scal 14, .scal 10, .imm 0x75⟩)
  | brnz : Written 0x3C0003FF_FFFFFFEC_00075C22#96 (.brnz ⟨plainCtl, .scal 7, 0xFFFFFFFFFB⟩)
  | pfroms : Written 0x3C000000_008003D4_0002DC47#96 (.pfroms ⟨plainCtl, .special 2, .scal 61, .imm 0⟩)
  | fadd : Written 0x3C000000_03000020_00011D00#96 (.fadd .f32 ⟨plainCtl, .vec 1 false 0 0, .vec 2 false 0 0, .vec 3 false 0 0⟩)
  | vpadd : Written 0x3C000000_300002C0_00281D82#96
      (.vpadd .w3 ⟨plainCtl, .vec 40 false 0 0, .vec 44 false 0 0, .vec 48 false 0 0⟩)
  | ld : Written 0x3C000020_E4800140_00081DC0#96 (.ld ⟨plainCtl, .vec 8 false 0 0, .vec 20 false 0 0, ⟨2, 0, 3, 4, 4, 2⟩⟩)
  | atomCas : Written 0x3C001410_64000584_00021E0A#96 (.atomCas ⟨⟨7, false, 5, 0, 15, false⟩, .vec 2 false 0 0, .scal 88, ⟨1, 0, 1, 4, 4, 0⟩⟩)
  | barw : Written 0x3C000000_0080033C_00009E40#96 (.barw ⟨plainCtl, .imm 0, .special 51, .imm 0⟩)
  | mma : Written 0x3C000000_04400400_00001E84#96 (.mma .bf16 ⟨plainCtl, .vec 0 false 0 0, .vec 64 false 0 0, .scal 4⟩)
  | chunk : Written 0x3C000800_6C000584_000006C5#96 (.chunk ⟨⟨1, false, 2, 0, 15, false⟩, .vec 0 false 0 0, .scal 88, ⟨0, 0, 1, 5, 4, 0⟩⟩)
  | trap : Written 0x3C000000_05800008_00009F00#96 (.trap ⟨plainCtl, .imm 0, .imm 0, .imm 5⟩)

/-- The lane that lane i reads under a pattern and its parameter (R141). -/
def patternLane (pat n i : Nat) : Nat :=
  match pat with
  | 0 => i
  | 1 => (i + n) % 96
  | 2 => (i + 96 - n) % 96
  | 3 => n
  | 4 => 64 + n
  | 5 => 32 * (i / 32) + ((i % 32) ^^^ n)
  | _ => if n ≤ 5 then 2 ^ n * (i / 2 ^ n) + (2 ^ n - 1 - i % 2 ^ n) else 95 - i

/-- Identity values that the troupe and its workgroup hold (R130). -/
inductive Identity (s : State) (t : Troupe) (w : Workgroup) : Nat → Word → Prop
  | lanes : Identity s t w 64 96
  | trix : Identity s t w 65 (BitVec.ofNat 32 t.trix)
  | count : Identity s t w 66 (BitVec.ofNat 32 w.troupes)
  | wgx : w.node = none → Identity s t w 67 (BitVec.ofNat 32 w.x)
  | wgxNode (n) : w.node = some n → Identity s t w 67 0
  | wgw : Identity s t w 70 (BitVec.ofNat 32 w.w)
  | die : Identity s t w 78 (BitVec.ofNat 32 (t.pipe / 32))
  | core : Identity s t w 79 (BitVec.ofNat 32 t.idCore)
  | pipe : Identity s t w 80 (BitVec.ofNat 32 (t.pipe % 4))
  | slot : Identity s t w 81 (BitVec.ofNat 32 t.idSlot)
  | allot : Identity s t w 84 (BitVec.ofNat 32 t.allot)
  | allotMax : Identity s t w 85 (BitVec.ofNat 32 w.allot)
  | node (l n) : w.node = some (l, n) → Identity s t w 86 (BitVec.ofNat 32 n)
  | noNode : w.node = none → Identity s t w 86 0xFFFFFFFF
  | ctx : Identity s t w 87 (BitVec.ofNat 32 (w.ctx % 256))
  | argsLo : Identity s t w 88 (w.args.setWidth 32)
  | argsHi : Identity s t w 89 (w.args.extractLsb' 32 32)
  | inLo : Identity s t w 90 (w.inl.setWidth 32)
  | inHi : Identity s t w 91 (w.inl.extractLsb' 32 32)
  | unassigned (n) : 92 ≤ n → n < 128 → Identity s t w n 0

end Sys2Proof.Claims

/-- Decoding an encoded well-formed instruction gives it back, with every operand at every value that its encoding admits, and encoding
what a word decodes to gives the word back: no bit is dropped. -/
def Obligations.RoundTrip : Prop :=
  (∀ i w rest, i.wf = true → encode i = some w → decode (natLe 12 w.toNat ++ rest) = .ok (i, rest))
  ∧ ∀ w : IWord, encode (decodeWord w) = some w

/-- The words written out from the encoding tables decode to the instructions that they stand for; a word with bit 95 set, or with an
sflag of 12 to 14, is no instruction but the table's row for it (R142, R289, R302). -/
def Obligations.EncodingWords : Prop :=
  (∀ w i, Written w i → decodeWord w = i)
  ∧ ∀ w : IWord, w.getLsbD 95 = true ∨ (12 ≤ (w.extractLsb' 90 4).toNat ∧ (w.extractLsb' 90 4).toNat ≤ 14) → decodeWord w = .unassignedOpcode w

/-- What an operand reads when nothing is on its way to it: an immediate sign-extended, a scalar in every lane, a vector name through
its pattern, zero from v255, all ones from p7, the identity values (R129, R130, R141, R291). -/
def Obligations.OperandValues : Prop :=
  (∀ (s : State) (t : Troupe) k (v : BitVec 18) l, l < 96 → lane (s.rdLanes t k (.imm v) 0) l = v.signExtend 32 ∧ s.rdWord t k (.imm v) 0 = v.signExtend 32)
  ∧ (∀ (s : State) (t : Troupe) k (n : BitVec 8) l, l < 96 → t.hazardous (.s n.toNat) = false → n.toNat < 64 →
      lane (s.rdLanes t k (.scal n) 0) l = t.sregs.getD n.toNat 0 ∧ s.rdWord t k (.scal n) 0 = t.sregs.getD n.toNat 0)
  ∧ (∀ (s : State) (t : Troupe) k (n : BitVec 8) last (pat : BitVec 3) (par : BitVec 6) j l, l < 96 → pat.toNat < 7 → t.hazardous (.v (n.toNat + j)) = false →
      (patOk pat par = true) → lane (s.rdLanes t k (.vec n last pat par) j) l = lane (t.vval (n.toNat + j)) (patternLane pat.toNat par.toNat l))
  ∧ (∀ (t : Troupe) l, t.vreg? 255 = none → lane (t.vval 255) l = 0)
  ∧ (∀ (t : Troupe) n, 7 ≤ n → t.pred n = BitVec.allOnes 96)
  ∧ ∀ (s : State) t w n v, s.wgOf t = some w → Identity s t w n v → s.sval t n = v

/-- A turn of a pipe fetches the twelve bytes at the program counter of the first troupe in its ring's order, and where these decode to
an instruction that issues, the step is that instruction's, after which the pipe has moved its pick on, a unit that the instruction
occupies is taken and the workgroup's energy is metered; where the instruction needs a unit and the pipe has none free, it does not
issue (R125, R145). An event's turn is the event's, a unit's turn the unit's. That turns stand in an agenda is the model's choice:
log entry 10. -/
def Obligations.StepRunsDecoded : Prop :=
  (∀ s p rest t more c b i r s2, s.agenda = .pipe p :: rest → s.boot.dead = false → s.boot.halted = false →
    let s1 := { s with agenda := rest }.modDie (p / 32) fun d => { d with cycle := max d.cycle (s.pipe p).free }
    (s.pipe p).order = (t.wg, t.trix) :: more → s1.troupe? t.wg t.trix = some t → s1.readyBare t = true → s1.yieldTrap t = none →
    s1.ctxOf t = some c → s1.readVa c t.die .fetch 3 t.pc 12 = .bytes b → decode b = .ok (i, r) →
    ((s1.pipe t.pipe).unitsBusy i (s1.now t) = false → exec i { s1 with cur := (t.wg, t.trix) } = .next s2 → s2.free ≠ s1.free →
      ∃ ptr bts units, step s = .next ((s2.modWg t.wg fun w => { w with used := w.used + Config.energyPerBeat * bts }).modPipe p fun q =>
        { q with ptr := ptr, last := some (t.wg, t.trix), free := (s1.die (p / 32)).cycle + bts, fpFree := units }))
      ∧ ((s1.pipe t.pipe).unitsBusy i (s1.now t) = true → more = [] →
          step s = .next (s1.modDie (p / 32) fun d => { d with cycle := d.cycle + 1 })))
  ∧ (∀ s i rest, s.agenda = .event i :: rest → s.boot.dead = false → s.boot.halted = false → step s = exec i { s with agenda := rest })
  ∧ ∀ s u rest, s.agenda = .unit u :: rest → s.boot.dead = false → s.boot.halted = false →
      step s = .next (State.unitTurn { s with agenda := rest } u)

/-- Every step keeps memory in its canonical form: bytes in rising order of address, none equal to what an unlisted address reads as (the
model's choice: log entry 2). -/
def Obligations.MemoryCanonicalKept : Prop :=
  ∀ s u, s.Canonical → step s = .next u → u.Canonical

/-- What reset leaves, as far as the manual gives the values: die phase 0 and every completion counter 0xFFFF (R238), HBMPAGE.IDLE
0x0100 (R176), LEASELOG2 22 (R216), LIFESTAT 0 and STALE 0 (R38), the completion timeout's k 24 (R44), counters 0 (R178, R201, R227), the
stealing registers (R98); memory lists nothing, and its form is canonical. -/
def Obligations.ResetState : Prop :=
  State.reset.Canonical ∧ State.reset.mem = [] ∧ State.reset.timeoutK = 24 ∧ State.reset.boot.start = 0
    ∧ (∀ d, d < 32 → (State.reset.die d).dph = 0 ∧ (∀ h, h < 32 → (State.reset.die d).phcomp.getD h 0 = 0xFFFF) ∧ (State.reset.die d).idle = 0x0100
        ∧ (State.reset.die d).leaseLog2 = 22 ∧ (State.reset.die d).corr = 0 ∧ (State.reset.die d).uncorr = 0 ∧ (State.reset.die d).damaged = []
        ∧ (State.reset.die d).roundLost = 0 ∧ (State.reset.die d).early = 0 ∧ (State.reset.die d).defer = 0 ∧ (State.reset.die d).gfail = 0
        ∧ (State.reset.die d).lapses = 0 ∧ (State.reset.die d).evict = 0 ∧ (State.reset.die d).merges = 0 ∧ (State.reset.die d).splits = 0
        ∧ ∀ c, c < 8 → ∃ x, (State.reset.die d).cores[c]? = some x ∧ x.lfsr = 0x8000#16 ||| BitVec.ofNat 16 (8 * d + c))
    ∧ ∀ r, r < 64 → ∃ x, State.reset.routers[r]? = some x ∧ x.life = 0 ∧ x.stale = 0

/-! ## Device steps and events: answers, translation, memory -/

namespace Sys2Proof.Claims

/-- An event that is enabled happens: it answers a next state, of which `post` says what the event leaves. -/
def Happens (i : Instr) (s : State) (post : State → Prop) : Prop := ∃ u, exec i s = .next u ∧ post u

/-- The lane's one request of an instruction, which the memory system has answered. -/
def alone (s : State) (r : MemReq) (p : Split) : Prop :=
  s.req? r.id = some r ∧ s.split? r.split = some p ∧ s.laneReqs r = [r] ∧ r.stage = .answered

/-- A register after a load of one scalar type (R383). -/
def loadedWord (size : BitVec 3) (b : List Byte) : Word :=
  match size.toNat with
  | 0 => BitVec.ofNat 32 (leNat b % 2 ^ 8)
  | 1 => (BitVec.ofNat 8 (leNat b)).signExtend 32
  | 2 => BitVec.ofNat 32 (leNat b % 2 ^ 16)
  | 3 => (BitVec.ofNat 16 (leNat b)).signExtend 32
  | _ => BitVec.ofNat 32 (leNat b)

/-- The troupe that an instruction belongs to, before and after. -/
def goesTo (s u : State) (wg trix : Nat) (t : Troupe) (post : Troupe → Prop) : Prop :=
  s.troupe? wg trix = some t → ∃ t', u.troupe? wg trix = some t' ∧ t'.pc = t.pc ∧ t'.sregs = t.sregs ∧ post t'

/-- Lane l of a name, as a mapping's result lands (R144, R145): the others keep their value. -/
def landsIn (t t' : Troupe) (n l : Nat) (v : Word) : Prop :=
  lane (t'.vval n) l = v ∧ ∀ j, j < 96 → j ≠ l → lane (t'.vval n) j = lane (t.vval n) j

/-- The name n has the mapping that an instruction took, and no result of fixed latency reaches it later. -/
def awaits (t : Troupe) (n tok now l : Nat) : Prop := (∃ g, t.vreg? n = some g ∧ g.token = tok) ∧ t.landsLast (.v n) now l ∧ l < 96

/-- The instruction under way has ended. -/
def endsPend (t t' : Troupe) (p : Pend) : Prop :=
  t'.pend = t.pend.filter (fun q => q.k != p.k) ∧ t'.flags = (match p.flag with | some f => t.flags &&& ~~~(1#12 <<< f) | none => t.flags)

/-- A whole failure of an emission and its reason: 3 a cancelled graph, 4 no graph, no such node, or a task for a node with HOLD (R110, R440). -/
inductive WholeFailure (s : State) (t : Troupe) (node : Nat) (task : Bool) : Nat → Prop
  | noGraph : s.graphOf t = none → WholeFailure s t node task 4
  | cancelled (g) : s.graphOf t = some g → s.graphCancelled g = true → WholeFailure s t node task 3
  | noNode (g) : s.graphOf t = some g → s.graphCancelled g = false → g.nodes.length ≤ node → WholeFailure s t node task 4
  | held (g n) : s.graphOf t = some g → s.graphCancelled g = false → g.nodes[node]? = some n → task = true → n.k.hold ≠ 0 →
      WholeFailure s t node task 4

/-- The graphs are as they were, but for the cycle in which an engine last applied an operation (R111). -/
def calm (g : Graph) : Graph := { g with segs := g.segs.map fun x => { x with last := (0, 0) } }
def graphsKept (s u : State) : Prop := u.graphs.map calm = s.graphs.map calm

/-- The bytes that a workgroup has moved count towards its energy (R62). -/
def metered (s u : State) (wg n : Nat) : Prop :=
  ∀ w, s.wg? wg = some w → ∃ w', u.wg? wg = some w' ∧ w'.used = w.used + Config.energyPerByte * n

/-- What the memory system and the queue engine answer; the operations that reach an engine in one cycle keep their order (R110, R111, R119, R143, R145, R250, R385, R440 to R445). -/
inductive ReplyEvent (s : State) : Instr → (State → Prop) → Prop
  | loaded (r p t n tok) : alone s r p → p.posted = false → r.fault = none → r.op = .load p.size → p.size.toNat < 5 → p.landing = .vec [(n, tok)] →
      awaits t n tok (s.die r.die).cycle r.lane → s.troupe? p.wg p.trix = some t →
      ReplyEvent s (.laneReply r.id) fun u => u.mem = s.mem ∧ u.req? r.id = none ∧ metered s u r.wg r.bytes ∧
        goesTo s u p.wg p.trix t fun t' => landsIn t t' n r.lane (loadedWord p.size r.result) ∧ t'.errpend = t.errpend ∧ t'.faults = t.faults
  | faulted (r p t e k) : alone s r p → p.posted = false → r.fault = some e → p.ac = some k → k < 16 → s.troupe? p.wg p.trix = some t →
      (t.faults.getD r.lane 0).getLsbD 63 = false → r.lane < t.faults.length →
      ReplyEvent s (.laneReply r.id) fun u => u.mem = s.mem ∧ u.req? r.id = none ∧
        goesTo s u p.wg p.trix t fun t' => t'.regs = t.regs ∧ t'.errpend = t.errpend ||| 1#16 <<< k
          ∧ t'.faults[r.lane]? = some (1#1 ++ (0#1 ++ (e ++ (BitVec.ofNat 4 k ++ (0#2 ++ r.va.extractLsb' 0 48)))))
  | secondFault (r p t e k) : alone s r p → p.posted = false → r.fault = some e → p.ac = some k → k < 16 → s.troupe? p.wg p.trix = some t →
      (t.faults.getD r.lane 0).getLsbD 63 = true → r.lane < t.faults.length →
      ReplyEvent s (.laneReply r.id) fun u =>
        goesTo s u p.wg p.trix t fun t' => t'.faults[r.lane]? = some (t.faults.getD r.lane 0 ||| 1#64 <<< 62)
  | lastLane (r p t k) : alone s r p → p.posted = false → p.left ≤ 1 → p.ac = some k → s.troupe? p.wg p.trix = some t →
      ReplyEvent s (.laneReply r.id) fun u => u.split? p.id = none ∧
        (∃ t', u.troupe? p.wg p.trix = some t' ∧ t'.acs = t.acs.modify k (· - 1)
          ∧ t'.flags = (match p.flag with | some f => t.flags &&& ~~~(1#12 <<< f) | none => t.flags))
  | moreLanes (r p t) : alone s r p → p.posted = false → 1 < p.left → s.troupe? p.wg p.trix = some t →
      ReplyEvent s (.laneReply r.id) fun u => u.split? p.id = some { p with left := p.left - 1 } ∧
        ∃ t', u.troupe? p.wg p.trix = some t' ∧ t'.acs = t.acs ∧ t'.flags = t.flags
  | stored (r p t) : alone s r p → p.posted = true → r.fault = none → p.left ≤ 1 → s.troupe? p.wg p.trix = some t →
      ReplyEvent s (.storeAck r.id) fun u => u.mem = s.mem ∧ u.req? r.id = none ∧ u.split? p.id = none ∧ u.errors = s.errors
        ∧ metered s u r.wg r.bytes ∧
        goesTo s u p.wg p.trix t fun t' => t'.stfail = t.stfail ∧ t'.regs = t.regs
  | storeFailed (r p t w e) : alone s r p → p.posted = true → r.fault = some e → s.troupe? p.wg p.trix = some t → s.wg? p.wg = some w →
      ReplyEvent s (.storeAck r.id) fun u => u.mem = s.mem ∧ ErrRec.lane p.wg p.trix r.lane e r.va ∈ u.errors
        ∧ (∃ w', u.wg? p.wg = some w' ∧ w'.failed = true) ∧ goesTo s u p.wg p.trix t fun t' => t'.stfail = true ∧ t'.errpend = t.errpend
  | emitRefused (t p head node pred vd tok lanes recs ph code g) : s.troupe? t.wg t.trix = some t → t.pend? p.k = some p →
      p.act = .emit head node pred vd tok lanes recs ph → s.releaseDone t p.k .dev ph = true → s.engineHeld t node (.emit t) = false →
      WholeFailure s t node head code →
      t.vreg? vd = some g → g.token = tok →
      ReplyEvent s (.queueEngineReply t.wg t.trix p.k) fun u => u.mem = s.mem ∧ graphsKept s u ∧
        goesTo s u t.wg t.trix t fun t' => endsPend t t' p ∧ (∀ l, l < 96 → lane (t'.vval vd) l =
            if lanes.getLsbD l then BitVec.ofNat 32 code else lane (t.vval vd) l)
          ∧ ∀ l, l < 96 → pred < 7 → pred < t.preds.length → (t'.pred pred).getLsbD l = (!lanes.getLsbD l && (t.pred pred).getLsbD l)
  | emitted (t p head node pred vd tok lanes l rec ph c g g' n k s1 gv) : s.troupe? t.wg t.trix = some t → t.pend? p.k = some p →
      p.act = .emit head node pred vd tok lanes [rec] ph → s.releaseDone t p.k .dev ph = true → lanesIn lanes = [l] →
      s.engineHeld t node (.emit t) = false →
      s.wholeReason t node head = none → s.graphOf t = some g → s.ctxOf t = some c → g.nodes[node]? = some n →
      s.vatParks c t.die g (8 * (s.graphDies g).length) node (s.coreOf g t) 1 n.k.recsize = [] →
      t.newDepth l ≤ g.depthMax → t.newDepth l ≤ n.k.ndepth →
      g.takeSlot node (s.coreOf g t) anySlot = some (k, g') →
      s.writeVa c t.die (g'.slotVa (8 * (s.graphDies g).length) node (s.coreOf g t) k) rec = .done s1 →
      t.vreg? vd = some gv → gv.token = tok →
      ReplyEvent s (.queueEngineReply t.wg t.trix p.k) fun u => u.mem = s1.mem
        ∧ (∃ y, u.graph? g.lvl = some y ∧ y.counter = g.counter + 1)
        ∧ goesTo s u t.wg t.trix t fun t' => endsPend t t' p ∧ landsIn t t' vd l (BitVec.ofNat 32 (256 * t.newDepth l))
            ∧ (pred < 7 → pred < t.preds.length → (t'.pred pred).getLsbD l = true)
  | tooDeep (t p head node pred vd tok lanes l rec ph c g n gv) : s.troupe? t.wg t.trix = some t → t.pend? p.k = some p →
      p.act = .emit head node pred vd tok lanes [rec] ph → s.releaseDone t p.k .dev ph = true → lanesIn lanes = [l] →
      s.engineHeld t node (.emit t) = false →
      s.wholeReason t node head = none → s.graphOf t = some g → s.ctxOf t = some c → g.nodes[node]? = some n →
      s.vatParks c t.die g (8 * (s.graphDies g).length) node (s.coreOf g t) 1 n.k.recsize = [] →
      (g.depthMax < t.newDepth l ∨ n.k.ndepth < t.newDepth l) → t.vreg? vd = some gv → gv.token = tok →
      ReplyEvent s (.queueEngineReply t.wg t.trix p.k) fun u => u.mem = s.mem
        ∧ (∃ y, u.graph? g.lvl = some y ∧ y.counter = g.counter)
        ∧ goesTo s u t.wg t.trix t fun t' => endsPend t t' p ∧ landsIn t t' vd l 2
            ∧ (pred < 7 → pred < t.preds.length → (t'.pred pred).getLsbD l = false)
  | nothingToTake (t p node pred n a b c lanes) : s.troupe? t.wg t.trix = some t → t.pend? p.k = some p →
      p.act = .deq node pred [(n, a), (n + 1, b), (n + 2, c)] lanes → s.engineHeld t node .deq = false →
      (s.graphOf t = none ∨ ∃ g, s.graphOf t = some g ∧ (g.nodes.length ≤ node ∨ ∃ x, g.nodes[node]? = some x ∧ x.k.hold ≠ 0)) →
      ReplyEvent s (.queueEngineReply t.wg t.trix p.k) fun u => u.mem = s.mem ∧ graphsKept s u ∧
        goesTo s u t.wg t.trix t fun t' => endsPend t t' p ∧ (∀ l, l < 96 → lanes.getLsbD l = true →
          (awaits t n a (s.now t) l → lane (t'.vval n) l = 0) ∧ (pred < 7 → pred < t.preds.length → (t'.pred pred).getLsbD l = false))
  | taken (t p node pred n a b c lanes l g x q rc) : s.troupe? t.wg t.trix = some t → t.pend? p.k = some p →
      p.act = .deq node pred [(n, a), (n + 1, b), (n + 2, c)] lanes → lanesIn lanes = [l] → s.engineHeld t node .deq = false →
      s.graphOf t = some g → g.nodes[node]? = some x → x.k.hold = 0 → (∀ d ∈ t.deqs, d.1 ≠ node) → g.seg? node (s.coreOf g t) = some q → q.recs.find? GRec.takeable = some rc →
      awaits t n a (s.now t) l → awaits t (n + 1) b (s.now t) l → awaits t (n + 2) c (s.now t) l →
      ReplyEvent s (.queueEngineReply t.wg t.trix p.k) fun u => u.mem = s.mem
        ∧ (∃ y, u.graph? g.lvl = some y ∧ y.counter = g.counter - 1)
        ∧ goesTo s u t.wg t.trix t fun t' =>
            let va := g.slotVa (8 * (s.graphDies g).length) node (s.coreOf g t) rc.slot
            endsPend t t' p ∧ landsIn t t' n l (va.extractLsb' 0 32) ∧ landsIn t t' (n + 1) l (va.extractLsb' 32 32)
              ∧ landsIn t t' (n + 2) l (BitVec.ofNat 32 rc.depth) ∧ (pred < 7 → pred < t.preds.length → (t'.pred pred).getLsbD l = true)
              ∧ (node, s.coreOf g t, rc.slot) ∈ t'.deqs
  | given (t p lanes l lvl node core slot d q g x) : s.troupe? t.wg t.trix = some t → t.pend? p.k = some p → p.act = .gexit lanes →
      s.releaseDone t p.k .tr 0 = true → lanesIn lanes = [l] → t.lrecs.getD l none = some ⟨lvl, node, core, some slot, d, q⟩ →
      s.graph? lvl = some g → node < g.nodes.length → g.seg? node core = some x →
      ReplyEvent s (.queueEngineReply t.wg t.trix p.k) fun u => u.mem = s.mem
        ∧ (∃ y z, u.graph? lvl = some y ∧ y.seg? node core = some z ∧ slot ∉ z.taken ∧ ∀ r ∈ z.recs, r.slot ≠ slot)
        ∧ goesTo s u t.wg t.trix t fun t' => endsPend t t' p ∧ t'.regs = t.regs ∧ t'.lrecs = t.lrecs.set l (some ⟨lvl, node, core, none, d, q⟩)
  | engineOrder (t p head node pred vd tok lanes recs ph) : s.troupe? t.wg t.trix = some t → t.pend? p.k = some p →
      p.act = .emit head node pred vd tok lanes recs ph → s.engineHeld t node (.emit t) = true →
      ReplyEvent s (.queueEngineReply t.wg t.trix p.k) fun u => u = s

/-- A read that a leaf has translated waits for its home with its place (R162, R166). -/
def translated (u : State) (r : MemReq) (c : Ctx) (loc : Nat) : Prop :=
  ∃ q, u.req? r.id = some q ∧ q.stage = .ready ∧ q.loc = loc ∧ q.home = c.homeOf r.die loc ∧ q.fault = r.fault

/-- The leaf gives a plain read a place in an HBM. -/
def readsAt (c : Ctx) (p : DWord) (level : Nat) (r : MemReq) (loc : Nat) : Prop :=
  (∃ sz, r.op = .load sz) ∧ c.leafAt .read p level r.va = .at loc p ∧ locKind loc = 0 ∧ c.windowOf p r.va = none

/-- The resolver of a page has nothing to do with the shard engine, and no troupe waits for the page. -/
def plainPage (s : State) (c : Ctx) (page : Nat) : Prop :=
  s.resolving.contains (c.key, page) = true ∧ s.ctx? c.key = some c ∧ s.shardLeaf c page = none ∧ s.gather? c.key page = none
    ∧ s.partial? c.key page = none ∧ s.stale c.key page = false ∧ s.waitersAt c.key page = []

/-- The entries that a walk reads, and no read of them ends at a home that cannot be reached (R13, R39). -/
def walkClear (s : State) (c : Ctx) (w : Walk) : Prop := ∀ loc ∈ s.walkReads c w.page, s.gap w.die (c.homeOf w.die loc) = none

/-- Every entry that a walk reads has its home on the walker's die. -/
def walkLocal (s : State) (c : Ctx) (w : Walk) : Prop := ∀ loc ∈ s.walkReads c w.page, c.homeOf w.die loc = w.die

/-- The walk runs, for a context that is there, and no troupe waits for its page. -/
def walking (s : State) (w : Walk) (c : Ctx) : Prop :=
  s.walks.find? (fun x => x.id == w.id && x.running) = some w ∧ s.ctx? w.ctx = some c ∧ s.waitersAt w.ctx w.page = []

/-- The entry of a migrating frame, one of its lines, and no troupe that waits for its page. -/
def migrating (s : State) (m : Migr) : Prop :=
  s.migrs.find? (fun x => x.die == m.die && x.frame == m.frame) = some m ∧ s.waitersAt m.ctx m.page = []

/-- A line of the frame is in fetch. -/
def inFetch (m : Migr) (ln : Nat) : Prop := ln < 64 ∧ m.present.getLsbD ln = false ∧ m.fetching.getLsbD ln = true

/-- Translation and migration (R159 to R174), the banks (R176), ECC (R177, R178). -/
inductive MemoryEvent (s : State) : Instr → (State → Prop) → Prop
  | miss (r) : s.req? r.id = some r → r.stage = .untranslated false → (∀ w ∈ s.walks, ¬(w.die = r.die ∧ w.ctx = r.ctx ∧ w.page = r.page)) →
      MemoryEvent s (.translationMiss r.id) fun u => u.mem = s.mem ∧ u.req? r.id = some { r with stage := .untranslated true }
        ∧ ∃ id, u.walks = s.walks ++ [⟨id, r.die, r.ctx, r.page, decide ((s.walks.filter fun w => w.die == r.die && w.running).length < 96)⟩]
  | joins (r w) : s.req? r.id = some r → r.stage = .untranslated false → w ∈ s.walks → w.die = r.die → w.ctx = r.ctx → w.page = r.page →
      MemoryEvent s (.translationMiss r.id) fun u => u.mem = s.mem ∧ u.walks = s.walks ∧ u.req? r.id = some { r with stage := .untranslated true }
  | walkFails (w c e r) : walking s w c → walkClear s c w → s.walk c (BitVec.ofNat 64 (4096 * w.page)) = .fault e →
      r ∈ s.missesOf w → s.req? r.id = some r → r.op ≠ .prefetch →
      MemoryEvent s (.walkComplete w.id) fun u => u.tlbs = s.tlbs ∧ u.req? r.id = some { r with stage := .answered, fault := some e }
  | walkUnreached (w c loc r) : walking s w c → loc ∈ s.walkReads c w.page → s.gap w.die (c.homeOf w.die loc) ≠ none →
      fieldD (BitVec.ofNat 64 (4096 * w.page)) 63 48 = 0 → r ∈ s.missesOf w → s.req? r.id = some r → r.op ≠ .prefetch →
      MemoryEvent s (.walkComplete w.id) fun u => u.mem = s.mem ∧ u.tlbs = s.tlbs
        ∧ u.req? r.id = some { r with stage := .answered, fault := some 0x11 }
  | walkParks (w c r) : walking s w c → walkClear s c w → s.walk c (BitVec.ofNat 64 (4096 * w.page)) = .absent → s.missesOf w = [r] →
      s.req? r.id = some r → r.op ≠ .prefetch → s.parked r.die < 4096 →
      MemoryEvent s (.walkComplete w.id) fun u => u.tlbs = s.tlbs ∧ (w.ctx, w.page) ∈ u.resolving
        ∧ ∃ q, u.req? r.id = some q ∧ q.stage = .parked ∧ q.fault = r.fault
  | parkFull (w c r) : walking s w c → walkClear s c w → s.walk c (BitVec.ofNat 64 (4096 * w.page)) = .absent → s.missesOf w = [r] →
      s.req? r.id = some r → r.op ≠ .prefetch → 4096 ≤ s.parked r.die →
      MemoryEvent s (.walkComplete w.id) fun u => u.tlbs = s.tlbs ∧ u.req? r.id = some { r with stage := .untranslated false }
  | walkCaches (w c p lv loc) : walking s w c → walkClear s c w → s.walk c (BitVec.ofNat 64 (4096 * w.page)) = .leaf p lv loc →
      pteShare p ≠ 2 → s.missesOf w = [] → (w.ctx, w.page) ∉ s.resolving →
      MemoryEvent s (.walkComplete w.id) fun u => (⟨w.die, w.ctx, w.page, p, lv⟩ : Tlb) ∈ u.tlbs
  | walkMarks (w c p lv loc) : s.Canonical → walking s w c → walkClear s c w → walkLocal s c w → s.migrs = [] →
      s.walk c (BitVec.ofNat 64 (4096 * w.page)) = .leaf p lv loc → pteShare p ≠ 2 → s.missesOf w = [] → (w.ctx, w.page) ∉ s.resolving →
      MemoryEvent s (.walkComplete w.id) fun u => ∀ a ∈ s.walkReads c w.page, u.viewD a = s.viewD a ||| 0x40#64
  | walkAnswers (w c p lv loc r a) : walking s w c → walkClear s c w → s.walk c (BitVec.ofNat 64 (4096 * w.page)) = .leaf p lv loc →
      pteShare p ≠ 2 → s.missesOf w = [r] → (w.ctx, w.page) ∉ s.resolving →
      s.req? r.id = some r → s.parksBehind r = false → readsAt c p lv r a →
      MemoryEvent s (.walkComplete w.id) fun u => (⟨w.die, w.ctx, w.page, p, lv⟩ : Tlb) ∈ u.tlbs ∧ translated u r c a
  | walkWakes (w c p lv loc t) : s.walks.find? (fun x => x.id == w.id && x.running) = some w → s.ctx? w.ctx = some c → walkClear s c w →
      s.walk c (BitVec.ofNat 64 (4096 * w.page)) = .leaf p lv loc → pteShare p ≠ 2 → s.missesOf w = [] → (w.ctx, w.page) ∉ s.resolving →
      s.waitersAt w.ctx w.page = [t] → t.die = w.die → s.troupe? t.wg t.trix = some t → t.wait = .fetch w.page →
      MemoryEvent s (.walkComplete w.id) fun u => u.troupe? t.wg t.trix = some { t with wait := .none }
  | resolverFails (c page r) : plainPage s c page → s.walk c (BitVec.ofNat 64 (4096 * page)) = .absent → s.moving c.key page = false →
      r ∈ s.parkedAt c.key page → s.req? r.id = some r → r.op ≠ .prefetch →
      MemoryEvent s (.resolverFinish c.key page) fun u => u.mem = s.mem ∧ (c.key, page) ∉ u.resolving
        ∧ u.req? r.id = some { r with stage := .answered, fault := some 0x08 }
  | resolverMaps (c page r p lv loc a) : plainPage s c page → s.walk c (BitVec.ofNat 64 (4096 * page)) = .leaf p lv loc → pteShare p ≠ 2 → pteShare p ≠ 3 →
      s.parkedAt c.key page = [r] → s.req? r.id = some r → readsAt c p lv r a →
      MemoryEvent s (.resolverFinish c.key page) fun u => u.mem = s.mem ∧ (c.key, page) ∉ u.resolving ∧ translated u r c a
  | invalidated (i) : s.invals.find? (fun x => x.die == i.die) = some i → s.partial? i.ctx i.page = none →
      MemoryEvent s (.translationInvalidate i.die) fun u => u.mem = s.mem ∧ u.invals = s.invals.erase i
        ∧ ∀ t, t ∈ u.tlbs ↔ t ∈ s.tlbs ∧ ¬(t.die = i.die ∧ t.ctx = i.ctx ∧ t.page = i.page)
  | engineTakes (m i ln) : migrating s m → m.fetching = 0 → m.engine = 0 → i < 64 → m.present.getLsbD i = false →
      (∀ k < i, m.present.getLsbD k = true) → m.present.getLsbD ln = true →
      MemoryEvent s (.migrationLineFetch m.die m.frame ln) fun u => u.mem = s.mem ∧
        ∃ x, u.migrs.find? (fun x => x.die == m.die && x.frame == m.frame) = some x ∧ x.present = m.present
          ∧ x.fetching.getLsbD i = true ∧ popcount x.engine ≤ 4
  | lineFetched (m ln) : s.Canonical → migrating s m → inFetch m ln → s.oldFault m ln = none → m.old ≠ m.frame →
      m.present ||| 1#64 <<< ln ≠ BitVec.allOnes 64 →
      MemoryEvent s (.migrationLineFetch m.die m.frame ln) fun u =>
        (∃ x, u.migrs.find? (fun x => x.die == m.die && x.frame == m.frame) = some x ∧ x.present = m.present ||| 1#64 <<< ln)
          ∧ ∀ i, i < 64 → cellGet u.mem (4096 * m.frame + 64 * ln + i) = s.viewByte (4096 * m.old + 64 * ln + i)
  | lineFails (m ln e) : migrating s m → inFetch m ln → s.oldFault m ln = some e → m.die < s.dies.length →
      (s.die m.die).damaged.length < 256 → locKind (64 * (64 * m.frame + ln)) = 0 → m.present ||| 1#64 <<< ln ≠ BitVec.allOnes 64 →
      MemoryEvent s (.migrationLineFetch m.die m.frame ln) fun u =>
        (∃ x, u.migrs.find? (fun x => x.die == m.die && x.frame == m.frame) = some x ∧ x.present.getLsbD ln = true)
          ∧ 64 * m.frame + ln ∈ (u.die m.die).damaged
  | lastLine (m ln) : migrating s m → inFetch m ln → m.old ≠ m.frame → m.present ||| 1#64 <<< ln = BitVec.allOnes 64 →
      MemoryEvent s (.migrationLineFetch m.die m.frame ln) fun u => ∀ x ∈ u.migrs, ¬(x.die = m.die ∧ x.frame = m.frame)
  | precharged (b) : s.banks.find? (fun x => x.die == b.die && x.bank == b.bank) = some b → b.last + (s.die b.die).idle.toNat ≤ (s.die b.die).cycle →
      (∀ r ∈ s.reqs, r.stage = .atHome → r.home = b.die → r.kind = 0 → bankOf r.line = b.bank → some (rowOf r.line) ≠ b.row) →
      MemoryEvent s (.hbmIdlePrecharge b.die b.bank) fun u => { u with banks := s.banks } = s
        ∧ u.banks.find? (fun x => x.die == b.die && x.bank == b.bank) = some { b with row := none }
  | staysOpen (b r) : s.banks.find? (fun x => x.die == b.die && x.bank == b.bank) = some b → r ∈ s.reqs → r.stage = .atHome → r.home = b.die →
      r.kind = 0 → bankOf r.line = b.bank → some (rowOf r.line) = b.row → MemoryEvent s (.hbmIdlePrecharge b.die b.bank) fun u => u = s
  | refreshed (d k) : MemoryEvent s (.hbmRefresh d k) fun u => { u with banks := s.banks } = s
  | correctedHbm (d ln) : d < s.dies.length → MemoryEvent s (.eccError (.hbm d ln false)) fun u => u.mem = s.mem ∧ u.troupes = s.troupes
        ∧ (u.die d).corr = (if (s.die d).corr = 0xFFFFFFFF then 0xFFFFFFFF else (s.die d).corr + 1) ∧ (u.die d).uncorr = (s.die d).uncorr
  | failingHbm (d ln) : d < s.dies.length → MemoryEvent s (.eccError (.hbm d ln true)) fun u => u.mem = s.mem ∧ ln ∈ (u.die d).failing
  | failingEntry (d loc) : d < s.dies.length → MemoryEvent s (.eccError (.pte d loc true)) fun u => u.mem = s.mem ∧ loc / 64 ∈ (u.die d).failing
  | cleanLine (d core ln l) : s.lines.find? (fun x => x.die == d && x.core == core && x.line == ln) = some l → l.dirty = 0 → d < s.dies.length →
      MemoryEvent s (.eccError (.cache d core ln true)) fun u => u.mem = s.mem ∧ l ∉ u.lines
        ∧ (u.die d).corr = (if (s.die d).corr = 0xFFFFFFFF then 0xFFFFFFFF else (s.die d).corr + 1) ∧ (u.die d).damaged = (s.die d).damaged
  | dirtyLine (d core ln l) : s.lines.find? (fun x => x.die == d && x.core == core && x.line == ln) = some l → l.dirty ≠ 0 →
      l.window = false → l.excl = true → l.home < s.dies.length →
      MemoryEvent s (.eccError (.cache d core ln true)) fun u => u.mem = s.mem ∧ l ∉ u.lines ∧ ln ∈ (u.die l.home).failing
  | dirtyWindow (d core ln l) : s.lines.find? (fun x => x.die == d && x.core == core && x.line == ln) = some l → l.dirty ≠ 0 →
      l.window = true → l.home < s.dies.length →
      MemoryEvent s (.eccError (.cache d core ln true)) fun u => u.mem = s.mem ∧ l ∉ u.lines ∧ ln ∈ (u.die l.home).failing
  | cleanSlice (d ln x) : s.l2.find? (fun y => y.line == ln) = some x → x.dirty = false → d < s.dies.length →
      MemoryEvent s (.eccError (.l2 d ln true)) fun u => u.mem = s.mem ∧ (∀ y ∈ u.l2, y.line ≠ ln)
        ∧ (u.die d).corr = (if (s.die d).corr = 0xFFFFFFFF then 0xFFFFFFFF else (s.die d).corr + 1) ∧ (u.die d).failing = (s.die d).failing
  | dirtySlice (d ln x) : s.l2.find? (fun y => y.line == ln) = some x → x.dirty = true → d < s.dies.length →
      MemoryEvent s (.eccError (.l2 d ln true)) fun u => u.mem = s.mem ∧ (∀ y ∈ u.l2, y.line ≠ ln) ∧ ln ∈ (u.die d).failing
  | scratchBlock (d core i k b) : s.buf? (8 * d + core) i = some b → d < s.dies.length →
      MemoryEvent s (.eccError (.scratch d core i k true)) fun u => u.mem = s.mem
        ∧ (∃ b', u.buf? (8 * d + core) i = some b' ∧ k ∈ b'.damaged ∧ b'.mem = b.mem) ∧ (u.die d).uncorr = satInc (s.die d).uncorr
  | vectorName (t n r) : s.troupe? t.wg t.trix = some t → t.vreg? n = some r →
      MemoryEvent s (.eccError (.vreg t.wg t.trix n true)) fun u => u.mem = s.mem ∧
        goesTo s u t.wg t.trix t fun t' => t'.vreg? n = some { r with damaged := true }
  | scalarName (t n) : s.troupe? t.wg t.trix = some t →
      MemoryEvent s (.eccError (.sreg t.wg t.trix n true)) fun u => u.mem = s.mem ∧ goesTo s u t.wg t.trix t fun t' => n ∈ t'.badS ∧ t'.regs = t.regs
  | weightSlot (p k x) : x ∈ (s.pipe p).slots → p < s.pipes.length → x.1 ≤ k → k < x.1 + x.2.slots →
      MemoryEvent s (.eccError (.weight p k true)) fun u => u.mem = s.mem ∧ (x.1, { x.2 with damaged := true }) ∈ (u.pipe p).slots

end Sys2Proof.Claims

/-- The answers of the memory system and of the queue engine land as the manual says: a value, an error arrival or a failed store; a
status, a record or nothing; the counter, the flag and the instruction's place are settled with them. -/
def Obligations.AnswersLand : Prop := ∀ s i post, ReplyEvent s i post → Happens i s post

/-- Walks, resolvers, invalidations and migrations, the banks' timers and refreshes, and ECC's errors do what the manual says. -/
def Obligations.MemoryEvents : Prop := ∀ s i post, MemoryEvent s i post → Happens i s post

/-! ## Device steps and events: homes, copies, leases -/

namespace Sys2Proof.Claims

/-- The new value of an integer atomic, at a width (R401). `v2` is the new value of a compare-and-swap, `v` its compare value. -/
def atomicNew (w : Nat) : AtomOp → Nat → Nat → Nat → Nat
  | .add, o, v, _ => (o + v) % 2 ^ w
  | .sub, o, v, _ => (o + 2 ^ w - v) % 2 ^ w
  | .min, o, v, _ => if (BitVec.ofNat w o).toInt ≤ (BitVec.ofNat w v).toInt then o else v
  | .max, o, v, _ => if (BitVec.ofNat w o).toInt ≤ (BitVec.ofNat w v).toInt then v else o
  | .umin, o, v, _ => if o ≤ v then o else v
  | .umax, o, v, _ => if o ≤ v then v else o
  | .and, o, v, _ => (BitVec.ofNat w o &&& BitVec.ofNat w v).toNat
  | .or, o, v, _ => (BitVec.ofNat w o ||| BitVec.ofNat w v).toNat
  | .xor, o, v, _ => (BitVec.ofNat w o ^^^ BitVec.ofNat w v).toNat
  | .xchg, _, v, _ => v
  | .cas, o, v, v2 => if o = v then v2 else o
  | .inc, o, v, _ => if v ≤ o then 0 else o + 1
  | .dec, o, v, _ => if o = 0 ∨ v < o then v else o - 1

/-- The request at the head of its line at its home, which keeps the line in its own HBM; no lapsed lease covers it. -/
structure atHead (s : State) (r : MemReq) : Prop where
  mem : s.Canonical
  at_ : s.req? r.id = some r ∧ r.stage = .atHome ∧ s.waitingAt r = [r] ∧ s.lineBusy r = false
  kind : r.kind = 0 ∧ r.win = none ∧ r.fault = none
  line : s.lost? r.home r.line = none
  fits : r.loc % 64 + r.bytes ≤ 64 ∧ 0 < r.bytes

/-- No frame migrates, and the line's data is good. -/
def soundLine (s : State) (r : MemReq) : Prop := s.migrs = [] ∧ s.isFailing r.line = false ∧ s.isDamaged r.line = false

/-- Every cache has room for one line more, and for a second. -/
def roomy (s : State) : Prop := s.lines.length + 1 < 4096

/-- No die but `d` owns a line of those from `base` on, or is writing one back as its owner. -/
def soleOwner (s : State) (d base n : Nat) : Prop :=
  (∀ l ∈ s.lines, base ≤ l.line → l.line < base + n → l.excl = true → l.die = d)
    ∧ ∀ w ∈ s.wbs, base ≤ w.line → w.line < base + n → w.owner = true → w.die = d

/-- No directory entry covers the line, whose data is good and which no other die owns. -/
def freeLine (s : State) (r : MemReq) : Prop :=
  s.region? r.home r.line = none ∧ soundLine s r ∧ roomy s ∧ soleOwner s r.home r.line 1

/-- The request is answered, at once where its home is its own die. -/
def served (u : State) (r : MemReq) (result : List Byte) : Prop :=
  ∃ q, u.req? r.id = some q ∧ q.result = result ∧ (r.die = r.home → q.stage = .answered ∧ q.fault = none)

/-- The bytes that memory shows are `b` from `a` on, and as before elsewhere. -/
def shows (s u : State) (a : Nat) (b : List Byte) : Prop :=
  ∀ x, u.viewByte x = if a ≤ x ∧ x < a + b.length then b.getD (x - a) 0 else s.viewByte x

/-- The segment that a dependence object's record stands in: the node of byte 5, the core of bits [31:24] of its last word (R445). -/
def objectSegment (s : State) (g : Graph) (o : List Byte) : Option Seg :=
  g.seg? (byteAt o 5) (devCore (s.graphDies g) (leAt o 12 4 / 2 ^ 27) (leAt o 12 4 / 2 ^ 24 % 8))

/-- The notice of a request whose turn it is. -/
def noticed (s : State) (r : MemReq) : Prop :=
  (∀ q ∈ s.reqs, q.stage ≠ .held) ∧ (∃ o : Offered, (s.die r.die).notices.find? s.noticeReady = some o ∧ o.req = r.id) ∧ s.req? r.id = some r
    ∧ r.stage = .ready ∧ s.groupOf r = [r] ∧ r.kind = 0 ∧ r.win = none ∧ r.fault = none

/-- A packet has crossed the mesh: it is at the head of its buffer at its destination. -/
def arrived (s : State) (p : Packet) : Prop :=
  s.packet? p.id = some p ∧ p.returned = false ∧ p.held = false ∧ p.nack = false ∧ p.since ≠ none ∧ p.place = p.dst

/-- The destination takes it: a response whose requester still has its life, else a packet with the number that is waited for, of the
destination's partition and its present life (R19, R34, R39). -/
def accepted (s : State) (p : Packet) : Prop :=
  arrived s p ∧ p.tgtLife = s.lifeOf p.dst ∧
    (p.chan = 1 ∨ (s.seqOf p.src p.dst p.chan).want = p.seq ∧ s.socketOn p.dst = true ∧ (s.router p.dst).inReset = false
      ∧ s.sharesPart p.src p.dst = true)

/-- The message `load` from one socket to another has arrived, and is taken. -/
def brings (s : State) (src dst : Nat) (load : Payload) : Prop :=
  ∃ p, s.packetIf src dst (· == load) = some p.id ∧ accepted s p ∧ p.src = src ∧ p.dst = dst

/-- A response from one socket to another can leave. -/
def responds (s : State) (src dst : Nat) : Prop := s.socketOn dst = true ∧ (meshPath (s.router src).down false src dst).isSome = true

/-- A message is on its way. -/
def onMesh (u : State) (src dst : Nat) (load : Payload) : Prop := ∃ p ∈ u.packets, p.src = src ∧ p.dst = dst ∧ p.load = load

/-- A target of a transaction answers it. -/
def answers (s u : State) (t : Txn) (die : Nat) : Prop :=
  (∃ t', u.txn? t.id = some t' ∧ t'.targets = t.targets.filter (·.1 != die) ∧ die ∈ t'.acks ∧ u.reqs = s.reqs)
    ∧ (responds s die t.die → onMesh u die t.die (.ack t.id))

/-- What a home has asked of a die is there, and no other die owns a line of the half. -/
def asked (s : State) (t : Txn) (d : Nat) : Prop :=
  s.Canonical ∧ s.migrs = [] ∧ s.txn? t.id = some t ∧ d ≠ 32 ∧ t.base ≤ t.line ∧ t.line < t.base + 2 ^ t.size
    ∧ brings s t.die d (.snoop t.id) ∧ soleOwner s d t.base (2 ^ t.size)

/-- The grant of a transaction for one request is there, and no copy of its line stands anywhere. -/
def grantsTo (s : State) (t : Txn) (r : MemReq) : Prop :=
  s.Canonical ∧ s.migrs = [] ∧ roomy s ∧ s.txn? t.id = some t ∧ t.granted = true ∧ t.grantAck = false ∧ t.reqs = [r.id] ∧ t.line = r.line
    ∧ t.from_ = r.die ∧ t.die = r.home ∧ r.home ≠ r.die ∧ s.req? r.id = some r ∧ r.stage = .inTxn ∧ r.fault = none ∧ r.loc % 64 + r.bytes ≤ 64
    ∧ (∀ l ∈ s.lines, l.line ≠ r.line) ∧ (∀ w ∈ s.wbs, w.line ≠ r.line)
    ∧ ∃ p, s.packetIf t.die t.from_ (· == .grant t.id) = some p.id ∧ accepted s p ∧ p.src = r.home ∧ p.dst = r.die
      ∧ ∀ l ∈ s.leases, l.home = r.home → l.die = r.die → l.life = p.reqLife

/-- Notices, homes, directories and write-backs (R203 to R215), and leases (R216 to R222). -/
inductive CoherenceEvent (s : State) : Instr → (State → Prop) → Prop
  | toOwnHome (r) : noticed s r → memAtHome r.op = true → r.home = r.die →
      CoherenceEvent s (.orderNetworkNotice r.die) fun u => u.mem = s.mem ∧ u.lines = s.lines ∧ ∃ q, u.req? r.id = some q ∧ q.stage = .atHome
  | travels (r) : noticed s r → memAtHome r.op = true → r.home ≠ r.die → s.reachable r.die r.home = true → s.combine? r.die r.line = none →
      CoherenceEvent s (.orderNetworkNotice r.die) fun u => u.mem = s.mem ∧ (∃ q, u.req? r.id = some q ∧ q.stage = .travelling)
        ∧ ∃ p ∈ u.packets, p.src = r.die ∧ p.dst = r.home ∧ p.load = .mem [r.id] ∧ p.tgtLife = s.knownLife r.die r.home
  | hits (r l sz) : noticed s r → r.op = .load sz → s.l1? r = some l → (l.excl = true ∨ l.tracked = true ∧ r.pol ≠ .wt ∨ r.pol = .si) →
      CoherenceEvent s (.orderNetworkNotice r.die) fun u => u.mem = s.mem ∧
        ∃ q, u.req? r.id = some q ∧ q.stage = .answered ∧ q.fault = none ∧ q.result = (l.data.drop (r.loc % 64)).take r.bytes
  | storesInL1 (r l) : noticed s r → r.op = .store → r.pol = .own → r.val.length = r.bytes → r.loc % 64 + r.bytes ≤ 64 → s.l1? r = some l →
      l.excl = true →
      CoherenceEvent s (.orderNetworkNotice r.die) fun u => u.mem = s.mem ∧ (∃ q, u.req? r.id = some q ∧ q.stage = .answered ∧ q.fault = none)
        ∧ ∃ x ∈ u.lines, x.die = r.die ∧ x.core = some r.core ∧ x.line = r.line ∧ x.excl = true
          ∧ ∀ i, i < r.bytes → x.data.getD (r.loc % 64 + i) 0 = r.val.getD i 0 ∧ x.dirty.getLsbD (r.loc % 64 + i) = true
  | slotTaken (r) : noticed s r → memAtHome r.op = true → r.home = r.die → r.die < s.dies.length →
      CoherenceEvent s (.orderNetworkNotice r.die) fun u => (s.die r.die).slots < (u.die r.die).slots
        ∧ ∃ q, u.req? r.id = some q ∧ q.slot = (s.die r.die).slots
  | loadAtHome (r sz) : atHead s r → freeLine s r → r.op = .load sz → (r.pol = .wt ∨ r.pol = .si) →
      CoherenceEvent s (.homeRequest r.id) fun u => served u r (s.view r.loc r.bytes) ∧ shows s u 0 []
  | storeAtHome (r) : atHead s r → freeLine s r → r.op = .store → (r.pol = .wt ∨ r.pol = .si) → r.val.length = r.bytes → r.bytes < 64 →
      CoherenceEvent s (.homeRequest r.id) fun u => served u r [] ∧ shows s u r.loc r.val
  | atomicAtHome (r o) : atHead s r → freeLine s r → r.op = .atom o → (r.bytes = 4 ∨ r.bytes = 8) → r.val.length = r.bytes → r.val2.length = r.bytes →
      CoherenceEvent s (.homeRequest r.id) fun u => served u r (s.view r.loc r.bytes) ∧
        shows s u r.loc (natLe r.bytes (atomicNew (8 * r.bytes) o (leNat (s.view r.loc r.bytes)) (leNat r.val) (leNat r.val2)))
  | objectMade (r) : atHead s r → freeLine s r → r.op = .barinit → r.loc % 64 = 0 →
      CoherenceEvent s (.homeRequest r.id) fun u => served u r [] ∧
        let g := (leAt (s.view r.loc 64) 0 4 + 1) % 2 ^ 32
        shows s u r.loc (natLe 4 g ++ natLe 4 (max (leNat r.val) 1) ++ natLe 4 0 ++ natLe 4 g ++ [1])
  | objectEnded (r) : atHead s r → freeLine s r → r.op = .barinval → r.loc % 64 = 0 →
      CoherenceEvent s (.homeRequest r.id) fun u => served u r [] ∧
        let o := s.view r.loc 64
        shows s u r.loc (natLe 4 (leAt o 0 4 + 1) ++ (o.drop 4).take 4 ++ natLe 4 0 ++ (o.drop 12).take 4 ++ [0])
  | signalled (r) : atHead s r → freeLine s r → r.op = .bosig → r.loc % 64 = 0 → s.viewByte (r.loc + 16) = 1 → leNat r.val = leAt (s.view r.loc 64) 0 4 →
      leAt (s.view r.loc 64) 8 4 + 1 < leAt (s.view r.loc 64) 4 4 →
      CoherenceEvent s (.homeRequest r.id) fun u => served u r (natLe 4 0) ∧ shows s u (r.loc + 8) (natLe 4 (leAt (s.view r.loc 64) 8 4 + 1))
  | lastSignal (r) : atHead s r → freeLine s r → r.op = .bosig → r.loc % 64 = 0 → s.viewByte (r.loc + 16) = 1 → leNat r.val = leAt (s.view r.loc 64) 0 4 →
      leAt (s.view r.loc 64) 4 4 ≤ leAt (s.view r.loc 64) 8 4 + 1 →
      CoherenceEvent s (.homeRequest r.id) fun u => served u r (natLe 4 1) ∧
        shows s u r.loc (natLe 4 (leAt (s.view r.loc 64) 0 4 + 1) ++ ((s.view r.loc 64).drop 4).take 4 ++ natLe 4 0)
  | staleSignal (r) : atHead s r → freeLine s r → r.op = .bosig → r.loc % 64 = 0 → (s.viewByte (r.loc + 16) ≠ 1 ∨ leNat r.val ≠ leAt (s.view r.loc 64) 0 4) →
      CoherenceEvent s (.homeRequest r.id) fun u => served u r (natLe 4 0x20) ∧ shows s u 0 []
  | chunkTaken (r next fin) : atHead s r → freeLine s r → r.op = .chunk → r.loc % 32 = 0 → next = leAt (s.view r.loc 32) 0 8 → fin = leAt (s.view r.loc 32) 8 8 →
      next < fin →
      CoherenceEvent s (.homeRequest r.id) fun u =>
        let n := min (fin - next) (max (max 1 (leAt (s.view r.loc 32) 16 4)) (cdiv (fin - next) (2 * max 1 (leAt (s.view r.loc 32) 20 4))))
        served u r (natLe 8 next ++ natLe 8 n) ∧ shows s u r.loc (natLe 8 (next + n))
  | chunkEmpty (r) : atHead s r → freeLine s r → r.op = .chunk → r.loc % 32 = 0 → leAt (s.view r.loc 32) 8 8 ≤ leAt (s.view r.loc 32) 0 8 →
      CoherenceEvent s (.homeRequest r.id) fun u => served u r (natLe 8 (leAt (s.view r.loc 32) 8 8) ++ natLe 8 0) ∧ shows s u 0 []
  | dependent (r t g o) : atHead s r → freeLine s r → r.op = .depdec → r.loc % 32 = 0 → s.troupe? r.wg r.trix = some t → s.graphOf t = some g →
      o = s.view r.loc 32 → byteAt o 4 = 1 → leAt o 8 4 = (s.ident t 75).toNat → (objectSegment s g o).any (·.deps.contains (leAt o 12 4 % 2 ^ 24)) = true →
      r.loc ∉ g.deadObjs → 1 < leAt o 0 4 →
      CoherenceEvent s (.homeRequest r.id) fun u => served u r (natLe 4 0) ∧ shows s u r.loc (natLe 4 (leAt o 0 4 - 1)) ∧ u.graphs = s.graphs
  | independent (r t g o) : atHead s r → freeLine s r → r.op = .depdec → r.loc % 32 = 0 → s.troupe? r.wg r.trix = some t → s.graphOf t = some g →
      o = s.view r.loc 32 → byteAt o 4 = 1 → leAt o 8 4 = (s.ident t 75).toNat → (objectSegment s g o).any (·.deps.contains (leAt o 12 4 % 2 ^ 24)) = true →
      r.loc ∉ g.deadObjs → leAt o 0 4 ≤ 1 →
      CoherenceEvent s (.homeRequest r.id) fun u => served u r (natLe 4 1) ∧ shows s u r.loc [0, 0, 0, 0, 2] ∧
        ∃ y z, u.graph? g.lvl = some y ∧ objectSegment u y o = some z ∧ leAt o 12 4 % 2 ^ 24 ∉ z.deps
          ∧ ∃ rc rest, z.recs = rc :: rest ∧ rc.slot = leAt o 12 4 % 2 ^ 24 ∧ rc.depth = byteAt o 6
  | objectDead (r t g) : atHead s r → freeLine s r → r.op = .depdec → r.loc % 32 = 0 → s.troupe? r.wg r.trix = some t → s.graphOf t = some g →
      r.loc ∈ g.deadObjs → CoherenceEvent s (.homeRequest r.id) fun u => served u r (natLe 4 2) ∧ shows s u 0 [] ∧ u.graphs = s.graphs
  | damagedAtHome (r sz) : atHead s r → s.migrs = [] → s.isFailing r.line = false → s.isDamaged r.line = true → r.op = .load sz →
      CoherenceEvent s (.homeRequest r.id) fun u => u.mem = s.mem ∧ u.lines = s.lines ∧
        ∃ q, u.req? r.id = some q ∧ (r.die = r.home → q.stage = .answered ∧ q.fault = some 0x14)
  | failsAtHome (r sz) : atHead s r → s.migrs = [] → s.isFailing r.line = true → r.op = .load sz → r.home < s.dies.length →
      (s.die r.home).damaged.length < 256 → locKind (64 * r.line) = 0 →
      CoherenceEvent s (.homeRequest r.id) fun u => u.mem = s.mem ∧ u.lines = s.lines ∧ r.line ∈ (u.die r.home).damaged ∧
        ∃ q, u.req? r.id = some q ∧ (r.die = r.home → q.stage = .answered ∧ q.fault = some 0x10)
  | lapsedLease (r sz g) : s.req? r.id = some r → r.stage = .atHome → s.waitingAt r = [r] → s.lineBusy r = false → r.kind = 0 → r.op = .load sz →
      s.lost? r.home r.line = some g → r.die = r.home →
      CoherenceEvent s (.homeRequest r.id) fun u => u.mem = s.mem ∧ (∃ q, u.req? r.id = some q ∧ q.stage = .answered ∧ q.fault = some 0x12)
        ∧ ∀ x ∈ u.regions, x.die = g.die → x.base = g.base → x.llost = false
  | waitsForLine (r sz m) : atHead s r → s.migrOf? (64 * r.line) = some m → r.op = .load sz →
      CoherenceEvent s (.homeRequest r.id) fun u => u.mem = s.mem ∧ (∃ q, u.req? r.id = some q ∧ q.stage = .awaitLine ∧ q.result = r.result)
        ∧ ∃ x ∈ u.migrs, x.die = m.die ∧ x.frame = m.frame ∧ x.fetching.getLsbD (r.line % 64) = true
  | asksHolders (r g) : atHead s r → soundLine s r → r.op = .store → r.pol = .own → r.die < 32 → r.die ≠ r.home →
      (∀ l ∈ s.lines, l.line = r.line → l.die ≠ r.home) → (∀ w ∈ s.wbs, w.line ≠ r.line) →
      s.region? r.home r.line = some g → g.st = .s → g.size = 0 → setBits (g.hold &&& ~~~(1#33 <<< r.die)) ≠ [] →
      CoherenceEvent s (.homeRequest r.id) fun u => u.mem = s.mem ∧ u.lines = s.lines ∧ (∃ q, u.req? r.id = some q ∧ q.stage = .inTxn)
        ∧ ∃ t ∈ u.txns, t.die = r.home ∧ t.line = r.line ∧ t.reqs = [r.id] ∧ t.granted = false
          ∧ t.targets = (setBits (g.hold &&& ~~~(1#33 <<< r.die))).map (fun d => (d, TAct.inval))
          ∧ ∀ d ∈ setBits (g.hold &&& ~~~(1#33 <<< r.die)), d ≠ 32 → s.reachable r.home d = true → onMesh u r.home d (.snoop t.id)
  | invalidates (t d) : asked s t d → (d, TAct.inval) ∈ t.targets →
      CoherenceEvent s (.invalidationReceive t.id d) fun u => answers s u t d ∧ shows s u 0 []
        ∧ ∀ l ∈ u.lines, l.die = d → l.line = t.line → l.tracked = false ∧ l.excl = false
  | recalls (t d) : asked s t d → t.targets.find? (fun x => x.1 == d && x.2 != .inval) = some (d, TAct.recall) →
      CoherenceEvent s (.recallReceive t.id d) fun u => answers s u t d ∧ shows s u 0 []
        ∧ ∀ l ∈ u.lines, l.die = d → l.line = t.line → l.tracked = false ∧ l.excl = false
  | downgrades (t d) : asked s t d → t.targets.find? (fun x => x.1 == d && x.2 != .inval) = some (d, TAct.downgrade) →
      CoherenceEvent s (.recallReceive t.id d) fun u => answers s u t d ∧ shows s u 0 []
        ∧ ∀ l ∈ u.lines, l.die = d → l.line = t.line → l.excl = false
  | forwards (t d l) : asked s t d → roomy s → t.size = 0 → t.targets.find? (fun x => x.1 == d && x.2 != .inval) = some (d, TAct.forward) →
      t.from_ ≠ t.die → t.from_ ≠ d → l ∈ s.lines → l.die = d → l.line = t.line →
      CoherenceEvent s (.recallReceive t.id d) fun u => answers s u t d
        ∧ (∀ x ∈ u.lines, x.die = d → x.line = t.line → x.tracked = false ∧ x.excl = false)
        ∧ ∃ x ∈ u.lines, x.die = t.from_ ∧ x.core = none ∧ x.line = t.line ∧ x.excl = true ∧ x.data = s.view (64 * t.line) 64
  | onItsWay (t d) : s.txn? t.id = some t → (d, TAct.inval) ∈ t.targets → d ≠ 32 → s.packetIf t.die d (· == .snoop t.id) = none →
      CoherenceEvent s (.invalidationReceive t.id d) fun u => u = s
  | granted (t r sz) : grantsTo s t r → r.op = .load sz →
      CoherenceEvent s (.grantReceive t.id) fun u => (∃ t', u.txn? t.id = some t' ∧ t'.grantAck = true) ∧ shows s u 0 []
        ∧ (∃ q, u.req? r.id = some q ∧ q.stage = .answered ∧ q.fault = none ∧ q.result = s.view r.loc r.bytes)
        ∧ (∃ l ∈ u.lines, l.die = r.die ∧ l.core = some r.core ∧ l.line = r.line ∧ l.data = s.view (64 * r.line) 64)
        ∧ (∃ l, u.lease? r.home r.die = some l ∧ l.len = t.len) ∧ (responds s r.die r.home → onMesh u r.die r.home (.ack t.id))
  | granted_own (t r) : grantsTo s t r → r.op = .store → r.pol = .own → r.val.length = r.bytes →
      CoherenceEvent s (.grantReceive t.id) fun u => (∃ t', u.txn? t.id = some t' ∧ t'.grantAck = true) ∧ shows s u r.loc r.val ∧ u.mem = s.mem
        ∧ (∃ q, u.req? r.id = some q ∧ q.stage = .answered ∧ q.fault = none)
        ∧ ∃ l ∈ u.lines, l.die = r.die ∧ l.core = some r.core ∧ l.line = r.line ∧ l.excl = true
  | grantAcked (t) : s.txn? t.id = some t → t.granted = true → t.grantAck = true → brings s t.from_ t.die (.ack t.id) →
      CoherenceEvent s (.homeAckReceive t.id t.from_) fun u => u.mem = s.mem ∧ u.txn? t.id = none ∧ u.reqs = s.reqs
  | oneAck (t d) : s.txn? t.id = some t → t.granted = false → d ≠ 32 → d ∈ t.acks → (∃ x ∈ t.acks, x ≠ d) → brings s d t.die (.ack t.id) →
      CoherenceEvent s (.homeAckReceive t.id d) fun u => u.mem = s.mem ∧ u.reqs = s.reqs ∧
        ∃ t', u.txn? t.id = some t' ∧ t'.acks = t.acks.filter (· != d)
  | writtenBack (w) : s.Canonical → s.wbs.find? (fun x => x.id == w.id) = some w → w.taken = false → w.owner = true → w.home = w.die →
      (∀ x ∈ s.wbs, x.die = w.die → x.line = w.line → x.home = w.home → w.id ≤ x.id) →
      CoherenceEvent s (.writeBackArrival w.id) fun u => (∀ x ∈ u.wbs, x.id ≠ w.id) ∧ u.lines = s.lines ∧
        ∀ a, cellGet u.mem a = if 64 * w.line ≤ a ∧ a < 64 * w.line + 64 ∧ w.mask.getLsbD (a - 64 * w.line) = true
          then w.data.getD (a - 64 * w.line) 0 else cellGet s.mem a
  | writtenFar (w g) : s.Canonical → s.wbs.find? (fun x => x.id == w.id) = some w → w.taken = false → w.owner = true → w.home ≠ w.die →
      w.window = false → w.keep = false → brings s w.die w.home (.wb w.id) → s.region? w.home w.line = some g → g.st = .e → g.owner = w.die →
      s.ownsMore g w.die w.line = false → (∀ t ∈ s.txns, t.die ≠ w.home) → responds s w.home w.die →
      CoherenceEvent s (.writeBackArrival w.id) fun u => u.lines = s.lines ∧ onMesh u w.home w.die (.wbAck w.id)
        ∧ (∃ x ∈ u.regions, x.die = g.die ∧ x.base = g.base ∧ x.size = g.size ∧ x.st = .i)
        ∧ (∀ x ∈ u.wbs, x.id = w.id → x.taken = true ∧ x.owner = false)
        ∧ ∀ a, cellGet u.mem a = if 64 * w.line ≤ a ∧ a < 64 * w.line + 64 ∧ w.mask.getLsbD (a - 64 * w.line) = true
          then w.data.getD (a - 64 * w.line) 0 else cellGet s.mem a
  | discarded (w) : s.wbs.find? (fun x => x.id == w.id) = some w → w.taken = false → w.owner = true → w.home ≠ w.die → w.window = false →
      brings s w.die w.home (.wb w.id) → (∀ g, s.region? w.home w.line = some g → g.st ≠ .e ∨ g.owner ≠ w.die) →
      (∀ t ∈ s.txns, t.die ≠ w.home) →
      CoherenceEvent s (.writeBackArrival w.id) fun u => u.lines = s.lines ∧ u.mem = s.mem ∧ u.regions = s.regions
  | emptyHanded (w) : s.wbs.find? (fun x => x.id == w.id) = some w → w.taken = false → w.owner = false → w.window = false → w.home = w.die →
      (∀ x ∈ s.wbs, x.die = w.die → x.line = w.line → x.home = w.home → w.id ≤ x.id) →
      CoherenceEvent s (.writeBackArrival w.id) fun u => (∀ x ∈ u.wbs, x.id ≠ w.id) ∧ u.lines = s.lines ∧ u.mem = s.mem
  | cleanEvicted (l c) : l ∈ s.lines → l.core = some c → l.excl = false → l.dirty = 0 → (∀ x ∈ s.lines, x.die = l.die → x.line = l.line → x.core = l.core → x = l) →
      CoherenceEvent s (.lineEviction l.die l.core l.line) fun u => u.mem = s.mem ∧ u.wbs = s.wbs ∧ ∀ x, x ∈ u.lines ↔ x ∈ s.lines ∧ x ≠ l
  | dirtyEvicted (l c) : l ∈ s.lines → l.core = some c → l.dirty ≠ 0 → s.lines.filter (fun x => x.die == l.die && x.line == l.line) = [l] →
      (l.home ≠ l.die → s.reachable l.die l.home = true) →
      CoherenceEvent s (.lineEviction l.die l.core l.line) fun u => u.mem = s.mem ∧ (∀ x, x ∈ u.lines ↔ x ∈ s.lines ∧ x ≠ l)
        ∧ ∃ w, u.wbs = s.wbs ++ [w] ∧ w.line = l.line ∧ w.data = l.data ∧ w.mask = l.dirty ∧ w.home = l.home ∧ w.owner = l.excl
          ∧ (l.home ≠ l.die → onMesh u l.die l.home (.wb w.id))
  | handedDown (l c x) : l ∈ s.lines → l.core = some c → l.excl = true → x ∈ s.lines → x.core = none → x.home = l.home →
      s.lines.filter (fun y => y.die == l.die && y.line == l.line) = [l, x] →
      CoherenceEvent s (.lineEviction l.die l.core l.line) fun u => u.mem = s.mem ∧ u.wbs = s.wbs ∧ l ∉ u.lines
        ∧ { x with data := l.data, dirty := x.dirty ||| l.dirty, excl := true, tracked := true } ∈ u.lines
  | merged (a b) : s.regions.find? (fun r => r.die == a.die && r.base == a.base) = some a →
      s.regions.find? (fun r => r.die == a.die && r.base == a.buddy && r.size == a.size) = some b → 65536 ≤ a.quiet → 65536 ≤ b.quiet → a.size < 10 → a.st = .s → b.st = .s →
      a.hold ≠ 0 → a.die < s.dies.length →
      CoherenceEvent s (.regionMerge a.die a.base) fun u => u.mem = s.mem ∧ (u.die a.die).merges = satInc (s.die a.die).merges
        ∧ ∃ m ∈ u.regions, m.die = min a.die b.die ∧ m.base = min a.base b.base ∧ m.size = a.size + 1 ∧ m.st = .s ∧ m.hold = a.hold ||| b.hold
  | notMerged (a b) : s.regions.find? (fun r => r.die == a.die && r.base == a.base) = some a →
      s.regions.find? (fun r => r.die == a.die && r.base == a.buddy && r.size == a.size) = some b → 65536 ≤ a.quiet → 65536 ≤ b.quiet → a.size < 10 →
      a.st = .e → b.st ≠ .i →
      CoherenceEvent s (.regionMerge a.die a.base) fun u => u.mem = s.mem ∧ u.dies = s.dies ∧ u.regions.length = s.regions.length
        ∧ { a with quiet := 0 } ∈ u.regions ∧ { b with quiet := 0 } ∈ u.regions
  | tooSoon (a b) : s.regions.find? (fun r => r.die == a.die && r.base == a.base) = some a →
      s.regions.find? (fun r => r.die == a.die && r.base == a.buddy && r.size == a.size) = some b → (a.quiet < 65536 ∨ b.quiet < 65536) →
      CoherenceEvent s (.regionMerge a.die a.base) fun u => u = s
  | combined (c r rs) : s.combine? c.die c.line = some c → s.liveReqs c.reqs = r :: rs → s.reachable c.die r.home = true →
      CoherenceEvent s (.rdcCombineFlush c.die c.line) fun u => u.mem = s.mem ∧ u.combine? c.die c.line = none
        ∧ ∃ p ∈ u.packets, p.src = c.die ∧ p.dst = r.home ∧ p.load = .mem ((r :: rs).map MemReq.id)
  | renewalSent (l) : s.lease? l.home l.die = some l → l.renewing = false → l.home ≠ l.die → s.holdsOf l.die l.home = true →
      s.reachable l.die l.home = true →
      CoherenceEvent s (.leaseRenewalSend l.die l.home) fun u => u.mem = s.mem ∧ u.lines = s.lines ∧ u.reqs = s.reqs
        ∧ u.lease? l.home l.die = some { l with renewing := true, sent := (s.die l.die).cycle }
        ∧ ∃ p ∈ u.packets, p.src = l.die ∧ p.dst = l.home ∧ p.load = .renew ∧ p.tgtLife = l.life
  | renewed (l) : s.lease? l.home l.die = some l → l.life = s.lifeOf l.home → brings s l.die l.home .renew → responds s l.home l.die →
      CoherenceEvent s (.leaseRenewalReceive l.home l.die) fun u => u.mem = s.mem ∧ u.lines = s.lines ∧ u.reqs = s.reqs
        ∧ u.lease? l.home l.die = some { l with granted := (s.die l.home).cycle }
        ∧ onMesh u l.home l.die (.renewed (some (s.die l.home).leaseLog2))
  | renewalRefused (home die) : brings s die home .renew → (∀ l, s.lease? home die = some l → l.life ≠ s.lifeOf home) → responds s home die →
      CoherenceEvent s (.leaseRenewalReceive home die) fun u => u.mem = s.mem ∧ u.lines = s.lines ∧ u.leases = s.leases
        ∧ onMesh u home die (.renewed none)
  | renewalAcked (l p n) : s.lease? l.home l.die = some l →
      s.packetIf l.home l.die (fun p => match p with | .renewed _ => true | _ => false) = some p.id → accepted s p → p.chan = 1 →
      p.load = .renewed (some n) →
      CoherenceEvent s (.renewalAckReceive l.die l.home) fun u => u.mem = s.mem ∧ u.lines = s.lines ∧ u.reqs = s.reqs
        ∧ u.lease? l.home l.die = some { l with renewing := false, acked := (s.die l.die).cycle, len := n }
  | refusalAcked (home die p) : s.packetIf home die (fun p => match p with | .renewed _ => true | _ => false) = some p.id → accepted s p →
      p.chan = 1 → p.load = .renewed none →
      CoherenceEvent s (.renewalAckReceive die home) fun u => u.mem = s.mem ∧ u.lease? home die = none
        ∧ (∀ x ∈ u.lines, x.die = die → x.window = false → x.home ≠ home) ∧ (die < s.routers.length → u.knownLife die home = s.lifeOf home)
  | lapses (l r) : s.lease? l.home l.die = some l → l.life = s.lifeOf l.home →
      l.granted + 2 ^ (s.die l.home).leaseLog2 ≤ (s.die l.home).cycle → s.txns = [] → r ∈ s.regions → r.die = l.home →
      r.st = .e → r.owner = l.die →
      CoherenceEvent s (.leaseLapse l.home l.die) fun u => u.mem = s.mem ∧ u.lease? l.home l.die = none
        ∧ (∃ x ∈ u.regions, x.die = r.die ∧ x.base = r.base ∧ x.size = r.size ∧ x.st = .i ∧ x.llost = true)
        ∧ (∀ x ∈ u.lines, x.die = l.die → x.window = false → x.home ≠ l.home)
        ∧ ∀ w ∈ u.wbs, w.die = l.die → w.home = l.home → w.window = false → w.owner = false
  | lapsesOwed (l t r) : s.lease? l.home l.die = some l → l.life = s.lifeOf l.home →
      l.granted + 2 ^ (s.die l.home).leaseLog2 ≤ (s.die l.home).cycle → s.txns = [t] → t.die = l.home → t.granted = false → t.evict = false →
      (l.die, TAct.recall) ∈ t.targets → t.reqs = [r.id] → s.req? r.id = some r → r.stage = .inTxn → r.op ≠ .prefetch →
      CoherenceEvent s (.leaseLapse l.home l.die) fun u => u.mem = s.mem ∧ u.txn? t.id = none
        ∧ ∃ q, u.req? r.id = some q ∧ q.fault = some 0x12
  | standing (l) : s.lease? l.home l.die = some l → (s.die l.home).cycle < l.granted + 2 ^ (s.die l.home).leaseLog2 →
      CoherenceEvent s (.leaseLapse l.home l.die) fun u => u = s
  | drops (l) : s.lease? l.home l.die = some l → l.acked + (2 ^ l.len - 2 ^ (l.len - 2)) ≤ (s.die l.die).cycle →
      CoherenceEvent s (.leaseDrop l.die l.home) fun u => { u with lines := s.lines } = s
        ∧ ∀ x, x ∈ u.lines ↔ x ∈ s.lines ∧ ¬(x.die = l.die ∧ x.window = false ∧ x.home = l.home)
  | hostLapses (t due d) : s.txns = [t] → t.granted = false → t.hostDue = some due → t.targets = [(32, TAct.inval), (d, TAct.inval)] → d ≠ 32 →
      due ≤ (s.die t.die).cycle →
      CoherenceEvent s (.backinvalTimeout t.id) fun u => u.mem = s.mem ∧ ∃ t', u.txn? t.id = some t' ∧ t'.targets = [(d, TAct.inval)] ∧ t'.hostDue = none
  | hostLoses (t due r) : s.txns = [t] → t.granted = false → t.evict = false → t.hostDue = some due → (32, TAct.recall) ∈ t.targets →
      due ≤ (s.die t.die).cycle → t.reqs = [r.id] → s.req? r.id = some r → r.stage = .inTxn → r.op ≠ .prefetch →
      CoherenceEvent s (.backinvalTimeout t.id) fun u => u.mem = s.mem ∧ u.txn? t.id = none ∧ ∃ q, u.req? r.id = some q ∧ q.fault = some 0x12

end Sys2Proof.Claims

/-- Notices, home requests and what they ask of other dies, write-backs, evictions, region merges and leases: what each row
of the table leaves of memory, of the copies and of the directory (log entries 27, 28 and 61 say what of it is the model's reading). -/
def Obligations.CoherenceEvents : Prop := ∀ s i post, CoherenceEvent s i post → Happens i s post

/-! ## Device steps and events: the mesh, the mailboxes, the outside world -/

namespace Sys2Proof.Claims

/-- A request ends with a fault code. -/
def fails (s u : State) (i : Nat) (code : Byte) : Prop :=
  ∀ r, s.req? i = some r → r.op ≠ .prefetch → ∃ q, u.req? i = some q ∧ q.stage = .answered ∧ q.fault = some code

/-- A message as its sender's mailbox core stamps it (R65). -/
def stamped (s : State) (die core : Nat) (m : Message) : Message :=
  { m with srcDie := die, srcCore := core, stat := 0, life := s.knownLife die m.dstDie, seq := s.mailSeq { m with srcDie := die, srcCore := core } }

/-- A request packet at its destination that is in its turn there. -/
def inTurn (s : State) (p : Packet) : Prop := arrived s p ∧ p.chan ≠ 1 ∧ (s.seqOf p.src p.dst p.chan).want = p.seq

/-- The mesh's packets and links (R30 to R39), the mailboxes (R64 to R67), timeouts (R44). -/
inductive MeshEvent (s : State) : Instr → (State → Prop) → Prop
  | arrives (p ids) : accepted s p → p.chan ≠ 1 → p.load = .mem ids →
      MeshEvent s (.packetArrival p.id) fun u => u.mem = s.mem ∧ u.packet? p.id = none ∧ (u.seqOf p.src p.dst p.chan).expect = p.seq + 1
        ∧ ∀ i ∈ ids, ∀ r, s.req? i = some r → r.over = false → ∃ q, u.req? i = some q ∧ q.stage = .atHome ∧ q.arrival = s.fresh
  | outOfTurn (p ids) : arrived s p → p.chan ≠ 1 → p.load = .mem ids → (s.seqOf p.src p.dst p.chan).want ≠ p.seq →
      MeshEvent s (.packetArrival p.id) fun u => u.reqs = s.reqs ∧ u.seqs = s.seqs ∧ u.mem = s.mem
        ∧ ∃ q, u.packet? p.id = some q ∧ q.nack = true ∧ q.returned = false ∧ q.place = p.place ∧ q.seq = p.seq ∧ q.load = p.load
  | comesBack (p) : s.packet? p.id = some p → p.returned = false → p.held = false → p.nack = true → p.since ≠ none → p.place = p.src →
      MeshEvent s (.responseArrival p.id) fun u => u.reqs = s.reqs ∧ u.seqs = s.seqs ∧ u.mem = s.mem
        ∧ ∃ q, u.packet? p.id = some q ∧ q.nack = false ∧ q.returned = true ∧ q.seq = p.seq
          ∧ q.load = match p.load with | .busy m => .mail m | l => l
  | noLongerThere (p ids i) : inTurn s p → p.load = .mem ids →
      (s.socketOn p.dst = false ∨ (s.router p.dst).inReset = true ∨ s.sharesPart p.src p.dst = false) → i ∈ ids →
      MeshEvent s (.packetArrival p.id) fun u => u.mem = s.mem ∧ u.packet? p.id = none ∧ fails s u i 0x11
  | otherLife (p ids i) : inTurn s p → p.load = .mem ids → s.socketOn p.dst = true → (s.router p.dst).inReset = false →
      s.sharesPart p.src p.dst = true → p.tgtLife ≠ s.lifeOf p.dst → i ∈ ids → p.src < s.routers.length →
      MeshEvent s (.packetArrival p.id) fun u => u.mem = s.mem ∧ u.packet? p.id = none ∧ fails s u i 0x11 ∧ u.knownLife p.src p.dst = s.lifeOf p.dst
  | replyLands (p ids) : accepted s p → p.chan = 1 → p.load = .reply ids →
      MeshEvent s (.responseArrival p.id) fun u => u.mem = s.mem ∧ u.packet? p.id = none
        ∧ ∀ i ∈ ids, ∀ r, s.req? i = some r → r.stage = .returning → ∃ q, u.req? i = some q ∧ q.stage = .answered ∧ q.result = r.result ∧ q.fault = r.fault
  | staleReply (p ids) : arrived s p → p.chan = 1 → p.load = .reply ids → p.tgtLife ≠ s.lifeOf p.dst → p.dst < s.routers.length →
      MeshEvent s (.responseArrival p.id) fun u => u.mem = s.mem ∧ (∀ r ∈ u.reqs, r.id ∉ ids)
        ∧ (u.router p.dst).stale = (if (s.router p.dst).stale = 0xFFFFFFFF then 0xFFFFFFFF else (s.router p.dst).stale + 1)
  | bufferFreed (p id) : accepted s p → p.chan = 1 → p.load = .wbAck id →
      MeshEvent s (.responseArrival p.id) fun u => u.mem = s.mem ∧ u.packet? p.id = none ∧ u.wbs = s.wbs.filter fun w => w.id != id
  | resent (a b) : (∃ p ∈ s.packets, p.src = a ∧ p.dst = b ∧ p.returned = true) → s.reachable a b = true →
      MeshEvent s (.nackResend a b) fun u => u.reqs = s.reqs ∧ u.seqs = s.seqs
        ∧ (∀ p ∈ u.packets, p.src = a → p.dst = b → p.returned = false ∧ p.held = false)
        ∧ ∀ p ∈ s.packets, p.src = a → p.dst = b → p.returned = true → ∃ q ∈ u.packets, q.id = p.id ∧ q.seq = p.seq ∧ q.load = p.load ∧ q.place = a
  | givenUp (a b p ids i) : p ∈ s.packets → p.src = a → p.dst = b → p.returned = true → p.chan ≠ 1 → s.reachable a b = false → p.load = .mem ids → i ∈ ids →
      MeshEvent s (.nackResend a b) fun u => fails s u i 0x11 ∧ p.seq ∈ (u.seqOf a b p.chan).gone ∧ ∀ q ∈ u.packets, q.id ≠ p.id
  | escapes (p c) : s.packet? p.id = some p → p.returned = false → p.held = false → p.nack = false → p.escape = false → p.since = some c →
      c + 64 ≤ (s.router p.place).clock →
      MeshEvent s (.escapeMove p.id) fun u => u.reqs = s.reqs
        ∧ ∃ q, u.packet? p.id = some q ∧ q.escape = true ∧ q.tree = true ∧ q.place = p.place ∧ q.seq = p.seq ∧ q.load = p.load
  | staysOn (p) : s.packet? p.id = some p → (∀ c, p.since = some c → (s.router p.place).clock < c + 64) → MeshEvent s (.escapeMove p.id) fun u => u = s
  | fails_ (a b) : isLink a b = true → (min a b, max a b) ∉ s.linksDown → s.routers.length = 64 →
      MeshEvent s (.linkFailure a b) fun u => u.mem = s.mem ∧ u.reqs = s.reqs ∧ (min a b, max a b) ∈ u.linksDown
        ∧ (min a b, max a b) ∈ (u.router a).down ∧ (min a b, max a b) ∈ (u.router b).down
        ∧ (∃ n, u.notices = s.notices ++ [n] ∧ n.a = min a b ∧ n.b = max a b ∧ n.up = false ∧ n.settled = false
            ∧ n.epoch = BitVec.ofNat 16 (1 + maxOf (s.routers.map fun r => r.epoch.toNat)))
        ∧ ∀ p ∈ s.packets, ∃ q ∈ u.packets, q.id = p.id ∧ q.seq = p.seq
            ∧ q.nack = (p.nack || s.queuedFor p (min a b, max a b))
  | comesUp (a b) : isLink a b = true → (min a b, max a b) ∈ s.linksDown →
      MeshEvent s (.linkUp a b) fun u => u.mem = s.mem ∧ u.reqs = s.reqs ∧ u.packets = s.packets ∧ (min a b, max a b) ∉ u.linksDown
        ∧ ∃ n, u.notices = s.notices ++ [n] ∧ n.up = true
  | noticed (n r) : s.notices.find? (fun x => x.epoch == n.epoch && !x.applied.contains r) = some n → r < s.routers.length → r < 64 → n.up = false →
      MeshEvent s (.linkStateNotice r n.epoch) fun u => u.linksDown = s.linksDown ∧ (n.a, n.b) ∈ (u.router r).down ∧ (u.router r).epoch = n.epoch
        ∧ (u.router r).prevDown = (s.router r).down ∧ ∃ x ∈ u.notices, x.epoch = n.epoch ∧ r ∈ x.applied
  | acked (n r) : n ∈ s.notices → n.applied.contains r = true → n.acked.contains r = false →
      MeshEvent s (.linkStateAck r n.epoch) fun u => u.routers = s.routers ∧
        { n with acked := n.acked ++ [r], settled := decide (64 ≤ n.acked.length + 1) } ∈ u.notices
  | settles (n r) : n ∈ s.notices → n.settled = true → r < s.routers.length →
      MeshEvent s (.settledNotice r n.epoch) fun u => u.notices = s.notices ∧ u.router r = { s.router r with settled := n.epoch }
  | timesOut (r due) : s.req? r.id = some r → r.deadline = some due → r.over = false → due ≤ (s.die r.die).cycle →
      MeshEvent s (.completionTimeout r.id) fun u => u.mem = s.mem ∧ fails s u r.id 0x11 ∧ u.lates = s.lates ++ [r.die]
  | inTime (r due) : s.req? r.id = some r → r.deadline = some due → (s.die r.die).cycle < due → MeshEvent s (.completionTimeout r.id) fun u => u = s
  | mailed (d c m) : d < 32 → c < 8 → m.dstCore < 8 → m.dstDie = d → (s.mailbox d c m.dstCore).msgs.length < 16 →
      MeshEvent s (.mailboxSend d c m) fun u => u.mem = s.mem ∧ (u.ccCore d c).busy = false
        ∧ (u.mailbox d c m.dstCore).msgs = (s.mailbox d c m.dstCore).msgs ++ [stamped s d c m]
        ∧ u.mailSeq (stamped s d c m) = s.mailSeq (stamped s d c m) + 1
  | mailFull (d c m) : d < 32 → c < 8 → m.dstCore < 8 → m.dstDie = d → 16 ≤ (s.mailbox d c m.dstCore).msgs.length →
      MeshEvent s (.mailboxSend d c m) fun u => u.mem = s.mem ∧ (u.ccCore d c).busy = true ∧ u.mailboxes = s.mailboxes
  | mailAway (d c m) : d < 32 → c < 8 → m.dstCore < 8 → m.dstDie ≠ d → s.partOfDie d ≠ none → s.partOfDie d = s.partOfDie m.dstDie →
      s.reachable d m.dstDie = true →
      MeshEvent s (.mailboxSend d c m) fun u => u.mem = s.mem ∧ ∃ p ∈ u.packets, p.src = d ∧ p.dst = m.dstDie ∧ p.load = .mail (stamped s d c m)
  | mailAstray (d c m) : d < 32 → c < 8 → m.dstCore < 8 → m.dstDie ≠ d → s.partOfDie d ≠ s.partOfDie m.dstDie →
      MeshEvent s (.mailboxSend d c m) fun u => u.mem = s.mem ∧ u.packets = s.packets ∧ (u.ccCore d c).inbox = some { stamped s d c m with stat := 1 }
  | read (d c i m rest) : ((List.range 8).map fun k => ((s.ccCore d c).last + 1 + k) % 8).find? (fun k => (s.mailbox d k c).msgs != []) = some i →
      (s.mailbox d i c).msgs = m :: rest →
      MeshEvent s (.mailboxReceive d c) fun u => u.mem = s.mem ∧ (u.ccCore d c).inbox = some m ∧ (u.ccCore d c).last = i ∧ (u.mailbox d i c).msgs = rest
  | delivered (p m) : accepted s p → p.load = .mail m → (s.mailbox p.dst m.srcCore m.dstCore).msgs.length < 16 →
      MeshEvent s (.mailboxRemoteDeliver p.id) fun u => u.mem = s.mem ∧ u.packet? p.id = none
        ∧ (u.mailbox p.dst m.srcCore m.dstCore).msgs = (s.mailbox p.dst m.srcCore m.dstCore).msgs ++ [m]
  | refused (p m) : accepted s p → p.chan ≠ 1 → p.load = .mail m → 16 ≤ (s.mailbox p.dst m.srcCore m.dstCore).msgs.length →
      MeshEvent s (.mailboxRemoteDeliver p.id) fun u => u.mem = s.mem ∧ u.mailboxes = s.mailboxes ∧ u.seqs = s.seqs
        ∧ ∃ q, u.packet? p.id = some q ∧ q.nack = true ∧ q.load = .busy m ∧ q.seq = p.seq
  | mailStale (p m) : inTurn s p → p.load = .mail m → s.socketOn p.dst = true → (s.router p.dst).inReset = false → s.sharesPart p.src p.dst = true →
      p.tgtLife ≠ s.lifeOf p.dst →
      MeshEvent s (.mailboxRemoteDeliver p.id) fun u => u.mem = s.mem ∧ u.mailboxes = s.mailboxes ∧ u.packet? p.id = none
        ∧ (u.ccCore m.srcDie m.srcCore).inbox = some { m with stat := 2 }

/-- Whether a fabric port takes traffic: it is up, and its X-die is there. -/
def portLive (s : State) (k : Nat) : Prop := k ∉ s.fabricDown ∧ s.socketOn (48 + k / 4) = true

/-- Ports, peers, the host's window and the management port (R42 to R49, R222). -/
inductive OutsideEvent (s : State) : Instr → (State → Prop) → Prop
  | portFails (k) : k < 16 → k ∉ s.fabricDown → (∃ j, j < 16 ∧ j ≠ k ∧ portLive s j) →
      OutsideEvent s (.fabricPortFailure k) fun u => { u with fabricDown := s.fabricDown, fabQ := s.fabQ } = s ∧ u.fabricDown = s.fabricDown ++ [k]
        ∧ (∀ m ∈ u.fabQ, m.port ≠ k) ∧ u.fabQ.map (fun m => { m with port := 0 }) = s.fabQ.map fun m => { m with port := 0 }
  | lastPortFails (k r) : k < 16 → k ∉ s.fabricDown → (∀ j, j < 16 → j ≠ k → ¬portLive s j) → s.req? r.id = some r → (∀ q ∈ s.reqs, q.id = r.id → q = r) → r.kind = 10 →
      (r.stage = .atHome ∧ r.home = r.die ∨ r.stage = .travelling) → r.op ≠ .prefetch →
      OutsideEvent s (.fabricPortFailure k) fun u => u.mem = s.mem ∧ fails s u r.id 0x11 ∧ u.fabQ = []
  | ethernetDown (k) : k < 2 → k ∉ s.ethDown → OutsideEvent s (.ethernetPortDown k) fun u => u = { s with ethDown := s.ethDown ++ [k] }
  | noReads (k tag) : k < 2 → k ∉ s.ethDown →
      OutsideEvent s (.ethReadRequest k tag) fun u => u = { s with out := s.out ++ [.notSupported k tag] }
  | linkLost (k ln l) : k < 2 → k ∉ s.cxlTraining → locKind (64 * ln) = (if k = 0 then 9 else 8) → l ∈ s.lines → l.line = ln → l.excl = true → l.dirty ≠ 0 →
      OutsideEvent s (.cxlLinkLoss k) fun u => u.mem = s.mem ∧ k ∈ u.cxlTraining ∧ (∀ x ∈ u.lines, locKind (64 * x.line) ≠ if k = 0 then 9 else 8)
        ∧ ∀ r ∈ s.regions, r.base ≤ ln → ln < r.base + 2 ^ r.size → locKind (64 * r.base) = (if k = 0 then 9 else 8) →
            ∃ x ∈ u.regions, x.die = r.die ∧ x.base = r.base ∧ x.size = r.size ∧ x.st = .i ∧ x.llost = true
  | retrained (k) : OutsideEvent s (.cxlRetrainDone k) fun u => { u with cxlTraining := s.cxlTraining } = s ∧ k ∉ u.cxlTraining
  | noWindow (r) : s.ctx? (256 * r.part + r.ctx) = none →
      OutsideEvent s (.peerRequest r) fun u => u = { s with out := s.out ++ [.answer r.pod [] 0x08] }
  | pastWindow (r c) : s.ctx? (256 * r.part + r.ctx) = some c → c.expLen < r.access.ofs + r.access.len →
      OutsideEvent s (.peerRequest r) fun u => u = { s with out := s.out ++ [.answer r.pod [] 0x09] }
  | peerReads (r c o n b) : s.ctx? (256 * r.part + r.ctx) = some c → r.access = .read o n → o + n ≤ c.expLen →
      s.readVa c c.lowDie .read (n / 4096 + 2) (c.expVa + BitVec.ofNat 64 o) n = .bytes b →
      OutsideEvent s (.peerRequest r) fun u => u = { s with out := s.out ++ [.answer r.pod b 0] }
  | peerWrites (r c o b s1) : s.ctx? (256 * r.part + r.ctx) = some c → r.access = .write o b → r.atom = none → o + b.length ≤ c.expLen →
      s.writeVa c c.lowDie (c.expVa + BitVec.ofNat 64 o) b = .done s1 →
      OutsideEvent s (.peerRequest r) fun u => u = { s1 with out := s1.out ++ [.answer r.pod [] 0] }
  | unbound (k q o n) : s.part k = some q → q.hostCtx = none →
      OutsideEvent s (.hostWindowAccess k (.read o n)) fun u => u = { s with out := s.out ++ [.hostRead k (List.replicate n 0xFF)] }
  | pastLimit (k q o n) : s.part k = some q → q.hostLen ≤ o → OutsideEvent s (.hostWindowAccess k (.read o n)) fun u =>
        u = { s with out := s.out ++ [.hostRead k (List.replicate n 0xFF)] }
  | peerWaits (r c o n s1) : s.ctx? (256 * r.part + r.ctx) = some c → r.access = .read o n → o + n ≤ c.expLen →
      s.descRead c c.lowDie (c.expVa + BitVec.ofNat 64 o) n = .park s1 → OutsideEvent s (.peerRequest r) fun u => u = s1
  | peerFails (r c o n e s1) : s.ctx? (256 * r.part + r.ctx) = some c → r.access = .read o n → o + n ≤ c.expLen →
      s.descRead c c.lowDie (c.expVa + BitVec.ofNat 64 o) n = .fault e s1 →
      OutsideEvent s (.peerRequest r) fun u => u = { s1 with out := s1.out ++ [.answer r.pod [] e] }
  | peerAdds (r c o b loc p) : s.ctx? (256 * r.part + r.ctx) = some c → r.access = .write o b → r.atom = some .add → b.length = 8 → o + 8 ≤ c.expLen →
      (c.expVa + BitVec.ofNat 64 o).toNat % 8 = 0 → s.translate c c.lowDie .atom (c.expVa + BitVec.ofNat 64 o) = .at loc p → locKind loc = 0 →
      pteTyped p = false → s.atomEnd c c.lowDie loc 8 = .go →
      OutsideEvent s (.peerRequest r) fun u => u.out = s.out ++ [.answer r.pod (s.view loc 8) 0]
  | hostWrites (k q x c o b s1) : s.part k = some q → q.hostCtx = some x → s.ctx? (256 * k + x) = some c → o + b.length ≤ q.hostLen → b ≠ [] →
      s.writeVa c c.lowDie (q.hostVa + BitVec.ofNat 64 o) b = .done s1 →
      OutsideEvent s (.hostWindowAccess k (.write o b)) fun u => u = s1
  | hostReads (k q x c o n b) : s.part k = some q → q.hostCtx = some x → s.ctx? (256 * k + x) = some c → o + n ≤ q.hostLen → n ≠ 0 →
      s.descRead c c.lowDie (q.hostVa + BitVec.ofNat 64 o) n = .bytes b →
      OutsideEvent s (.hostWindowAccess k (.read o n)) fun u => u.out = s.out ++ [.hostRead k b] ∧ u.reqs = s.reqs
  | hostWaits (k q x c o n s1) : s.part k = some q → q.hostCtx = some x → s.ctx? (256 * k + x) = some c → o + n ≤ q.hostLen → n ≠ 0 →
      s.descRead c c.lowDie (q.hostVa + BitVec.ofNat 64 o) n = .park s1 → OutsideEvent s (.hostWindowAccess k (.read o n)) fun u => u = s1
  | energyRead (k q) : s.part k = some q →
      OutsideEvent s (.mgmtPortRequest (.energy k)) fun u => { u with out := s.out } = s
        ∧ u.out = s.out ++ [.health ([(BitVec.ofInt 48 q.bal).setWidth 64, BitVec.ofNat 64 (q.held % 2 ^ 48)]
            ++ q.dies.map fun d => (s.die d).ceil ++ (s.die d).rate)]
  | healthRead (d) : d < 32 →
      OutsideEvent s (.mgmtPortRequest (.health d)) fun u => { u with out := s.out } = s
        ∧ u.out = s.out ++ [.health [BitVec.ofNat 64 ((s.die d).damaged.length * 2 ^ 48 + (s.die d).uncorr.toNat * 2 ^ 32 + (s.die d).corr.toNat)]]

end Sys2Proof.Claims

/-- Packets arrive in the order of their sequence numbers and for the life that they were sent to, or go back; links fail and come up by
notices that every router applies and acknowledges; messages reach mailboxes or come back (R30 to R39, R44, R64 to R67; log entries 76
and 77 say what of it is the model's choice). -/
def Obligations.MeshEvents : Prop := ∀ s i post, MeshEvent s i post → Happens i s post

/-- What reaches the module from outside: port and link losses, a peer's and the host's accesses, the management port's reads
(log entries 18 and 51 say what of it is the model's choice). -/
def Obligations.OutsideEvents : Prop := ∀ s i post, OutsideEvent s i post → Happens i s post

/-! ## Device steps and events: windows, management operations, jobs -/

namespace Sys2Proof.Claims

/-- A queue register's change leaves the other queues of the partition as they are. -/
def queueKept (s u : State) (part q : Nat) : Prop := ∀ r, r ≠ q → u.queue part r = s.queue part r

/-- The registers of a partition's window (R69 to R72, R80, R385). -/
inductive WindowEvent (s : State) : Instr → (State → Prop) → Prop
  | notified (k q v c d) : s.part k ≠ none → q < 64 → (s.queue k q).en = true → (s.queue k q).err = false → s.ctx? (256 * k + (s.queue k q).ctx) = some c →
      c.queueDev q = some d → ((v : DWord).extractLsb' 0 32 - (s.queue k q).head).toNat ≤ 2 ^ (s.queue k q).log2 →
      ((s.queue k q).tail - (s.queue k q).head).toNat < (v.extractLsb' 0 32 - (s.queue k q).head).toNat →
      WindowEvent s (.jqnotifyWrite k q .low v) fun u => u.mem = s.mem ∧ u.queue k q = { s.queue k q with tail := v.extractLsb' 0 32 } ∧ queueKept s u k q
  | tooFar (k q v c d) : s.part k ≠ none → q < 64 → (s.queue k q).en = true → (s.queue k q).err = false → s.ctx? (256 * k + (s.queue k q).ctx) = some c →
      c.queueDev q = some d → 2 ^ (s.queue k q).log2 < ((v : DWord).extractLsb' 0 32 - (s.queue k q).head).toNat →
      WindowEvent s (.jqnotifyWrite k q .low v) fun u => u.mem = s.mem ∧ u.queue k q = { s.queue k q with err := true, code := 1 } ∧ queueKept s u k q
  | notEnabled (k q v) : (s.queue k q).en = false ∨ (s.queue k q).err = true → WindowEvent s (.jqnotifyWrite k q .low v) fun u => u = s
  | enabled (k q x) (v : DWord) : s.part k ≠ none → q < 64 → (s.queue k q).en = false → v.getLsbD 0 = true → v.getLsbD 1 = false →
      x ∈ s.ctxs → x.part = k → x.num = (v.extractLsb' 40 8).toNat →
      WindowEvent s (.jqctlEnSet k q .whole v) fun u => u.mem = s.mem ∧ queueKept s u k q
        ∧ u.queue k q = { s.queue k q with en := true, ctx := x.num, log2 := max 4 (v.extractLsb' 32 4).toNat, head := 0, tail := 0 }
  | noContext (k q) (v : DWord) : s.part k ≠ none → q < 64 → (s.queue k q).en = false → v.getLsbD 0 = true → v.getLsbD 1 = false →
      (∀ x ∈ s.ctxs, ¬(x.part = k ∧ x.num = (v.extractLsb' 40 8).toNat)) →
      WindowEvent s (.jqctlEnSet k q .whole v) fun u => u.mem = s.mem ∧ (u.queue k q).en = false ∧ (u.queue k q).err = true ∧ (u.queue k q).code = 3
  | disabled (k q) (v : DWord) : s.part k ≠ none → q < 64 → (s.queue k q).en = true → v.getLsbD 0 = false → v.getLsbD 1 = false →
      WindowEvent s (.jqctlEnClear k q .low v) fun u => u.mem = s.mem ∧ u.queue k q = { s.queue k q with en := false } ∧ queueKept s u k q
  | errorCleared (k q) (v : DWord) : s.part k ≠ none → q < 64 → (s.queue k q).en = true → (s.queue k q).err = true → v.getLsbD 0 = true → v.getLsbD 1 = true →
      WindowEvent s (.jqctlErrClear k q .low v) fun u => u.mem = s.mem ∧ (u.queue k q).err = false ∧ (u.queue k q).en = true
        ∧ (u.queue k q).head = (s.queue k q).head ∧ (u.queue k q).tail = (s.queue k q).tail
  | baseSet (k q) (v : DWord) : s.part k ≠ none → q < 64 → (s.queue k q).en = false →
      WindowEvent s (.jqConfigWrite k q true .whole v) fun u => u.mem = s.mem ∧ u.queue k q = { s.queue k q with base := v &&& 0x0000FFFFFFFFFF80 } ∧ queueKept s u k q
  | baseRefused (k q) (v : DWord) : s.part k ≠ none → q < 64 → (s.queue k q).en = true → v &&& 0x0000FFFFFFFFFF80 ≠ (s.queue k q).base →
      WindowEvent s (.jqConfigWrite k q true .whole v) fun u => u.mem = s.mem ∧ u.queue k q = { s.queue k q with err := true, code := 2 } ∧ queueKept s u k q
  | submitted (k p) (v : DWord) : s.part k = some p → p.busy.getLsbD (v.extractLsb' 0 4).toNat = false →
      WindowEvent s (.mqsubmitWrite k .low v) fun u => u.mem = s.mem ∧ ∃ p', u.part k = some p' ∧ p'.busy = p.busy ||| 1#16 <<< (v.extractLsb' 0 4).toNat
        ∧ p'.submitted = p.submitted ++ [(v.extractLsb' 0 4).toNat] ∧ p'.done = p.done
  | stillBusy (k p) (v : DWord) : s.part k = some p → p.busy.getLsbD (v.extractLsb' 0 4).toNat = true → WindowEvent s (.mqsubmitWrite k .low v) fun u => u = s
  | doneCleared (k p) (v : DWord) : s.part k = some p →
      WindowEvent s (.mqdoneClear k .low v) fun u => u.mem = s.mem ∧ u.part k = some { p with done := p.done &&& ~~~(v.extractLsb' 0 16) }
  | slotWritten (k p ofs) (v : DWord) : s.part k = some p → 0x4000 ≤ ofs → ofs < 0x5000 → ofs % 8 = 0 → (slotBytes p ((ofs - 0x4000) / 256)).length = 256 →
      WindowEvent s (.registerWrite k ofs .host .whole v) fun u => u.mem = s.mem ∧ ∃ p', u.part k = some p' ∧ p'.queues = p.queues
        ∧ ∀ i, i < 256 → (slotBytes p' ((ofs - 0x4000) / 256)).getD i 0 =
            if ofs % 256 ≤ i ∧ i < ofs % 256 + 8 then v.extractLsb' (8 * (i - ofs % 256)) 8 else (slotBytes p ((ofs - 0x4000) / 256)).getD i 0
  | readOnly (k ofs src h v) : (ofs = 0x1000 ∨ ofs = 0x2008) → WindowEvent s (.registerWrite k ofs src h v) fun u => u = s
  | programSlot (k ofs h v) : 0x4000 ≤ ofs → ofs < 0x5000 → WindowEvent s (.registerWrite k ofs .program h v) fun u => u = s

/-- The slot that the partition's memory core serves next: its operation, its context, its well-formed arguments. -/
def serves (s : State) (k : Nat) (p : Partition) (slot op : Nat) (b : List Byte) : Prop :=
  s.part k = some p ∧ (∃ rest, p.submitted = slot :: rest) ∧ slot < 16 ∧ b = slotBytes p slot ∧ b.length = 256 ∧ byteAt b 0 = op ∧ mqBad b = false
    ∧ (s.router p.lead).inReset = false

/-- The operation has ended: the slot is idle and done, its status and result stand in it (R74). -/
def ended (u : State) (k : Nat) (p : Partition) (slot : Nat) (st : Byte) (result : List Byte) : Prop :=
  ∃ p', u.part k = some p' ∧ p'.busy.getLsbD slot = false ∧ p'.done.getLsbD slot = true ∧ p'.submitted = p.submitted.drop 1 ∧ p'.queues = p.queues
    ∧ (slotBytes p' slot).getD 1 0 = st ∧ ∀ i, i < result.length → i < 128 → (slotBytes p' slot).getD (128 + i) 0 = result.getD i 0

def ofContext (s : State) (k : Nat) (b : List Byte) (c : Ctx) : Prop := s.ctx? (256 * k + byteAt b 3) = some c ∧ c ∈ s.ctxs ∧ c.part = k ∧ c.num = byteAt b 3

/-- The twelve management operations (R75 to R82). -/
inductive ManagementEvent (s : State) : Instr → (State → Prop) → Prop
  | created (k p slot b n f s1) : serves s k p slot 1 b → placeBad p.dies (BitVec.ofNat 32 (leAt b 8 4)) (byteAt b 12) = false →
      (List.range 256).find? (fun n => !s.liveCtx k n) = some n →
      ({ s with ctxs := s.ctxs ++ [newCtx k n (BitVec.ofNat 32 (leAt b 8 4)) (byteAt b 12) (BitVec.ofNat 64 (leAt b 16 8))] } : State).takeFrame
        (newCtx k n (BitVec.ofNat 32 (leAt b 8 4)) (byteAt b 12) (BitVec.ofNat 64 (leAt b 16 8))) (fun _ => true) = some (f, s1) →
      ManagementEvent s (.ctxcreate k) fun u => (∃ c ∈ u.ctxs, c.part = k ∧ c.num = n ∧ c.seed = BitVec.ofNat 64 (leAt b 16 8)
          ∧ c.place.extractLsb' 0 32 = BitVec.ofNat 32 (leAt b 8 4) ∧ c.ptb.getLsbD 0 = true ∧ c.trap = 0 ∧ c.halten = false)
        ∧ ∃ p', u.part k = some p' ∧ (slotBytes p' slot).getD 1 0 = 0 ∧ (slotBytes p' slot).getD 3 0 = BitVec.ofNat 8 n
  | badPlace (k p slot b) : serves s k p slot 1 b → placeBad p.dies (BitVec.ofNat 32 (leAt b 8 4)) (byteAt b 12) = true →
      ManagementEvent s (.ctxcreate k) fun u => u.mem = s.mem ∧ u.ctxs = s.ctxs ∧ ended u k p slot 3 []
  | inUse (k p slot b c) : serves s k p slot 2 b → ofContext s k b c → s.servingOf k slot = none → s.ctxBusy c = true →
      ManagementEvent s (.ctxdestroy k) fun u => u.mem = s.mem ∧ u.ctxs = s.ctxs ∧ ended u k p slot 4 []
  | destroyed (k p slot b c v) : serves s k p slot 2 b → ofContext s k b c → s.servingOf k slot = some v → v.todo = [] → s.acksDue v = false →
      ManagementEvent s (.ctxdestroy k) fun u => u.mem = s.mem ∧ (∀ x ∈ u.ctxs, x.key ≠ c.key) ∧ (∀ x ∈ u.frames, x.ctx ≠ c.key) ∧ ended u k p slot 0 []
  | overlap (k p slot b c) : serves s k p slot 3 b → ofContext s k b c → s.mapRefused c b = false → s.anyMapped c (leAt b 8 8) (leAt b 16 8) = true →
      ManagementEvent s (.mgmtMap k) fun u => u.mem = s.mem ∧ ended u k p slot 4 []
  | mapped (k p slot b c s1) : serves s k p slot 3 b → ofContext s k b c → s.mapRefused c b = false → s.anyMapped c (leAt b 8 8) (leAt b 16 8) = false →
      byteAt b 24 = 0 → s.mapPages c 0 (mapSpec b) (if byteAt b 26 = 6 then some (leAt b 32 8) else none) (leAt b 16 8 / 4096) (leAt b 8 8) = some s1 →
      (s1.part k = some p) →
      ManagementEvent s (.mgmtMap k) fun u => u.mem = s1.mem ∧ ended u k p slot 0 (natLe 8 (leAt b 16 8 / 4096))
  | notMapped (k p slot b c) : serves s k p slot 4 b → ofContext s k b c → s.servingOf k slot = none →
      allMapped (s.leavesIn c (leAt b 8 8) (leAt b 16 8)) (leAt b 8 8) (leAt b 16 8) = false →
      ManagementEvent s (.mgmtUnmap k) fun u => u.mem = s.mem ∧ ended u k p slot 4 []
  | unmapped (k p slot b c v) : serves s k p slot 4 b → ofContext s k b c → s.servingOf k slot = some v → v.todo = [] → s.acksDue v = false →
      ManagementEvent s (.mgmtUnmap k) fun u => u.mem = s.mem ∧ ended u k p slot 0 (natLe 8 v.moved)
  | acksOutstanding (k p slot b c v i) : serves s k p slot 4 b → ofContext s k b c → s.servingOf k slot = some v → v.todo = [] → i ∈ s.invals → i.ctx = v.ctx →
      v.change ≤ i.change → ManagementEvent s (.mgmtUnmap k) fun u => u = s
  | migrated (k p slot b c v) : serves s k p slot 5 b → ofContext s k b c → s.servingOf k slot = some v → v.todo = [] → v.moves = [] → s.acksDue v = false →
      ManagementEvent s (.migrate k) fun u => u.mem = s.mem ∧ ended u k p slot 0 (natLe 8 v.moved)
  | notMigrated (k p slot b c) : serves s k p slot 5 b → ofContext s k b c → s.servingOf k slot = none →
      State.migrateRefused b (s.leavesIn c (leAt b 8 8) (leAt b 16 8)) = false →
      allMapped (s.leavesIn c (leAt b 8 8) (leAt b 16 8)) (leAt b 8 8) (leAt b 16 8) = false →
      ManagementEvent s (.migrate k) fun u => u.mem = s.mem ∧ ended u k p slot 4 []
  | register (k p slot b c) : serves s k p slot 6 b → ofContext s k b c → byteAt b 8 = 4 →
      ManagementEvent s (.setreg k) fun u => u.mem = s.mem ∧ ended u k p slot 0 []
        ∧ u.ctx? c.key = some { c with trap := BitVec.ofNat 64 (leAt b 16 8) &&& 0x0000FFFFFFFFF801 }
  | windowRegister (k p slot b c n) : serves s k p slot 6 b → ofContext s k b c → byteAt b 8 = 0x20 + n → n < 16 → c.ncbase.length = 16 →
      ManagementEvent s (.setreg k) fun u => u.mem = s.mem ∧ ended u k p slot 0 [] ∧ ∃ c', u.ctx? c.key = some c' ∧ c'.nclim = c.nclim
        ∧ ∀ i, i < 16 → c'.ncbase.getD i 0 = if i = n then BitVec.ofNat 64 (leAt b 16 8) &&& 0x0000FFFFFFFFF00F else c.ncbase.getD i 0
  | saveInUse (k p slot b c w) : serves s k p slot 6 b → ofContext s k b c → byteAt b 8 = 5 → w ∈ s.wgs → w.ctx = c.key →
      ManagementEvent s (.setreg k) fun u => u.mem = s.mem ∧ ended u k p slot 4 [] ∧ u.ctx? c.key = some c
  | groupInUse (k p slot b c img) : serves s k p slot 7 b → ofContext s k b c →
      s.readVa c p.lead .read 2 (BitVec.ofNat 64 (leAt b 16 8)) 256 = .bytes img → s.usesGroup c (byteAt b 8) = true →
      ManagementEvent s (.shardgrp k) fun u => u.mem = s.mem ∧ ended u k p slot 4 []
  | groupSet (k p slot b c img) : serves s k p slot 7 b → ofContext s k b c →
      s.readVa c p.lead .read 2 (BitVec.ofNat 64 (leAt b 16 8)) 256 = .bytes img → s.usesGroup c (byteAt b 8) = false → c.shard.getLsbD 0 = true →
      ManagementEvent s (.shardgrp k) fun u => ended u k p slot 0 [] ∧
        u.mem = (s.viewWrite (c.frameLoc (c.shard.extractLsb' 12 40).toNat + 256 * byteAt b 8) img).mem
  | peerSet (k p slot b c) : serves s k p slot 8 b → ofContext s k b c → byteAt b 9 = 1 →
      ManagementEvent s (.mgmtPeer k) fun u => u.mem = s.mem ∧ ended u k p slot 0 [] ∧ ∃ c', u.ctx? c.key = some c'
        ∧ c'.peers.find? (fun x => x.e == byteAt b 8) = some ⟨byteAt b 8, byteAt b 10, byteAt b 11, byteAt b 12⟩
        ∧ ∀ e, e ≠ byteAt b 8 → c'.peers.find? (fun x => x.e == e) = c.peers.find? (fun x => x.e == e)
  | exported (k p slot b c) : serves s k p slot 9 b → ofContext s k b c →
      ManagementEvent s (.mgmtExport k) fun u => u.mem = s.mem ∧ ended u k p slot 0 []
        ∧ u.ctx? c.key = some { c with expVa := BitVec.ofNat 64 (leAt b 8 8), expLen := leAt b 16 8 }
  | hostBound (k p slot b c) : serves s k p slot 10 b → ofContext s k b c → leAt b 16 8 ≠ 0 → p.hostCtx = none →
      ManagementEvent s (.hostwin k) fun u => u.mem = s.mem ∧ ended u k p slot 0 []
        ∧ ∃ p', u.part k = some p' ∧ p'.hostCtx = some c.num ∧ p'.hostVa = BitVec.ofNat 64 (leAt b 8 8) ∧ p'.hostLen = leAt b 16 8
  | hostHeld (k p slot b c n) : serves s k p slot 10 b → ofContext s k b c → leAt b 16 8 ≠ 0 → p.hostCtx = some n → n ≠ c.num →
      ManagementEvent s (.hostwin k) fun u => u.mem = s.mem ∧ ended u k p slot 4 []
  | debugSet (k p slot b c) : serves s k p slot 11 b → ofContext s k b c →
      ManagementEvent s (.mgmtDebug k) fun u => u.mem = s.mem ∧ ended u k p slot 0 [] ∧ u.ctx? c.key = some { c with halten := byteAt b 8 == 1 }
  | attested (k p slot b c s1) : serves s k p slot 16 b → ofContext s k b c → (b.getD 2 0).getLsbD 1 = false →
      (s.boot.report ((b.drop 8).take 32)).length ≤ leAt b 48 8 →
      s.bufferFault c p.lead (BitVec.ofNat 64 (leAt b 40 8)) (s.boot.report ((b.drop 8).take 32)).length = none →
      s.writeVa c p.lead (BitVec.ofNat 64 (leAt b 40 8)) (s.boot.report ((b.drop 8).take 32)) = .done s1 → s1.part k = some p →
      ManagementEvent s (.attest k) fun u => u.mem = s1.mem ∧ ended u k p slot 0 (natLe 8 (s.boot.report ((b.drop 8).take 32)).length)
  | attestedAfar (k p slot b c) : serves s k p slot 16 b → ofContext s k b c → (b.getD 2 0).getLsbD 1 = true → s.liveEth ≠ [] →
      ManagementEvent s (.attest k) fun u => u.mem = s.mem ∧ ended u k p slot 0 (natLe 8 (s.boot.report ((b.drop 8).take 32)).length)
        ∧ u.out = s.out ++ s.sends k mgmtReplyQueue (s.boot.report ((b.drop 8).take 32))
  | noPortUp (k p slot b c) : serves s k p slot 16 b → ofContext s k b c → (b.getD 2 0).getLsbD 1 = true → s.liveEth = [] →
      ManagementEvent s (.attest k) fun u => u = s
  | reportTooLong (k p slot b c) : serves s k p slot 16 b → ofContext s k b c → (b.getD 2 0).getLsbD 1 = false →
      leAt b 48 8 < (s.boot.report ((b.drop 8).take 32)).length →
      ManagementEvent s (.attest k) fun u => u.mem = s.mem ∧ ended u k p slot 2 (natLe 8 (s.boot.report ((b.drop 8).take 32)).length)
  | unknownContext (k p slot b) : serves s k p slot 11 b → s.liveCtx k (byteAt b 3) = false →
      ManagementEvent s (.mgmtDebug k) fun u => u.mem = s.mem ∧ u.ctxs = s.ctxs ∧ ended u k p slot 5 []

/-- A job of its type at its turn in its queue (R77). -/
def jobDue (s : State) (j : Job) (c : Ctx) (type : Nat) : Prop := s.job? j.id = some j ∧ s.ctx? j.ctx = some c ∧ j.type = type ∧ s.jobTurn c j = true

/-- The levels that a job's start adds, the outermost first. -/
def adds (s u : State) (j : Job) (post : List Level → Prop) : Prop :=
  ∃ ls, u.levels = s.levels ++ ls ∧ (∀ l ∈ ls, l.job = j.id ∧ l.ctx = j.ctx ∧ l.cancel = false ∧ l.counter = 0) ∧ post ls

/-- The events that start jobs, by type. -/
def starts (ty id : Nat) (i : Instr) : Prop :=
  (ty = 0 ∧ i = .jobNoop id) ∨ (ty = 1 ∧ i = .jobGraph id) ∨ (ty = 2 ∧ i = .jobStep id) ∨ (ty = 8 ∧ i = .jobWait id) ∨ (ty = 9 ∧ i = .jobCancel id)

/-- The parser and the jobs (R69, R70, R77, R80, R85 to R91). -/
inductive JobEvent (s : State) : Instr → (State → Prop) → Prop
  | packetRead (k die q c d b) : (s.router die).inReset = false → s.nextQueue k die = some q → s.queueOwner k q = some (c, d) → s.part k ≠ none →
      s.readVa c die .read 2 ((s.queue k q).base + BitVec.ofNat 64 (128 * ((s.queue k q).head.toNat % 2 ^ (s.queue k q).log2))) 128 = .bytes b →
      packetBad b = false → byteAt b 0 = 0 →
      JobEvent s (.parserReadPacket k die) fun u => u.mem = s.mem ∧ (u.queue k q).head = (s.queue k q).head + 1 ∧ u.levels = s.levels
        ∧ ∃ j, u.jobs = s.jobs ++ [j] ∧ j.part = k ∧ j.q = q ∧ j.type = 0 ∧ j.tag = BitVec.ofNat 32 (leAt b 4 4) ∧ j.flags = b.getD 1 0 ∧ j.started = false
  | badPacket (k die q c d b) : (s.router die).inReset = false → s.nextQueue k die = some q → s.queueOwner k q = some (c, d) → s.part k ≠ none →
      s.readVa c die .read 2 ((s.queue k q).base + BitVec.ofNat 64 (128 * ((s.queue k q).head.toNat % 2 ^ (s.queue k q).log2))) 128 = .bytes b →
      packetBad b = true → (∀ l ∈ s.levels, l.id < s.fresh) → JobEvent s (.parserReadPacket k die) fun u => u.mem = s.mem ∧ ∃ l, u.levels = s.levels ++ [l] ∧ l.kind = .job ∧ l.status = 3
  | unreadable (k die q c d e) : (s.router die).inReset = false → s.nextQueue k die = some q → s.queueOwner k q = some (c, d) → s.part k ≠ none →
      s.readVa c die .read 2 ((s.queue k q).base + BitVec.ofNat 64 (128 * ((s.queue k q).head.toNat % 2 ^ (s.queue k q).log2))) 128 = .fault e →
      JobEvent s (.parserReadPacket k die) fun u => u.mem = s.mem ∧ u.jobs = s.jobs ∧ (u.queue k q).err = true ∧ (u.queue k q).code = 5
        ∧ (u.queue k q).head = (s.queue k q).head
  | noop (j c) : jobDue s j c 0 → JobEvent s (.jobNoop j.id) fun u => u.mem = s.mem ∧ adds s u j fun ls => ∃ l, ls = [l] ∧ l.kind = .job ∧ l.total = 0 ∧ l.sig = j.sig
  | graph (j c) : jobDue s j c 1 → JobEvent s (.jobGraph j.id) fun u => u.mem = s.mem ∧
        adds s u j fun ls => ∃ a b, ls = [a, b] ∧ a.kind = .job ∧ a.total = 1 ∧ b.kind = .graph ∧ b.up = some a.id ∧ b.desc = j.desc ∧ b.admitted = false
  | step (j c h b) : jobDue s j c 2 → s.readVa c (c.lead j.dev) .read 2 j.desc 64 = .bytes h → stepHeaderBad h = false →
      s.readVa c (c.lead j.dev) .read (64 * leAt h 0 2 / 4096 + 2) (j.desc + 64) (64 * leAt h 0 2) = .bytes b →
      (∀ e ∈ stepEntries b (leAt h 0 2), stepEntryBad e = false) →
      JobEvent s (.jobStep j.id) fun u => u.mem = s.mem ∧ adds s u j fun ls => ∃ a x, ls = [a, x] ∧ a.kind = .job ∧ a.total = 1 ∧ x.kind = .step ∧ x.up = some a.id
        ∧ x.total = leAt h 0 2 ∧ x.members = (stepEntries b (leAt h 0 2)).map memberOf
  | badStep (j c h) : jobDue s j c 2 → s.readVa c (c.lead j.dev) .read 2 j.desc 64 = .bytes h → stepHeaderBad h = true → (∀ l ∈ s.levels, l.id < s.fresh) →
      JobEvent s (.jobStep j.id) fun u => u.mem = s.mem ∧ adds s u j fun ls => ∃ l, ls = [l] ∧ l.kind = .job ∧ l.status = 3
  | waitOver (j c b) : jobDue s j c 8 → (s.queue j.part j.q).en = true → (s.queue j.part j.q).err = false → s.part j.part ≠ none →
      s.readVa c (c.lead j.dev) .read 2 j.waddr 8 = .bytes b → j.wval.toNat ≤ leNat b →
      JobEvent s (.jobWait j.id) fun u => u.mem = s.mem ∧ (u.queue j.part j.q).head = (s.queue j.part j.q).head + 1
        ∧ adds s u j fun ls => ∃ l, ls = [l] ∧ l.kind = .job
  | waitOn (j c b) : jobDue s j c 8 → (s.queue j.part j.q).en = true → (s.queue j.part j.q).err = false →
      s.readVa c (c.lead j.dev) .read 2 j.waddr 8 = .bytes b → leNat b < j.wval.toNat →
      JobEvent s (.jobWait j.id) fun u => u.mem = s.mem ∧ u.levels = s.levels ∧ u.job? j.id = some { j with started := true }
  | rechecked (j c b) : s.job? j.id = some j → j.started = true → j.waiting = true → s.ctx? j.ctx = some c → (s.queue j.part j.q).en = true →
      (s.queue j.part j.q).err = false → s.part j.part ≠ none → s.readVa c (c.lead j.dev) .read 2 j.waddr 8 = .bytes b → j.wval.toNat ≤ leNat b →
      JobEvent s (.waitPacketRecheck j.id) fun u => u.mem = s.mem ∧ (u.queue j.part j.q).head = (s.queue j.part j.q).head + 1
        ∧ ∃ x, u.job? j.id = some x ∧ x.waiting = false
  | cancels (j c l x) : jobDue s j c 9 → x ∈ s.jobs → x.part = j.part → x.q = j.q → x.started = true → x.deputy ≠ .releasing → x.tag = j.waddr.extractLsb' 0 32 →
      l ∈ s.levels → s.level? l.id = some l → l.kind = .job → l.job = x.id →
      JobEvent s (.jobCancel j.id) fun u => (∃ y ∈ u.levels, y.id = l.id ∧ y.cancel = true) ∧ ∃ y ∈ u.levels, y.job = j.id ∧ y.kind = .job
  | parserDown (k die) : (s.router die).inReset = true → JobEvent s (.parserReadPacket k die) fun u => u = s
  | toDeputy (j c d ty i) : starts ty j.id i → s.job? j.id = some j → s.ctx? j.ctx = some c → j.type = ty → (c.devDies j.dev)[1]? = some d →
      s.turnCome j = true → j.deputy = .none →
      JobEvent s i fun u => { u with jobs := s.jobs } = s ∧ u.job? j.id = some { j with deputy := .sent }
  | atDeputy (j c d ty i) : starts ty j.id i → s.job? j.id = some j → s.ctx? j.ctx = some c → j.type = ty → (c.devDies j.dev)[1]? = some d →
      s.turnCome j = true → j.deputy = .sent → s.socketOn d = true → (s.router d).inReset = false →
      JobEvent s i fun u => { u with jobs := s.jobs } = s ∧ u.job? j.id = some { j with deputy := .held }
  | deputyDown (j c d ty i) : starts ty j.id i → s.job? j.id = some j → s.ctx? j.ctx = some c → j.type = ty → (c.devDies j.dev)[1]? = some d →
      s.turnCome j = true → j.deputy = .sent → (s.router d).inReset = true → JobEvent s i fun u => u = s
  | fromDeputy (j c d ty i) : starts ty j.id i → s.job? j.id = some j → s.ctx? j.ctx = some c → j.type = ty → (c.devDies j.dev)[1]? = some d →
      s.turnCome j = true → j.deputy = .held →
      JobEvent s i fun u => { u with jobs := s.jobs } = s ∧ u.job? j.id = some { j with deputy := .acked }

end Sys2Proof.Claims

/-- Writes of a partition's registers do what the manual gives each register, and leave the others; read-only registers and slots
that a program writes stay (R69 to R72, R80, R385). -/
def Obligations.WindowEvents : Prop := ∀ s i post, WindowEvent s i post → Happens i s post

/-- Each management operation has the effect and the status that its rows of the table give it (R79 to R82; log entries 4, 49 and 50 say
what of it is the model's choice). -/
def Obligations.ManagementEvents : Prop := ∀ s i post, ManagementEvent s i post → Happens i s post

/-- The parser takes packets in turn, and each job type starts as its rows of the table say
(R75 to R78, R85 to R91; log entries 41 and 43 say what of it is the model's reading). -/
def Obligations.JobEvents : Prop := ∀ s i post, JobEvent s i post → Happens i s post

/-! ## Device steps and events: energy, levels, workgroups, graphs -/

namespace Sys2Proof.Claims

/-- A troupe as a workgroup starts it (R128, R287). -/
def freshTroupe (t : Troupe) (entry : DWord) (allot : Nat) : Prop :=
  t.pc = entry ∧ t.allot = allot ∧ t.regs = [] ∧ t.flags = 0 ∧ t.errpend = 0 ∧ t.intrap = false ∧ t.wait = .none ∧ t.exited = false
    ∧ t.am = BitVec.allOnes 96 ∧ (∀ n, n < 61 → t.sregs.getD n 0 = 0) ∧ (∀ n, n < 7 → t.pred n = 0) ∧ ∀ k, k < 16 → t.acs.getD k 0 = 0

/-- The one troupe of its number that its workgroup has. -/
def oneTroupe (s : State) (t : Troupe) : Prop := s.troupe? t.wg t.trix = some t ∧ ∀ x ∈ s.troupes, x.wg = t.wg → x.trix = t.trix → x = t

/-- What a pre-emption keeps of a troupe (R257). -/
def programKept (t t' : Troupe) : Prop :=
  t'.pc = t.pc ∧ t'.sregs = t.sregs ∧ t'.preds = t.preds ∧ t'.allot = t.allot ∧ t'.errpend = t.errpend ∧ t'.faults = t.faults
    ∧ t'.regs.map (fun r => (r.name, r.val)) = t.regs.map (fun r => (r.name, r.val))

/-- The energy accounts (R89 to R91), levels and their signals (R85 to R88), workgroups from start to retirement (R92 to R97, R101,
R102), pre-emption and contexts (R257 to R262). -/
inductive SchedulingEvent (s : State) : Instr → (State → Prop) → Prop
  | credited (d n p) : s.partOfDie d = some n → s.part n = some p → d < s.dies.length → (s.die d).credited + 2 ^ 20 ≤ (s.die d).cycle →
      SchedulingEvent s (.energyCredit d) fun u => u.mem = s.mem ∧ (u.die d).credited = (s.die d).credited + 2 ^ 20
        ∧ ∃ p', u.part n = some p' ∧ p'.bal = min (p.bal + (s.die d).rate.toNat) (s.die d).ceil.toNat ∧ p'.held = p.held
  | notDue (d) : (s.die d).cycle < (s.die d).credited + 2 ^ 20 → SchedulingEvent s (.energyCredit d) fun u => u = s
  | granted (k p a) : s.part k = some p → s.adms.find? (fun a => p.dies.contains a.die && a.st == .asked) = some a → (a.energy : Int) + p.held ≤ p.bal →
      SchedulingEvent s (.energyAdmit k) fun u => u.mem = s.mem ∧ { a with st := .granted } ∈ u.adms
        ∧ ∃ p', u.part k = some p' ∧ p'.held = p.held + a.energy ∧ p'.bal = p.bal
  | refused (k p a) : s.part k = some p → s.adms.find? (fun a => p.dies.contains a.die && a.st == .asked) = some a → p.bal < (a.energy : Int) + p.held →
      SchedulingEvent s (.energyAdmit k) fun u => u.mem = s.mem ∧ { a with st := .refused } ∈ u.adms ∧ u.partitions = s.partitions
  | launchAdmitted (l c b) : s.level? l.id = some l → s.ctx? l.ctx = some c → l.kind = .launch → l.admitted = false → l.status = 0 → s.cancelOf l.id = none →
      s.readVa c (c.lead l.dev) .read 2 l.desc 64 = .bytes b → kdescBad false b = false → leAt b 16 6 ≤ (s.die (c.lead l.dev)).ceil.toNat → leAt b 10 2 ≤ 512 →
      (kdescOf b).slotSize ≤ c.pool →
      SchedulingEvent s (.kernelLaunchAdmit l.id) fun u => u.mem = s.mem ∧ ∃ x ∈ u.levels, x.id = l.id ∧ x.admitted = true ∧ x.status = 0
        ∧ x.kdesc = some (kdescOf b)
  | launchRefused (l c b) : s.level? l.id = some l → s.ctx? l.ctx = some c → l.kind = .launch → l.admitted = false → l.status = 0 → s.cancelOf l.id = none →
      s.readVa c (c.lead l.dev) .read 2 l.desc 64 = .bytes b → kdescBad false b = true →
      SchedulingEvent s (.kernelLaunchAdmit l.id) fun u => u.mem = s.mem ∧ u.level? l.id = some { l with status := 3 }
  | launchTooHot (l c b) : s.level? l.id = some l → s.ctx? l.ctx = some c → l.kind = .launch → l.admitted = false → l.status = 0 → s.cancelOf l.id = none →
      s.readVa c (c.lead l.dev) .read 2 l.desc 64 = .bytes b → kdescBad false b = false → (s.die (c.lead l.dev)).ceil.toNat < leAt b 16 6 →
      SchedulingEvent s (.kernelLaunchAdmit l.id) fun u => u.mem = s.mem ∧ u.level? l.id = some { l with status := 4 }
  | memberStarts (l c m) : s.level? l.id = some l → s.ctx? l.ctx = some c → l.members[l.next]? = some m → l.kind = .step → l.status = 0 →
      (∀ x ∈ s.levels, x.up ≠ some l.id) → s.cancelOf l.id = none → m.kernel = true →
      SchedulingEvent s (.stepMemberStart l.id) fun u => u.mem = s.mem ∧ (∃ x ∈ u.levels, x.id = l.id ∧ x.next = l.next + 1 ∧ x.counter = l.counter)
        ∧ ∃ x ∈ u.levels, x.up = some l.id ∧ x.kind = .launch ∧ x.desc = m.desc ∧ x.x = m.x ∧ x.y = m.y ∧ x.z = m.z ∧ x.args = m.args
          ∧ x.sig = m.sig ∧ x.total = m.x * m.y * m.z
  | stepCancelled (l c m y) : s.level? l.id = some l → s.ctx? l.ctx = some c → l.members[l.next]? = some m → l.kind = .step → l.status = 0 →
      (∀ x ∈ s.levels, x.up ≠ some l.id) → s.cancelOf l.id = some y →
      SchedulingEvent s (.stepMemberStart l.id) fun u => u.mem = s.mem
        ∧ u.level? l.id = some { l with counter := l.total, next := l.members.length, cancelledItem := true }
  | levelEnds (l c x up) : s.level? l.id = some l → s.ctx? l.ctx = some c → s.levelOver l = true → s.levelFlushed l (c.devDies l.dev) = true →
      l.sig = none → l.kind ≠ .job → l.up = some up → s.level? up = some x → up ≠ l.id → x.up ≠ some l.id →
      SchedulingEvent s (.levelEnd l.id) fun u => u.mem = s.mem ∧ u.level? l.id = none
        ∧ ∃ y, u.level? up = some y ∧ y.counter = x.counter + 1 ∧ y.failed = (x.failed || s.levelStatus l == 2)
  | levelSignals (l c va v s1) : s.level? l.id = some l → s.ctx? l.ctx = some c → s.levelOver l = true → s.levelFlushed l (c.devDies l.dev) = true →
      l.sig = some (va, v) → l.kind ≠ .job → l.up = none →
      s.writeVa c (s.writerOf c l.dev) va (natLe 8 (s.levelStatus l ++ v.extractLsb' 0 56 : DWord).toNat) = .done s1 →
      SchedulingEvent s (.levelEnd l.id) fun u => u.mem = s1.mem ∧ u.level? l.id = none
  | jobEnds (l c j) : s.level? l.id = some l → s.ctx? l.ctx = some c → s.levelOver l = true → s.levelFlushed l (c.devDies l.dev) = true →
      l.sig = none → l.kind = .job → l.up = none → s.job? l.job = some j → j.inl = 0 → j.flags.getLsbD 2 = true → j.deputy ≠ .acked →
      SchedulingEvent s (.levelEnd l.id) fun u => u.mem = s.mem ∧ u.level? l.id = none ∧ u.job? j.id = none ∧ .msix j.part j.q ∈ u.out
        ∧ .jobNote j.part j.tag (s.levelStatus l) j.q j.slot ∈ u.out
  | deputyHolds (l c j) : s.level? l.id = some l → s.ctx? l.ctx = some c → s.levelOver l = true → s.levelFlushed l (c.devDies l.dev) = true →
      l.sig = none → l.kind = .job → l.up = none → s.job? l.job = some j → j.inl = 0 → j.deputy = .acked →
      SchedulingEvent s (.levelEnd l.id) fun u => u.mem = s.mem ∧ u.level? l.id = none ∧ u.job? j.id = some { j with deputy := .releasing }
  | flushes (l c) : s.level? l.id = some l → s.ctx? l.ctx = some c → s.levelOver l = true → s.levelFlushed l (c.devDies l.dev) = false →
      SchedulingEvent s (.levelEnd l.id) fun u => u.mem = s.mem ∧ u.levels = s.levels
        ∧ ∀ x ∈ u.lines, x.window = true → x.die ∈ c.devDies l.dev → x.dirty = 0
  | notOver (l c) : s.level? l.id = some l → s.ctx? l.ctx = some c → s.levelOver l = false → SchedulingEvent s (.levelEnd l.id) fun u => u = s
  | cancelApplies (k p n l rest) : s.part k = some p → p.cancels = (n, l.id) :: rest → s.level? l.id = some l →
      SchedulingEvent s (.levelCancelApply k) fun u => (∃ x ∈ u.levels, x.id = l.id ∧ x.cancel = true) ∧ ∃ p', u.part k = some p' ∧ p'.cancels = rest
  | asks (d l w k c core) : s.admOf d = none → s.headSaved d = none → s.headOffer d = none → s.headKernel d = some (l, w) → l.kdesc = some k →
      s.ctx? l.ctx = some c → s.bestCore d k.demand = some core → l.lets w = true → s.poolRoom c k.slotSize = true →
      SchedulingEvent s (.workgroupStart d) fun u => u = { s with adms := s.adms ++ [⟨d, core, .kernel l.id w, k.energy, .asked⟩] }
  | starts (d core l w k e i) : s.admOf d = some ⟨d, core, .kernel l.id w, e, .granted⟩ → s.level? l.id = some l → l.kdesc = some k → l.lets w = true →
      (∀ t ∈ s.troupes, t.wg ≠ s.fresh) → i < k.troupes →
      SchedulingEvent s (.workgroupStart d) fun u => u.mem = s.mem ∧ s.admOf d ≠ u.admOf d
        ∧ (∃ g ∈ u.wgs, g.id = s.fresh ∧ g.lvl = l.id ∧ g.ctx = l.ctx ∧ g.w = w ∧ g.x = w % l.x ∧ g.y = w / l.x % l.y ∧ g.z = w / (l.x * l.y) ∧ g.die = d
            ∧ g.core = core ∧ g.status = .running ∧ g.args = l.args ∧ g.troupes = k.troupes)
        ∧ ∃ t, u.troupe? s.fresh i = some t ∧ freshTroupe t k.entry k.allot ∧ t.pipe = 32 * d + 4 * core + i % 4 ∧ t.idCore = core ∧ t.idSlot = t.slot
  | resumes (d w core t) : s.headSaved d = some w → s.wg? w.id = some w → (∀ b ∈ w.binds, b.saved ≠ none) → s.resumeCore d w = some core →
      oneTroupe s t → t.wg = w.id → t.exited = false →
      SchedulingEvent s (.resumption d) fun u => u.mem = s.mem ∧ (∃ w', u.wg? w.id = some w' ∧ w'.status = .running ∧ w'.core = core ∧ w'.die = w.die ∧ w'.resume = none)
        ∧ ∃ t', u.troupe? t.wg t.trix = some t' ∧ programKept t t' ∧ t'.stopped = false ∧ t'.pipe = 32 * w.die + 4 * core + t.trix % 4
  | resumesNot (d w) : s.headSaved d = some w → s.resumeCore d w = none → (∀ b ∈ w.binds, b.saved ≠ none) →
      SchedulingEvent s (.resumption d) fun u => u = s
  | stillClearing (d w c x) : s.headSaved d = some w → w.resume = some c → x ∈ s.wgs → x.die = d → x.core = c → x.status = .stopping →
      (∀ b ∈ w.binds, b.saved ≠ none) → SchedulingEvent s (.resumption d) fun u => u = s
  | fitsAlready (d w core) : s.headSaved d = some w → s.bestCore d (s.resumeDemand w) = some core → SchedulingEvent s (.resumeCheck d) fun u => u = s
  | makesRoom (d w x core) : s.headSaved d = some w → s.wg? w.id = some w → s.clearing d w = false → s.bestCore d (s.resumeDemand w) = none →
      (List.range 8).filterMap (fun c => s.costOn d c w (s.resumeDemand w)) = [(core, [x])] → s.wg? x.id = some x → x.status = .running → x.id ≠ w.id →
      SchedulingEvent s (.resumeCheck d) fun u => u.mem = s.mem ∧ u.troupes = s.troupes ∧ u.wg? x.id = some { x with status := .stopping }
        ∧ u.wg? w.id = some { w with resume := some core }
  | onceOnly (d w c x) : s.headSaved d = some w → w.resume = some c → x ∈ s.wgs → x.die = d → x.core = c → x.status = .stopping →
      SchedulingEvent s (.resumeCheck d) fun u => u = s
  | stops (w t) : s.wg? w.id = some w → w.status = .stopping → (∀ x ∈ s.troupes, x.wg = w.id → x.exited = false → x.midway = false) → oneTroupe s t →
      t.wg = w.id → t.exited = false → t.stopped = false →
      SchedulingEvent s (.preemptStop w.id) fun u => u.mem = s.mem ∧ ∃ t', u.troupe? t.wg t.trix = some t' ∧ programKept t t' ∧ t'.stopped = true ∧ t'.wait = .none
  | saves (w t) : s.wg? w.id = some w → w.status = .stopping → s.quiet w.id = true → oneTroupe s t → t.wg = w.id → t.exited = false →
      SchedulingEvent s (.preemptSave w.id) fun u => u.mem = s.mem
        ∧ (∃ w', u.wg? w.id = some w' ∧ w'.status = (if w.halt then .halted else .saved) ∧ w'.binds.map Binding.handle = w.binds.map Binding.handle)
        ∧ ∃ t', u.troupe? t.wg t.trix = some t' ∧ programKept t t' ∧ t'.flags = 0 ∧ (∀ p, p < 1024 → t'.pipe ≠ p)
  | switches (c w) : s.ctx? c.key = some c → c.phase = .onCores → s.wg? w.id = some w → w.ctx = c.key → w.status = .running →
      SchedulingEvent s (.contextSwitch c.key) fun u => u.mem = s.mem ∧ u.ctx? c.key = some { c with phase := .stopping }
        ∧ u.wg? w.id = some { w with status := .stopping }
  | switched (c) : s.ctx? c.key = some c → c.phase = .stopping → (∀ w ∈ s.wgs, w.ctx = c.key → w.status ≠ .running ∧ w.status ≠ .stopping) →
      SchedulingEvent s (.contextSwitch c.key) fun u => u.mem = s.mem ∧ u.wgs = s.wgs ∧ u.ctx? c.key = some { c with phase := .saving }
  | stateSaved (c) : s.ctx? c.key = some c → c.phase = .saving → (∀ d ∈ s.deferred, d.ctx ≠ c.key) →
      SchedulingEvent s (.ptStateSaveDone c.key) fun u => u.mem = s.mem ∧ u.out = s.out ∧ u.ctx? c.key = some { c with phase := .off }
  | returns (c) : s.ctx? c.key = some c → c.phase = .off →
      SchedulingEvent s (.contextReturn c.key) fun u => u.mem = s.mem ∧ u.wgs = s.wgs ∧ u.ctx? c.key = some { c with phase := .onCores }
  | released (w) : s.wg? w.id = some w → w.status = .halted →
      SchedulingEvent s (.debugRelease w.id) fun u => u.mem = s.mem ∧ u.troupes = s.troupes ∧ u.wg? w.id = some { w with status := .saved }
  | retires (w l p) : s.wg? w.id = some w → w.status = .draining → s.draining w.id = false → w.node = none → s.level? w.lvl = some l → s.part w.part = some p →
      SchedulingEvent s (.workgroupRetire w.id) fun u => u.mem = s.mem ∧ u.wg? w.id = none ∧ (∀ t ∈ u.troupes, t.wg ≠ w.id)
        ∧ (∃ x, u.level? w.lvl = some x ∧ x.counter = l.counter + 1 ∧ x.failed = (l.failed || w.failed) ∧ x.cancelledItem = (l.cancelledItem || w.cancelled))
        ∧ ∃ p', u.part w.part = some p' ∧ p'.held = p.held - w.energy ∧ p'.bal = p.bal - w.used
  | drains (w) : s.wg? w.id = some w → s.draining w.id = true → SchedulingEvent s (.workgroupRetire w.id) fun u => u = s
  | stillToDo (w t) : s.wg? w.id = some w → t ∈ s.troupes → t.wg = w.id → t.pend ≠ [] → SchedulingEvent s (.workgroupRetire w.id) fun u => u = s

/-- The core that a graph's event names, and its record store. -/
def segOf (s : State) (lvl node core : Nat) (g : Graph) (x : Seg) : Prop := s.graph? lvl = some g ∧ g.lvl = lvl ∧ g.seg? node core = some x

/-- A graph that may be admitted now, with the 64 bytes of its header, and the nodes that its checks have read (R104 to R106). -/
def graphDue (s : State) (l : Level) (c : Ctx) (h : List Byte) : Prop :=
  s.level? l.id = some l ∧ s.ctx? l.ctx = some c ∧ l.kind = .graph ∧ l.status = 0 ∧ s.graph? l.id = none ∧ s.cancelOf l.id = none
    ∧ s.graphWaits l = false ∧ s.readVa c (c.lead l.dev) .read 2 l.desc 64 = .bytes h

def nodesRead (s : State) (l : Level) (c : Ctx) (h : List Byte) (k : GraphCheck) : Prop :=
  headerBad h = false ∧ (List.range (leAt h 0 2)).foldl (State.checkNode c (c.lead l.dev) l.desc) ⟨s, [], 0, false⟩ = k

/-- The instance as the initial records find it, and the area that its vat needs (R107, R109). -/
def firstGraph (l : Level) (c : Ctx) (h : List Byte) (ns : List GNode) : Graph :=
  newGraph l.id (byteAt h 2) (leAt h 4 4) (BitVec.ofNat 64 (leAt h 8 8)) ns (8 * (c.devDies l.dev).length)

def vatSize (l : Level) (c : Ctx) (h : List Byte) (ns : List GNode) : Nat :=
  (firstGraph l c h ns).segArea (8 * (c.devDies l.dev).length) + 4096 * leAt h 4 4

/-- The dies and cores of a graph, and the die of a core. -/
def coresOf (s : State) (g : Graph) : Nat := 8 * (s.graphDies g).length
def dieOf (s : State) (g : Graph) (core : Nat) : Nat := devDie (s.graphDies g) core

/-- The records that a steal takes from a segment's tail: half of the takeable ones rounded up, at most a group (R120). -/
def stolen (x : Seg) (n : GNode) : List GRec := x.ready.drop (x.ready.length - min (cdiv x.ready.length 2) n.group)

/-- A steal that has come so far, and the segment that it is about. -/
def stealAt (s : State) (t : Steal) (st : StealStage) (g : Graph) (n : GNode) (c : Ctx) : Prop :=
  s.steals.find? (fun x => x.id == t.id) = some t ∧ t.stage = st ∧ s.graph? t.lvl = some g ∧ g.lvl = t.lvl ∧ g.nodes[t.node]? = some n
    ∧ ∃ l, s.level? t.lvl = some l ∧ s.ctx? l.ctx = some c

/-- Task graphs (R103 to R122) and stealing (R98, R99). -/
inductive GraphEvent (s : State) : Instr → (State → Prop) → Prop
  | admitted (l c h ns) : graphDue s l c h → nodesRead s l c h ⟨s, ns, 0, false⟩ → leAt h 28 4 = 0 → vatSize l c h ns ≤ leAt h 16 8 →
      GraphEvent s (.graphAdmit l.id) fun u => u.mem = s.mem ∧ (∃ x ∈ u.levels, x.id = l.id ∧ x.admitted = true)
        ∧ ∃ g, u.graphs = s.graphs ++ [g] ∧ g.lvl = l.id ∧ g.depthMax = byteAt h 2 ∧ g.reserve = leAt h 4 4 ∧ g.vat = BitVec.ofNat 64 (leAt h 8 8) ∧ g.counter = 0
          ∧ g.nodes.map (fun n => (n.k, n.segrec, n.rank, n.args)) = ns.map (fun n => (n.k, n.segrec, n.rank, n.args))
  | admittedFull (l c h ns n init g0 s1) : graphDue s l c h → nodesRead s l c h ⟨s, ns, 0, false⟩ → vatSize l c h ns ≤ leAt h 16 8 →
      ns[leAt h 24 2]? = some n → mostInit (leAt h 28 4) n.group (8 * (c.devDies l.dev).length) ≤ n.segrec →
      s.descRead c (c.lead l.dev) (BitVec.ofNat 64 (leAt h 32 8)) (leAt h 28 4 * n.k.recsize) = .bytes init →
      (List.range (leAt h 28 4)).foldl
        (State.initRecord c (c.lead l.dev) (8 * (c.devDies l.dev).length) (leAt h 24 2) (c.devDies l.dev) n init)
        (firstGraph l c h ns, ⟨s, [], 0, false⟩) = (g0, ⟨s1, [], 0, false⟩) →
      GraphEvent s (.graphAdmit l.id) fun u => u.mem = s1.mem
        ∧ ∃ g, u.graphs = s1.graphs ++ [g] ∧ g.lvl = g0.lvl ∧ g.segs = g0.segs ∧ g.counter = leAt h 28 4
  | refused (l c h) : graphDue s l c h → headerBad h = true →
      GraphEvent s (.graphAdmit l.id) fun u => u.mem = s.mem ∧ u.graphs = s.graphs ∧ u.level? l.id = some { l with status := 3 }
  | nodeRefused (l c h ns st s1) : graphDue s l c h → nodesRead s l c h ⟨s1, ns, st, false⟩ → st ≠ 0 → s1.level? l.id = some l →
      GraphEvent s (.graphAdmit l.id) fun u => u.mem = s1.mem ∧ u.graphs = s1.graphs ∧ u.level? l.id = some { l with status := st }
  | nodeAwaited (l c h ns st s1) : graphDue s l c h → nodesRead s l c h ⟨s1, ns, st, true⟩ → GraphEvent s (.graphAdmit l.id) fun u => u = s1
  | vatShort (l c h ns) : graphDue s l c h → nodesRead s l c h ⟨s, ns, 0, false⟩ → leAt h 16 8 < vatSize l c h ns →
      GraphEvent s (.graphAdmit l.id) fun u => u.mem = s.mem ∧ u.graphs = s.graphs ∧ u.level? l.id = some { l with status := 3 }
  | behind (l c) : s.level? l.id = some l → s.ctx? l.ctx = some c → s.graphWaits l = true → GraphEvent s (.graphAdmit l.id) fun u => u = s
  | counted (m g x r) : s.counts.find? (fun y => y.id == m.id) = some m → segOf s m.lvl m.node m.core g x → s.graphCancelled g = false → r ∈ x.recs →
      r.slot ∈ m.slots →
      GraphEvent s (.recordCountAck m.id) fun u => u.mem = s.mem ∧ (∀ y ∈ u.counts, y.id ≠ m.id)
        ∧ ∃ g' x', segOf u m.lvl m.node m.core g' x' ∧ g'.counter = g.counter ∧ { r with takeable := true } ∈ x'.recs
  | countedLate (m g x) : s.counts.find? (fun y => y.id == m.id) = some m → segOf s m.lvl m.node m.core g x → m.node < g.nodes.length →
      s.graphCancelled g = true →
      GraphEvent s (.recordCountAck m.id) fun u => u.mem = s.mem ∧ (∀ y ∈ u.counts, y.id ≠ m.id)
        ∧ ∃ g' x', segOf u m.lvl m.node m.core g' x' ∧ g'.counter = g.counter - (x.recs.filter fun r => m.slots.contains r.slot).length
          ∧ ∀ r ∈ x'.recs, r.slot ∉ m.slots
  | lapsed (lvl node core g x) : segOf s lvl node core g x → s.launchable g x = 0 → GraphEvent s (.holdLapse lvl node core) fun u => u = s
  | offered (lvl node core g x) : segOf s lvl node core g x → s.launchable g x ≠ 0 → dieOf s g core ∈ s.graphDies g →
      devCore (s.graphDies g) (dieOf s g core) (core % 8) = core → (∀ a ∈ s.adms, a.what ≠ .node lvl node core) →
      GraphEvent s (.holdLapse lvl node core) fun u => { u with offers := s.offers } = s ∧ (∀ o ∈ s.offers, o ∈ u.offers)
        ∧ (⟨dieOf s g core, lvl, node, core⟩ : Offer) ∈ u.offers
  | drains (g x) : s.graph? g.lvl = some g → g.running = 0 → (∀ y ∈ g.segs, ∀ n, g.nodes[y.node]? = some n → y.ready.length < n.group) →
      x ∈ g.segs → x.ready ≠ [] →
      GraphEvent s (.graphDrainOrder g.lvl) fun u => u.mem = s.mem ∧ ∃ g', u.graph? g.lvl = some g' ∧ { x with drain := true } ∈ g'.segs
  | stillRunning (g) : s.graph? g.lvl = some g → g.running ≠ 0 → GraphEvent s (.graphDrainOrder g.lvl) fun u => u = s
  | stillFull (g x n) : s.graph? g.lvl = some g → x ∈ g.segs → g.nodes[x.node]? = some n → n.group ≤ x.ready.length →
      GraphEvent s (.graphDrainOrder g.lvl) fun u => u = s
  | groupAsks (d o g x n l c) : s.admOf d = none → s.headSaved d = none → (s.offerOn d).headOffer d = some o → segOf s o.lvl o.node o.core g x →
      g.nodes[o.node]? = some n → s.level? o.lvl = some l → s.ctx? l.ctx = some c → s.launchable g x ≠ 0 → s.fits d (o.core % 8) n.k.groupDemand = true →
      s.poolRoom c n.k.slotSize = true →
      GraphEvent s (.nodeGroupStart d) fun u => u.mem = s.mem ∧ u.adms = s.adms ++ [⟨d, o.core % 8, .node o.lvl o.node o.core, n.k.energy, .asked⟩]
  | groupStarts (d core lvl node k e g x n l) : s.admOf d = some ⟨d, core, .node lvl node k, e, .granted⟩ → segOf s lvl node k g x → g.nodes[node]? = some n →
      s.level? n.lvl = some l → s.engineBusy g node k .take = false → s.launchable g x ≠ 0 → (∀ t ∈ s.troupes, t.wg ≠ s.fresh) → 0 < n.k.troupes →
      GraphEvent s (.nodeGroupStart d) fun u => u.mem = s.mem
        ∧ (∃ w ∈ u.wgs, w.id = s.fresh ∧ w.node = some (lvl, node) ∧ w.die = d ∧ w.status = .running ∧ w.recs.length = s.launchable g x)
        ∧ (∃ g', u.graph? lvl = some g' ∧ g'.running = g.running + 1 ∧ g'.counter = g.counter + 1 - s.launchable g x)
        ∧ ∃ t, u.troupe? s.fresh 0 = some t ∧ t.pc = n.k.entry ∧ ∀ i, i < 96 → t.am.getLsbD i = decide (i < s.launchable g x)
  | groupWaits (d core lvl node k e g) : s.admOf d = some ⟨d, core, .node lvl node k, e, .granted⟩ → s.graph? lvl = some g →
      s.engineBusy g node k .take = true → GraphEvent s (.nodeGroupStart d) fun u => u = s
  | groupWithdrawn (d core lvl node k e g x n q p) : s.admOf d = some ⟨d, core, .node lvl node k, e, .granted⟩ → segOf s lvl node k g x →
      g.nodes[node]? = some n → s.engineBusy g node k .take = false → s.launchable g x = 0 → s.partOfDie d = some q → s.part q = some p →
      GraphEvent s (.nodeGroupStart d) fun u => u.mem = s.mem ∧ u.graphs = s.graphs ∧ u.wgs = s.wgs ∧ (∀ a ∈ u.adms, a.die ≠ d)
        ∧ ∃ p', u.part q = some p' ∧ p'.held = p.held - e
  | groupRefused (d core lvl node k e) : s.admOf d = some ⟨d, core, .node lvl node k, e, .refused⟩ →
      GraphEvent s (.nodeGroupStart d) fun u => { u with offers := s.offers, adms := s.adms } = s ∧ u.offers = ⟨d, lvl, node, k⟩ :: s.offers
        ∧ ∀ a, a ∈ u.adms ↔ a ∈ s.adms ∧ ¬(a.die = d ∧ a.st = .refused)
  | stealAsked (d c g x) : s.idleFor d c = some (g, x) → (s.coreSt d c).backoff = 0 → (∀ t ∈ s.steals, ¬(t.lvl = g.lvl ∧ t.thief = x.core ∧ t.node = x.node)) →
      GraphEvent s (.stealRequest d c) fun u => u.mem = s.mem ∧ u.graphs = s.graphs
        ∧ ∃ t, u.steals = s.steals ++ [t] ∧ t.lvl = g.lvl ∧ t.node = x.node ∧ t.thief = x.core ∧ t.stage = .asked
          ∧ t.victim = (lfsrPick (coresOf s g) x.core 65536 (s.coreSt d c).lfsr).toNat % max 1 (coresOf s g)
  | notIdle (d c) : s.idleFor d c = none → GraphEvent s (.stealRequest d c) fun u => u = s
  | backedOff (d c) : (s.coreSt d c).backoff ≠ 0 → GraphEvent s (.stealRequest d c) fun u => u = s
  | stealGone (t) : s.steals.find? (fun x => x.id == t.id && x.stage == .asked) = some t → s.graph? t.lvl = none →
      GraphEvent s (.stealReply t.id) fun u => { u with steals := s.steals } = s ∧ { t with stage := .refused } ∈ u.steals
  | stealRefused (t g x) : s.steals.find? (fun x => x.id == t.id && x.stage == .asked) = some t → segOf s t.lvl t.node t.victim g x →
      (x.ready = [] ∨ s.graphCancelled g = true) →
      GraphEvent s (.stealReply t.id) fun u => { u with steals := s.steals } = s ∧ { t with stage := .refused } ∈ u.steals
  | stealGiven (t g x n l c b) : s.steals.find? (fun x => x.id == t.id && x.stage == .asked) = some t → segOf s t.lvl t.node t.victim g x → g.nodes[t.node]? = some n →
      s.level? t.lvl = some l → s.ctx? l.ctx = some c → s.graphCancelled g = false → x.ready ≠ [] → n.group ≠ 0 → s.engineBusy g t.node t.victim .steal = false →
      s.stolenBytes c (dieOf s g t.victim) g (coresOf s g) t.node t.victim n.k.recsize (stolen x n) = some b →
      GraphEvent s (.stealReply t.id) fun u => u.mem = s.mem
        ∧ { t with stage := .moved, recs := stolen x n, bytes := b } ∈ u.steals
        ∧ ∃ g' x', segOf u t.lvl t.node t.victim g' x' ∧ g'.counter = g.counter ∧ ∀ r ∈ x'.recs, ∀ q ∈ stolen x n, r.slot ≠ q.slot
  | stealFails (t g) : s.steals.find? (fun x => x.id == t.id) = some t → t.stage = .refused → s.graph? t.lvl = some g →
      dieOf s g t.thief < s.dies.length → t.thief % 8 < (s.die (dieOf s g t.thief)).cores.length →
      GraphEvent s (.stealArrive t.id) fun u => u.mem = s.mem ∧ (∀ x ∈ u.steals, x.id ≠ t.id) ∧
        let d := dieOf s g t.thief
        let k := s.coreSt d (t.thief % 8)
        u.coreSt d (t.thief % 8) = if 3 ≤ k.empties then { k with empties := 0, backoff := (s.die d).cycle + 256 } else { k with empties := k.empties + 1 }
  | stealOrphaned (t) : s.steals.find? (fun x => x.id == t.id) = some t → s.graph? t.lvl = none →
      GraphEvent s (.stealArrive t.id) fun u => u = { s with steals := s.steals.filter fun x => x.id != t.id }
  | stealLands (t g n c r b slot g' s1) : stealAt s t .moved g n c → s.graphCancelled g = false → t.recs = [r] → t.bytes = [b] →
      s.vatParks c (dieOf s g t.thief) g (coresOf s g) t.node t.thief 1 n.k.recsize = [] →
      g.takeSlot t.node t.thief anySlot = some (slot, g') →
      s.writeVa c (dieOf s g t.thief) (g'.slotVa (coresOf s g) t.node t.thief slot) b = .done s1 →
      GraphEvent s (.stealArrive t.id) fun u => u.mem = s1.mem ∧ { t with stage := .placed, recs := [r], back := [], bytes := [] } ∈ u.steals
        ∧ ∃ y z, segOf u t.lvl t.node t.thief y z ∧ ∃ q ∈ z.recs, q.slot = slot ∧ q.depth = r.depth ∧ q.takeable = true
  | stealFindsNoSlot (t g n c r b) : stealAt s t .moved g n c → s.graphCancelled g = false → t.recs = [r] → t.bytes = [b] →
      g.takeSlot t.node t.thief anySlot = none →
      GraphEvent s (.stealArrive t.id) fun u => u.mem = s.mem ∧ { t with stage := .placed, recs := [], back := [r], bytes := [] } ∈ u.steals
  | stealCancelled (t g n c) : stealAt s t .moved g n c → s.graphCancelled g = true →
      GraphEvent s (.stealArrive t.id) fun u => u.mem = s.mem ∧ { t with stage := .placed, bytes := [] } ∈ u.steals
        ∧ ∃ y, u.graph? t.lvl = some y ∧ y.counter = g.counter - t.recs.length
  | stealAcked (t g n x r) : s.steals.find? (fun x => x.id == t.id && x.stage == .placed) = some t → segOf s t.lvl t.node t.victim g x → g.nodes[t.node]? = some n →
      t.recs = [r] → t.back = [] →
      GraphEvent s (.stealAck t.id) fun u => u.mem = s.mem ∧ (∀ y ∈ u.steals, y.id ≠ t.id)
        ∧ ∃ g' x', segOf u t.lvl t.node t.victim g' x' ∧ r.slot ∉ x'.taken
  | stealGivesBack (t g x r) : s.steals.find? (fun x => x.id == t.id && x.stage == .placed) = some t → segOf s t.lvl t.node t.victim g x →
      s.graphCancelled g = false → t.recs = [] → t.back = [r] →
      GraphEvent s (.stealAck t.id) fun u => u.mem = s.mem ∧ (∀ y ∈ u.steals, y.id ≠ t.id)
        ∧ ∃ g' x', segOf u t.lvl t.node t.victim g' x' ∧ x'.recs = x.recs ++ [r] ∧ r.slot ∉ x'.taken ∧ g'.counter = g.counter
  | stealBackCancelled (t g n x r) : s.steals.find? (fun x => x.id == t.id && x.stage == .placed) = some t → segOf s t.lvl t.node t.victim g x →
      g.nodes[t.node]? = some n → s.graphCancelled g = true → t.recs = [] → t.back = [r] →
      GraphEvent s (.stealAck t.id) fun u => u.mem = s.mem ∧ (∀ y ∈ u.steals, y.id ≠ t.id)
        ∧ ∃ g' x', segOf u t.lvl t.node t.victim g' x' ∧ r.slot ∉ x'.taken ∧ g'.counter = g.counter - 1
  | backoffOver (d c) : (s.coreSt d c).backoff ≠ 0 → (s.coreSt d c).backoff ≤ (s.die d).cycle → d < s.dies.length → c < (s.die d).cores.length →
      GraphEvent s (.stealBackoff d c) fun u => u.mem = s.mem ∧ u.coreSt d c = { s.coreSt d c with backoff := 0 }
  | backoffStands (d c) : (s.die d).cycle < (s.coreSt d c).backoff → GraphEvent s (.stealBackoff d c) fun u => u = s

end Sys2Proof.Claims

/-- Energy, levels, workgroups and contexts: what is admitted, started, stopped, saved, resumed and retired, and what it keeps. The
placement test's details are the model's reading: log entries 44 and 47. -/
def Obligations.SchedulingEvents : Prop := ∀ s i post, SchedulingEvent s i post → Happens i s post

/-- Task graphs: admission, counted records, held and drained queues, groups, and every stage of a steal (log entries 45,
46 and 59 say what of it is the model's reading). -/
def Obligations.GraphEvents : Prop := ∀ s i post, GraphEvent s i post → Happens i s post

/-! ## Device steps and events: shards, copies, the matrix quarter, resets -/

namespace Sys2Proof.Claims

/-- The shard state of a context's group after an event. -/
def groupHas (u : State) (key g : Nat) (post : ShGroup → Prop) : Prop := ∃ c, u.ctx? key = some c ∧ post (c.group g)

/-- A message of a shard engine stands in the queue of a fabric port, for one member (R43, R184). -/
def queuedFor (u : State) (k : Nat) (kind : ShKind) (x : ShardMsg) : Prop := ∃ q ∈ u.fabQ, q.load = .note (.shard k kind x)

/-- What a member has sent to the sender of a message, about the same page, with its own life (R185). -/
def shardSent (u : State) (m : ShardMsg) (c : Ctx) (e : List Byte) (kind : ShKind) (round : BitVec 16) (data : List Byte) : Prop :=
  ∃ x : ShardMsg, queuedFor u m.member kind x ∧ x.group = m.group ∧ x.member = geSelf e ∧ x.page = m.page ∧ x.round = round ∧ x.data = data
    ∧ x.own = c.memberLife

/-- A message of another member of the group, which an answer can reach: a fabric port takes traffic. -/
def fromPeer (s : State) (m : ShardMsg) (c : Ctx) (e : List Byte) : Prop :=
  s.forGroup m = some (c, e) ∧ m.member ≠ geSelf e ∧ s.livePorts ≠ []

/-- The member's lease at this device starts again (R186). -/
def leaseRenewed (s u : State) (m : ShardMsg) (c : Ctx) : Prop :=
  groupHas u m.ctx m.group fun x => (m.member, (s.die c.lowDie).cycle) ∈ x.heard

/-- The first block and the number of blocks of member k in a group of n (R182). -/
def firstBlock (n k : Nat) : Nat := 64 * k / n
def blockCount (n k : Nat) : Nat := 64 * (k + 1) / n - 64 * k / n

/-- A shard page that a GATHER names, in this member's life. -/
def named (s : State) (m : ShardMsg) (c : Ctx) (f : Nat) : Prop :=
  m.target = c.memberLife ∧ s.shardFrame c m.page = some f ∧ ∃ l, s.shardLeaf c m.page = some l ∧ pteGroup l.pte = m.group ∧ pteRole l.pte = m.role
    ∧ pteRfmt l.pte = m.rfmt

/-- A CLOSE is the last of its round: every other member not declared dead has closed it. -/
def lastClose (m : ShardMsg) (c : Ctx) (e : List Byte) : Prop :=
  ∀ k, k < geN e → k = m.member ∨ k ∈ (c.group m.group).dead ∨ (k, m.round) ∈ (c.group m.group).closes

/-- The reduction records of a message's round (R195). -/
def ofRound (s : State) (m : ShardMsg) : List Reduction := s.reductions.filter fun x => x.ctx == m.ctx && x.group == m.group && x.round == m.round

/-- The staged contributions in the order of their addition: ascending members, each member's as they arrived (R195). -/
def contributions (n : Nat) (x : Reduction) : List (List Byte) :=
  (List.range n).flatMap fun k => (x.contribs.filter fun y => y.member == k).flatMap Contrib.staged

/-- The owner has sent DONE to every other member, and counts its own (R196). -/
def roundEnds (u : State) (m : ShardMsg) (e : List Byte) (lost : Bool) : Prop :=
  (∀ k, k < geN e → k ≠ geSelf e →
    ∃ y : ShardMsg, queuedFor u k .done y ∧ y.group = m.group ∧ y.member = geSelf e ∧ y.round = m.round ∧ y.lost = lost)
  ∧ groupHas u m.ctx m.group fun y => (geSelf e, m.round, lost) ∈ y.dones

/-- Gathering, opening, delivering and closing of shard pages, lives and liveness of the members (R184 to R198). -/
inductive ShardEvent (s : State) : Instr → (State → Prop) → Prop
  | dataSent (m c e f) : fromPeer s m c e → named s m c f → s.frameLost c f = false → c.phase ≠ .saving → s.addingTo c.key m.page = none →
      s.frameFault c f (64 * firstBlock (geN e) (geSelf e)) (64 * blockCount (geN e) (geSelf e)) = none →
      ShardEvent s (.gatherReceive m) fun u => u.mem = s.mem ∧ u.deferred = s.deferred
        ∧ shardSent u m c e .data 0 (s.view (c.frameLoc f + 64 * firstBlock (geN e) (geSelf e)) (64 * blockCount (geN e) (geSelf e)))
  | otherLife (m c e) : fromPeer s m c e → m.target ≠ c.memberLife →
      ShardEvent s (.gatherReceive m) fun u => u.mem = s.mem ∧ shardSent u m c e .life 0 []
  | deferred (m c e f) : fromPeer s m c e → named s m c f → s.frameLost c f = false →
      c.phase = .saving ∨ (∃ x, s.addingTo c.key m.page = some x) →
      ShardEvent s (.gatherReceive m) fun u => u.mem = s.mem ∧ shardSent u m c e .deferred 0 []
        ∧ u.deferred = s.deferred ++ [⟨c.key, m.group, m.member, m.page⟩]
  | frameGone (m c e f) : fromPeer s m c e → named s m c f → s.frameLost c f = true →
      ShardEvent s (.gatherReceive m) fun u => u.mem = s.mem ∧ shardSent u m c e .lost 0 []
  | frameFails (m c e f code) : fromPeer s m c e → named s m c f → s.frameLost c f = false → c.phase ≠ .saving → s.addingTo c.key m.page = none →
      s.frameFault c f (64 * firstBlock (geN e) (geSelf e)) (64 * blockCount (geN e) (geSelf e)) = some code →
      ShardEvent s (.gatherReceive m) fun u => u.mem = s.mem ∧ shardSent u m c e .lost 0 []
        ∧ .page c.key (BitVec.ofNat 64 (4096 * m.page)) code ∈ u.errors
  | notShard (m c e) : fromPeer s m c e → m.target = c.memberLife → s.shardLeaf c m.page = none →
      ShardEvent s (.gatherReceive m) fun u => u.mem = s.mem ∧ shardSent u m c e .notshard 0 []
  | noGroup (m) : s.forGroup m = none → (∀ c, s.ctx? m.ctx = some c → m.target = c.memberLife) → ShardEvent s (.gatherReceive m) fun u => { u with out := s.out } = s ∧
      ∃ x : ShardMsg, .shard m.member .notshard x ∈ u.out ∧ x.page = m.page ∧ x.data = [] ∧ ∀ c, s.ctx? m.ctx = some c → x.own = c.memberLife
  | noGroupLife (m c) : s.forGroup m = none → s.ctx? m.ctx = some c → m.target ≠ c.memberLife → ShardEvent s (.gatherReceive m) fun u =>
      { u with out := s.out } = s ∧ ∃ x : ShardMsg, .shard m.member .life x ∈ u.out ∧ x.page = m.page ∧ x.own = c.memberLife ∧ x.target = m.own
  | gathered (m c e g f k) : s.forGroup m = some (c, e) → s.gather? m.ctx m.page = some g → m.member ∈ g.waiting → k ∈ g.waiting → k ≠ m.member →
      g.fail = false → s.shardFrame c m.page = some f →
      ShardEvent s (.dataReceive m) fun u => u.gather? m.ctx m.page = some { g with waiting := g.waiting.filter (· != m.member) }
        ∧ u.mem = (s.viewWrite (c.frameLoc f + 64 * firstBlock (geN e) m.member) (m.data.take (64 * blockCount (geN e) m.member))).mem
  | notAwaited (m c e g) : s.forGroup m = some (c, e) → s.gather? m.ctx m.page = some g → m.member ∉ g.waiting →
      ShardEvent s (.dataReceive m) fun u => u.mem = s.mem ∧ u.gathers = s.gathers ∧ leaseRenewed s u m c
  | dataHeard (m c e) : s.forGroup m = some (c, e) → s.gather? m.ctx m.page = none →
      ShardEvent s (.dataReceive m) fun u => u.mem = s.mem ∧ u.gathers = s.gathers ∧ leaseRenewed s u m c
  | deferredTold (m c e) : s.forGroup m = some (c, e) → c.frameDie ((s.shardFrame c m.page).getD 0) < s.dies.length →
      ShardEvent s (.deferredReceive m) fun u => u.mem = s.mem ∧ u.gathers = s.gathers ∧
        (u.die (c.frameDie ((s.shardFrame c m.page).getD 0))).defer = satInc (s.die (c.frameDie ((s.shardFrame c m.page).getD 0))).defer
  | askedAgain (m c e g l) : fromPeer s m c e → s.gather? m.ctx m.page = some g → m.member ∉ g.again → s.shardLeaf c m.page = some l →
      ShardEvent s (.lifeReceive m) fun u => u.mem = s.mem ∧ u.gather? m.ctx m.page = some { g with again := g.again ++ [m.member] }
        ∧ groupHas u m.ctx m.group (fun x => x.lifeKnown m.member = m.own)
        ∧ ∃ x : ShardMsg, queuedFor u m.member .gather x ∧ x.target = m.own ∧ x.page = m.page ∧ x.role = pteRole l.pte ∧ x.rfmt = pteRfmt l.pte
  | lifeTwice (m c e g) : s.forGroup m = some (c, e) → s.gather? m.ctx m.page = some g → m.member ∈ g.again → g.fail = false →
      ShardEvent s (.lifeReceive m) fun u => u.mem = s.mem ∧ u.out = s.out ∧ u.fabQ = s.fabQ ∧ u.gather? m.ctx m.page = some { g with fail := true }
  | lifeHeard (m c e) : s.forGroup m = some (c, e) → s.gather? m.ctx m.page = none →
      ShardEvent s (.lifeReceive m) fun u => u.mem = s.mem ∧ u.fabQ = s.fabQ ∧ leaseRenewed s u m c
  | lost (m c e g) : s.forGroup m = some (c, e) → s.gather? m.ctx m.page = some g → g.fail = false →
      c.frameDie ((s.shardFrame c m.page).getD 0) < s.dies.length →
      ShardEvent s (.lostReceive m) fun u => u.mem = s.mem ∧ u.gather? m.ctx m.page = some { g with fail := true } ∧
        (u.die (c.frameDie ((s.shardFrame c m.page).getD 0))).gfail = satInc (s.die (c.frameDie ((s.shardFrame c m.page).getD 0))).gfail
  | opened (m c e) : fromPeer s m c e → s.reduction? c.key m.page m.round = none →
      s.stageUsed c.key m.group + geN e * blockCount (geN e) (geSelf e) * 64 ≤ geStageSize e →
      ShardEvent s (.openReceive m) fun u => u.mem = s.mem ∧ shardSent u m c e .openok m.round []
        ∧ ∃ x, u.reduction? c.key m.page m.round = some x ∧ x.contribs = [⟨m.member, m.own, 1, []⟩] ∧ x.group = m.group
          ∧ x.reserved = geN e * blockCount (geN e) (geSelf e) * 64 ∧ x.st = .collecting
  | noRoom (m c e) : fromPeer s m c e → s.reduction? c.key m.page m.round = none →
      geStageSize e < s.stageUsed c.key m.group + geN e * blockCount (geN e) (geSelf e) * 64 →
      ShardEvent s (.openReceive m) fun u => u.mem = s.mem ∧ u.reductions = s.reductions ∧ shardSent u m c e .busy m.round []
  | joined (m c e x) : fromPeer s m c e → s.reduction? c.key m.page m.round = some x → (∀ k ∈ x.contribs, k.member ≠ m.member) →
      ShardEvent s (.openReceive m) fun u => u.mem = s.mem ∧ shardSent u m c e .openok m.round []
        ∧ u.reduction? c.key m.page m.round = some { x with contribs := x.contribs ++ [⟨m.member, m.own, 1, []⟩] }
  | openOk (m c e p k) : s.forGroup m = some (c, e) → s.partial? m.ctx m.page = some p → k ∈ p.opening → k ≠ m.member →
      ShardEvent s (.openokReceive m) fun u => u.mem = s.mem ∧ u.partial? m.ctx m.page = some { p with opening := p.opening.filter (· != m.member) }
  | allOpen (m c e p l) : s.forGroup m = some (c, e) → s.partial? m.ctx m.page = some p → p.opening = [m.member] → p.busy = [] → p.isOpen = false →
      p.delivering = none → s.shardLeaf c m.page = some l →
      ShardEvent s (.openokReceive m) fun u => u.partial? m.ctx m.page = some { p with opening := [], isOpen := true }
        ∧ u.mem = (s.viewWrite l.loc (natLe 8 (ptePoint l.pte 4 p.partFrame).toNat)).mem
  | busy (m c e p) : s.forGroup m = some (c, e) → s.partial? m.ctx m.page = some p → m.member ∈ p.opening →
      ShardEvent s (.busyReceive m) fun u => u.mem = s.mem ∧ u.partial? m.ctx m.page =
        some { p with opening := p.opening.filter (· != m.member), busy := p.busy ++ [(m.member, (s.die p.die).cycle)] }
  | resent (p c e k t0) : s.partial? c.key p.page = some p → s.ctx? c.key = some c → (k, t0) ∈ p.busy → t0 + 1024 ≤ (s.die p.die).cycle →
      s.liveEntry c p.group = some e → k < geN e → k ≠ geSelf e → s.livePorts ≠ [] →
      ShardEvent s (.busyResend c.key p.page k) fun u => u.mem = s.mem
        ∧ u.partial? c.key p.page = some { p with opening := p.opening ++ [k], busy := p.busy.filter fun b => b.1 != k }
        ∧ ∃ x : ShardMsg, queuedFor u k .opn x ∧ x.page = p.page ∧ x.round = p.round ∧ x.member = geSelf e
  | resendEarly (key page k p) : s.partial? key page = some p → (∀ b ∈ p.busy, b.1 = k → (s.die p.die).cycle < b.2 + 1024) →
      ShardEvent s (.busyResend key page k) fun u => u = s
  | delivered (m c e x) : fromPeer s m c e → s.reduction? m.ctx m.page m.round = some x →
      (∀ k ∈ x.contribs, k.member = m.member → k.life = m.own) → (c.group m.group).allClosed e m.round = false →
      ShardEvent s (.deliverReceive m) fun u => u.mem = s.mem ∧ shardSent u m c e .delack m.round []
        ∧ u.reduction? m.ctx m.page m.round = some { x with contribs := x.contribs.map fun k =>
            if k.member = m.member then { k with staged := k.staged ++ [m.data] } else k }
  | deliveredOld (m c e x) : fromPeer s m c e → s.reduction? m.ctx m.page m.round = some x →
      (∃ k ∈ x.contribs, k.member = m.member ∧ k.life ≠ m.own) → (c.group m.group).allClosed e m.round = false →
      ShardEvent s (.deliverReceive m) fun u => u.mem = s.mem ∧ shardSent u m c e .delack m.round []
        ∧ { x with contribs := [], reserved := 0, st := .done true } ∈ u.reductions
  | delack (m c e p ds k) : s.forGroup m = some (c, e) → s.partial? m.ctx m.page = some p → p.delivering = some ds → p.isOpen = false → k ∈ ds →
      k ≠ m.member → ShardEvent s (.delackReceive m) fun u => u.mem = s.mem
        ∧ u.partial? m.ctx m.page = some { p with delivering := some (ds.filter (· != m.member)) }
  | lastDelack (m c e p) : s.forGroup m = some (c, e) → s.partial? m.ctx m.page = some p → p.delivering = some [m.member] → p.isOpen = false →
      ShardEvent s (.delackReceive m) fun u => u.mem = s.mem ∧ u.partial? m.ctx m.page = none ∧ (∀ x ∈ u.frames, ¬(x.ctx = m.ctx ∧ x.f = p.partFrame))
  | closed (m c e k) : s.forGroup m = some (c, e) → k < geN e → k ≠ m.member → k ∉ (c.group m.group).dead →
      (k, m.round) ∉ (c.group m.group).closes →
      ShardEvent s (.closeReceive m) fun u => u.mem = s.mem ∧ groupHas u m.ctx m.group fun x => (m.member, m.round) ∈ x.closes
  | roundOver (m c e) : fromPeer s m c e → lastClose m c e → ofRound s m = [] →
      ShardEvent s (.closeReceive m) fun u => u.mem = s.mem ∧ roundEnds u m e false
  | adds (m c e x) : s.forGroup m = some (c, e) → lastClose m c e → ofRound s m = [x] → x.st = .collecting →
      (∀ k ∈ x.contribs, k.staged.length = k.opened ∧ (k.member = m.member → k.life = m.own)) →
      ShardEvent s (.closeReceive m) fun u => u.mem = s.mem ∧ u.fabQ = s.fabQ ∧ ofRound u m = [{ x with st := .adding }]
  | roundLost (m c e x) : fromPeer s m c e → lastClose m c e → ofRound s m = [x] → x.st = .collecting →
      (∃ k ∈ x.contribs, k.member = m.member ∧ k.life ≠ m.own) →
      ShardEvent s (.closeReceive m) fun u => u.mem = s.mem ∧ roundEnds u m e true ∧ ofRound u m = []
  | done (m c e) : s.forGroup m = some (c, e) →
      ShardEvent s (.doneReceive m) fun u => u.mem = s.mem ∧ groupHas u m.ctx m.group fun x => (m.member, m.round, m.lost) ∈ x.dones
  | renewed (c g e) : s.ctx? c.key = some c → s.liveEntry c g = some e → s.livePorts ≠ [] →
      ShardEvent s (.renewSend c.key g) fun u => u.mem = s.mem ∧ groupHas u c.key g (fun x => x.renewed = (s.die c.lowDie).cycle)
        ∧ ∀ k, k < geN e → k ≠ geSelf e → ∃ x : ShardMsg, queuedFor u k .renew x ∧ x.group = g ∧ x.member = geSelf e
  | renewHeard (m c e) : s.forGroup m = some (c, e) →
      ShardEvent s (.renewReceive m) fun u => u.mem = s.mem ∧ leaseRenewed s u m c
  | dead (c g e k t0) : s.ctx? c.key = some c → s.liveEntry c g = some e → k < geN e → k ≠ geSelf e →
      (c.group g).heard.find? (fun h => h.1 == k) = some (k, t0) → t0 + 2 ^ geLease e ≤ (s.die c.lowDie).cycle →
      ShardEvent s (.memberDead c.key g k) fun u => groupHas u c.key g fun x => k ∈ x.dead
  | noPort (c g e k) : s.ctx? c.key = some c → s.liveEntry c g = some e → k < geN e → k ≠ geSelf e → s.livePorts = [] →
      ShardEvent s (.memberDead c.key g k) fun u => groupHas u c.key g fun x => k ∈ x.dead
  | alive (c g e k t0) : s.ctx? c.key = some c → s.liveEntry c g = some e → (c.group g).heard.find? (fun h => h.1 == k) = some (k, t0) →
      (s.die c.lowDie).cycle < t0 + 2 ^ geLease e → s.livePorts ≠ [] → ShardEvent s (.memberDead c.key g k) fun u => u = s

/-- A copy that stands where its id says (R413). -/
def theCopy (s : State) (x : Copy) : Prop := s.copies.find? (fun y => y.id == x.id) = some x

/-- The offset of the first element of a one-dimensional copy (R413). -/
def firstElement (x : Copy) (l : Layout) : DWord := (x.coords.getD 0 0).signExtend 64 * BitVec.ofNat 64 (2 ^ l.esize)

/-- The 32 bytes of a completion record (R416). -/
def completionBytes (x : Copy) (seq : Nat) : List Byte :=
  natLe 8 seq ++ natLe 8 x.size ++ [x.status, x.fault, BitVec.ofNat 8 (x.ctl.toNat % 64), BitVec.ofNat 8 (x.ctl.toNat / 256 % 256)]
    ++ natLe 4 x.lvlk.toNat ++ List.replicate 8 0

/-- A copy whose engine may start it, with its layout record's bytes (R240, R388, R413). -/
def copyDue (s : State) (x : Copy) (c : Ctx) (w : Workgroup) (b : List Byte) : Prop :=
  s.copies.find? (fun y => y.id == x.id && y.stage == .waiting) = some x ∧ s.ctx? x.ctx = some c ∧ s.wg? x.wg = some w ∧ s.copyReady x = true
    ∧ s.readVa c x.die .read 2 x.layout 64 = .bytes b

/-- A copy of one element from memory, whose bytes are read. -/
def oneElement (s : State) (x : Copy) (c : Ctx) (l : Layout) (d : List Byte) : Prop :=
  l.srcPad = false ∧ l.dims = 1 ∧ l.count = 1 ∧ s.readVa c x.die .read 2 (l.src + firstElement x l) (2 ^ l.esize) = .bytes d

/-- A peer that a transaction can reach (R42, R43). -/
def reachable (s : State) (c : Ctx) (e : Nat) (p : PeerEntry) : Prop :=
  c.peers.find? (fun q => q.e == e) = some p ∧ p.pod ≠ s.boot.pod.toNat ∧ s.livePorts ≠ []

/-- A matrix operation at the head of its quarter, of the open batch, with no error. -/
def nextOp (s : State) (p : Nat) (o : MatOp) (t : Troupe) : Prop :=
  p < s.pipes.length ∧ (∃ rest, (s.pipe p).ops = o :: rest) ∧ s.troupe? o.wg o.trix = some t ∧ o.batch = none ∧ t.openBatch.err = none
    ∧ ∀ j, j < 64 → t.mapped (o.acc + j) = true

/-- What an accumulator's lane may read as: its value and, where an earlier write has no `mrdy` after it, the values before (R436). -/
def mayRead (o : MatOp) (t : Troupe) (n r : Nat) : List Word :=
  lane (t.vval n) r :: (o.was.filter fun x => x.1 == n).map fun x => lane x.2 r

/-- The accumulators of an operation, one cell at a time; the rows of other lanes keep theirs (R431, R432). -/
def accumulates (s u : State) (p : Nat) (o : MatOp) (t : Troupe) (cell : Nat → Nat → Word → Word) : Prop :=
  u.mem = s.mem ∧ (∀ x ∈ (u.pipe p).ops, x.id ≠ o.id) ∧ ∃ t', u.troupe? o.wg o.trix = some t' ∧ t'.pc = t.pc ∧ t'.sregs = t.sregs
    ∧ t'.openBatch.left = t.openBatch.left - 1 ∧ t'.openBatch.err = none ∧ (∀ n, n < o.acc ∨ o.acc + 64 ≤ n → t'.vreg? n = t.vreg? n)
    ∧ ∀ j r, j < 64 → r < 96 →
        if o.lanes.getLsbD r then ∃ v ∈ mayRead o t (o.acc + j) r, lane (t'.vval (o.acc + j)) r = cell r j v
        else lane (t'.vval (o.acc + j)) r = lane (t.vval (o.acc + j)) r

/-- Copies (R413 to R421), counters, the matrix quarter and the weight buffer (R429 to R437), start-up and resets (R50 to R61). -/
inductive UnitEvent (s : State) : Instr → (State → Prop) → Prop
  | badLayout (x c w b) : copyDue s x c w b → (layoutOf b).ok b = false →
      UnitEvent s (.copyEngineStart x.id) fun u => u.mem = s.mem ∧ { x with stage := .signalled, status := 2, fault := 2 } ∈ u.copies
  | notReady (x c w) : s.copies.find? (fun y => y.id == x.id && y.stage == .waiting) = some x → s.ctx? x.ctx = some c → s.wg? x.wg = some w →
      s.copyReady x = false → UnitEvent s (.copyEngineStart x.id) fun u => u = s
  | noEthernet (x c w b) : copyDue s x c w b → (layoutOf b).ok b = true → (layoutOf b).kind = 4 → s.liveEth = [] →
      UnitEvent s (.copyEngineStart x.id) fun u => u = s
  | movesFar (x c w b l d p) : copyDue s x c w b → layoutOf b = l → l.ok b = true → l.kind = 2 → oneElement s x c l d → d.length = 2 ^ l.esize →
      reachable s c l.peer p → (l.dst + firstElement x l).toNat < 2 ^ 40 →
      s.peerFault c (peerLoc l.peer (l.dst + firstElement x l).toNat) (2 ^ l.esize) = none →
      UnitEvent s (.copyEngineStart x.id) fun u => u.mem = s.mem
        ∧ (∃ q ∈ u.fabQ, q.load = .data (peerLoc l.peer (l.dst + firstElement x l).toNat) d ∧ q.pod = p.pod ∧ q.copy = some x.id)
        ∧ ∃ y ∈ u.copies, y.id = x.id ∧ y.stage = .moved ∧ y.size = 2 ^ l.esize ∧ y.due = some ((s.die x.die).cycle + 2 ^ s.timeoutK)
  | moves (x c w b l d s1) : copyDue s x c w b → layoutOf b = l → l.ok b = true → l.kind = 0 → oneElement s x c l d → d.length = 2 ^ l.esize →
      (∀ k, k < 2 ^ l.esize → 2 ^ l.esize ≤ (l.dst + BitVec.ofNat 64 k - l.src).toNat) →
      s.writeVa c x.die (l.dst + firstElement x l) d = .done s1 →
      UnitEvent s (.copyEngineStart x.id) fun u => u.mem = s1.mem ∧ ∃ y ∈ u.copies, y.id = x.id ∧ y.stage = .moved ∧ y.size = 2 ^ l.esize ∧ y.status = 0
        ∧ y.sig = l.sig ∧ y.sigidx = l.sigidx ∧ y.ctl = x.ctl ∧ y.due = none
  | stillQueued (x c) : theCopy s x → x.stage = .moved ∨ x.stage = .signalled → s.ctx? x.ctx = some c → s.copyQueued x.id = true →
      UnitEvent s (.copyComplete x.id) fun u => u = s
  | noSignal (x c) : theCopy s x → x.stage = .moved → s.ctx? x.ctx = some c → x.sig = 0 → s.copyQueued x.id = false →
      UnitEvent s (.copyComplete x.id) fun u => u.mem = s.mem ∧ u.signals = s.signals ∧ { x with stage := .signalled, status := 0, fault := 0 } ∈ u.copies
  | peerSignal (x c p) : theCopy s x → x.stage = .moved → s.ctx? x.ctx = some c → x.sig = 2 → x.kind = 2 ∨ x.kind = 3 → s.copyQueued x.id = false →
      reachable s c x.peer p →
      UnitEvent s (.copyComplete x.id) fun u => u.mem = s.mem ∧ { x with stage := .signalled, status := 0, fault := 0 } ∈ u.copies
        ∧ ∃ q ∈ u.fabQ, q.load = .note (.count p.pod p.part p.ctx x.sigidx) ∧ q.pod = p.pod ∧ q.copy = some x.id
  | counterSignal (x c) : theCopy s x → x.stage = .moved → s.ctx? x.ctx = some c → x.sig = 2 → x.kind < 2 → s.copyQueued x.id = false →
      UnitEvent s (.copyComplete x.id) fun u => u.mem = s.mem ∧ u.signals = s.signals ++ [(x.ctx, x.sigidx)]
        ∧ { x with stage := .signalled, status := 0, fault := 0 } ∈ u.copies
  | completes (x c w) : theCopy s x → x.stage = .signalled → s.ctx? x.ctx = some c → s.copyQueued x.id = false → x.sig ≠ 2 → x.ctl.getLsbD 6 = false → s.wg? x.wg = some w →
      w.status = .running → x.ctl.toNat % 64 < w.tags.length →
      UnitEvent s (.copyComplete x.id) fun u => u.mem = s.mem ∧ (∀ y ∈ u.copies, y.id ≠ x.id) ∧ ∃ w', u.wg? x.wg = some w'
        ∧ w'.failed = (w.failed || x.status == 1 || x.status == 2 || x.status == 4 || x.status == 5)
        ∧ let g := w.tag (x.ctl.toNat % 64)
          w'.tag (x.ctl.toNat % 64) = { g with
            count := g.count - 1, done := g.done || g.count - 1 == 0
            stat := if g.stat = 0 then x.status else g.stat, fault := if g.stat = 0 then x.fault else g.fault }
  | recorded (x c s1) : theCopy s x → x.stage = .signalled → s.ctx? x.ctx = some c → s.copyQueued x.id = false → x.sig ≠ 2 → x.ctl.getLsbD 6 = true → c.comp.getLsbD 0 = true →
      s.writeVa c c.lowDie (BitVec.ofNat 64 ((c.comp.extractLsb' 12 36).toNat * 4096 + 32 * (c.seq % 2 ^ (7 + (c.comp.extractLsb' 8 4).toNat))))
        (completionBytes x c.seq) = .done s1 →
      UnitEvent s (.copyComplete x.id) fun u => u.mem = s1.mem ∧ (∀ y ∈ u.copies, y.id ≠ x.id) ∧ ∃ c', u.ctx? x.ctx = some c' ∧ c'.seq = c.seq + 1
  | counted (key i c) : s.ctx? key = some c → i < 256 →
      UnitEvent s (.receiveCounterSignal key i) fun u => u.mem = s.mem ∧ u.signals = s.signals.erase (key, i)
        ∧ (∃ c', u.ctx? key = some c' ∧ c'.counter i = c.counter i + 1 ∧ ∀ j, j ≠ i → c'.counter j = c.counter j)
        ∧ ∀ x ∈ s.copies, ∀ thr, x.stage = .armed thr → x.ctx = key → x.counter = i →
          if (c.counter i + 1 - thr).toNat < 2 ^ 31 then { x with stage := .waiting } ∈ u.copies else x ∈ u.copies
  | clears (p o t) : nextOp s p o t → o.kind = .mclr → UnitEvent s (.matrixOpPerform p) fun u => accumulates s u p o t fun _ _ _ => 0
  | scales (p o t band) : nextOp s p o t → o.kind = .mbscale band →
      UnitEvent s (.matrixOpPerform p) fun u => accumulates s u p o t fun r _ c =>
        f32word (fp32.round .rne ((f32of c).mul (bf16.value (if r < 64 then band.extractLsb' 0 16 else band.extractLsb' 16 16).toNat)))
  | multiplies (p o t fmt sp slot tile band a issuer i w x) : nextOp s p o t → o.kind = .mma fmt sp slot tile band a none issuer [] [] →
      s.troupe? o.wg issuer = some i → s.wg? o.wg = some w → (∀ y ∈ s.fills, y.pipe ≠ i.pipe) →
      (s.pipe i.pipe).slots.find? (fun x => x.1 == slot && x.2.ctx == w.ctx && x.2.addr == tile && x.2.fmt == fmt && x.2.sp == sp) = some x →
      x.2.damaged = false →
      UnitEvent s (.matrixOpPerform p) fun u => accumulates s u p o t fun r j c =>
        mmaCell (mKs fmt sp) (effA (a.map fun n => lane (t.vval n) r) fmt sp band r) (fun k => effB x.2.image fmt sp k j) c
  | tileDamaged (p o t fmt sp slot tile band a pad issuer un up i w x) : nextOp s p o t → o.kind = .mma fmt sp slot tile band a pad issuer un up →
      s.troupe? o.wg issuer = some i → s.wg? o.wg = some w → (∀ y ∈ s.fills, y.pipe ≠ i.pipe) →
      (s.pipe i.pipe).slots.find? (fun x => x.1 == slot && x.2.ctx == w.ctx && x.2.addr == tile && x.2.fmt == fmt && x.2.sp == sp) = some x →
      x.2.damaged = true →
      UnitEvent s (.matrixOpPerform p) fun u => u.mem = s.mem ∧ ∃ t', u.troupe? o.wg o.trix = some t' ∧ t'.regs = t.regs
        ∧ t'.openBatch.err = some (0x10, o.index) ∧ t'.openBatch.taddr = BitVec.ofNat 64 slot ∧ t'.openBatch.left = t.openBatch.left - 1
  | noOp (p) : (s.pipe p).ops = [] → UnitEvent s (.matrixOpPerform p) fun u => u = s
  | filled (x q c img) : s.fills.find? (fun y => y.id == x.id) = some x → s.split? x.split = some q → (∀ p ∈ s.pipes, p.ops = []) →
      (∀ y ∈ s.fills, y.pipe = x.pipe → x.id ≤ y.id) → (∀ r ∈ s.reqs, r.wg ≠ q.wg) → s.ctx? x.ctx = some c →
      s.readVa c (x.pipe / 32) .read 4 x.addr (tileBytes x.fmt x.sp) = .bytes img → x.pipe < s.pipes.length → q.left ≤ 1 →
      UnitEvent s (.tileFillComplete x.id) fun u => u.mem = s.mem ∧ (∀ y ∈ u.fills, y.id ≠ x.id) ∧ u.split? q.id = none
        ∧ metered s u q.wg (tileBytes x.fmt x.sp)
        ∧ (x.slot, ⟨x.ctx, x.addr, x.fmt, x.sp, tileSlots x.fmt x.sp, img, false⟩) ∈ (u.pipe x.pipe).slots
        ∧ ∀ t k, s.troupe? q.wg q.trix = some t → q.ac = some k → ∃ t', u.troupe? q.wg q.trix = some t' ∧ t'.acs = t.acs.modify k (· - 1) ∧ t'.regs = t.regs
  | powered : s.boot.up = true → UnitEvent s .powerOn fun u => u = s
  | starts : s.boot.up = false → UnitEvent s .powerOn fun u => u.boot.start = s.boot.start + 1 ∧ u.mem = s.mem.filter (fun x => locKind x.1 != 0)
      ∧ u.wgs = [] ∧ u.troupes = [] ∧ u.jobs = [] ∧ u.ctxs = [] ∧ ∀ k, k < 64 → (u.router k).life = 0
  | moduleResets : UnitEvent s .moduleReset fun u => u.boot.start = s.boot.start + 1 ∧ u.mem = s.mem.filter (fun x => locKind x.1 != 0)
      ∧ u.wgs = [] ∧ u.troupes = [] ∧ u.jobs = [] ∧ u.ctxs = [] ∧ ∀ k, k < 64 → (u.router k).life = (s.router k).life + 1
  | dieResets (d) : s.boot.up = true → d < 32 → d < s.routers.length → d < s.dies.length → (s.router d).fenced = false → (s.router d).inReset = false →
      UnitEvent s (.dieReset d) fun u => (u.router d).life = (s.router d).life + 1 ∧ (u.router d).inReset = true ∧ (u.die d).dph = 0
        ∧ (∀ x ∈ u.mem, ¬(locKind x.1 = 0 ∧ locDie x.1 = d)) ∧ (∀ w ∈ u.wgs, w.die ≠ d) ∧ ∀ l ∈ u.lines, l.die ≠ d
  | noDie (d) : s.boot.up = false ∨ 32 ≤ d → UnitEvent s (.dieReset d) fun u => u = s
  | told (d) : d < 64 → UnitEvent s (.resetBroadcast d) fun u => (∀ r ∈ u.routers, (d, s.lifeOf d) ∈ r.known) ∧ (d < 32 → (u.die d).resetting = false)
  | powerLost (mid) : UnitEvent s (.powerLoss mid) fun u => u.boot.up = false ∧ u.mem = s.mem.filter (fun x => locKind x.1 != 0) ∧ u.wgs = []
      ∧ u.troupes = [] ∧ u.ctxs = [] ∧ u.boot.images = s.boot.images ∧ (mid = false → u.boot.journal = s.boot.journal)
      ∧ (mid = true → ∃ e, e.torn.isSome = true ∧ u.boot.journal =
          (if s.boot.seq % 4096 = 0 then s.boot.journal.filter (fun y => s.boot.seq ≤ y.seq + 4096) else s.boot.journal) ++ [e])
  | xDie (x) : x < 4 → 48 + x < s.routers.length → UnitEvent s (.xDieReset x) fun u => u.mem = s.mem ∧ (u.router (48 + x)).life = (s.router (48 + x)).life + 1
      ∧ (x = 0 → u.boot.measured = []) ∧ (x ≠ 0 → u.boot = s.boot)
  | noXDie (x) : 4 ≤ x → UnitEvent s (.xDieReset x) fun u => u = s

/-- A saturating count of 32 bits. -/
def sat32 (n : Word) : Word := if n = 0xFFFFFFFF then n else n + 1

/-- The page of a context with its leaf, in the sharded family. -/
def shardPage (s : State) (key page : Nat) (c : Ctx) (l : LeafAt) : Prop := s.ctx? key = some c ∧ s.shardLeaf c page = some l

/-- What units of the package do between the instructions of the opcode table: a packet crosses a link (R32, R33), rails switch (R11), the
link core's timeout (R44), ports come back, a corrected flit is counted (R40), a port sends (R43), copies to peers are given up and late
answers counted (R44), a host reads a register (R47, R71), a record is added to its blocks (R195), the memory core evicts pages
(R193, R202), the deputy forgets a job (R69), a remote client writes a packet (R78). -/
inductive TurnEvent (s : State) : UnitTurn → (State → Prop) → Prop
  | crosses (p n) : s.packet? p.id = some p → p.atHead = true → p.place ≠ p.goal → s.nextHop p = some (n, false) → s.bufferTakes p n false = true →
      TurnEvent s (.hop p.id) fun u => u.mem = s.mem ∧ ∃ q ∈ u.packets, q.id = p.id ∧ q.place = n ∧ q.port = p.place ∧ q.seq = p.seq ∧ q.load = p.load
        ∧ q.escape = p.escape ∧ q.tree = p.tree
  | blocked (p n tree) : s.packet? p.id = some p → p.atHead = true → p.place ≠ p.goal → s.nextHop p = some (n, tree) → s.bufferTakes p n tree = false →
      TurnEvent s (.hop p.id) fun u => u = s
  | notAtHead (p) : s.packet? p.id = some p → p.atHead = false → TurnEvent s (.hop p.id) fun u => u = s
  | railOff (d) : d < 32 → d < s.routers.length → d < s.dies.length → (s.router d).inReset = false →
      TurnEvent s (.rail d false) fun u => (u.router d).powered = false ∧ (u.router d).inReset = true ∧ (u.router d).life = (s.router d).life + 1
        ∧ (∀ x ∈ u.mem, ¬(locKind x.1 = 0 ∧ locDie x.1 = d)) ∧ (∀ w ∈ u.wgs, w.die ≠ d) ∧ ∀ l ∈ u.lines, l.die ≠ d
  | otherRailOff (k) : 32 ≤ k → k < 64 → k < s.routers.length →
      TurnEvent s (.rail k false) fun u => u.mem = s.mem ∧ (u.router k).powered = false ∧ ∀ j, j ≠ k → u.router j = s.router j
  | railOn (k) : k < 64 → k < s.routers.length →
      TurnEvent s (.rail k true) fun u => u.mem = s.mem ∧ u.router k = { s.router k with powered := true } ∧ ∀ j, j ≠ k → u.router j = s.router j
  | timeoutSet (k) : 16 ≤ k → k ≤ 30 → TurnEvent s (.timeout k) fun u => u = { s with timeoutK := k }
  | timeoutKept (k) : k < 16 ∨ 30 < k → TurnEvent s (.timeout k) fun u => u = s
  | ethernetUp (p) : TurnEvent s (.ethUp p) fun u => u.mem = s.mem ∧ ∀ q, q ∈ u.ethDown ↔ q ∈ s.ethDown ∧ q ≠ p
  | fabricUp (p) : TurnEvent s (.fabricUp p) fun u => u.mem = s.mem ∧ ∀ q, q ∈ u.fabricDown ↔ q ∈ s.fabricDown ∧ q ≠ p
  | corrected (p n) : s.flitErrs[p]? = some n → TurnEvent s (.flitError p) fun u => u.mem = s.mem ∧ u.flitErrs[p]? = some (sat32 n)
  | noteTaken (m o) : s.fabQ.find? (fun q => q.port == m.port) = some m → m.seq = (s.fabSeq m.pod).expect → m.load = .note o →
      TurnEvent s (.fabricSend m.port) fun u => u.mem = s.mem ∧ u.out = s.out ++ [o] ∧ m ∉ u.fabQ ∧ (u.fabSeq m.pod).expect = m.seq + 1
  | dataTaken (m loc b) : s.fabQ.find? (fun q => q.port == m.port) = some m → m.seq = (s.fabSeq m.pod).expect → m.load = .data loc b →
      TurnEvent s (.fabricSend m.port) fun u => u.mem = cellsSet s.mem loc b ∧ m ∉ u.fabQ ∧ (u.fabSeq m.pod).expect = m.seq + 1
  | outOfTurn (m) : s.fabQ.find? (fun q => q.port == m.port) = some m → m.seq ≠ (s.fabSeq m.pod).expect → TurnEvent s (.fabricSend m.port) fun u => u = s
  | copyGivenUp (x d) : theCopy s x → x.stage = .moved → x.due = some d → d ≤ (s.die x.die).cycle → s.copyQueued x.id = true →
      TurnEvent s (.copyTimeout x.id) fun u => u.mem = s.mem ∧ { x with stage := .signalled, status := 1, fault := 0x11, due := none } ∈ u.copies
        ∧ u.copyQueued x.id = false ∧ u.lates = s.lates ++ [x.die]
  | copyInTime (x d) : theCopy s x → x.due = some d → (s.die x.die).cycle < d → TurnEvent s (.copyTimeout x.id) fun u => u = s
  | late (d) : d ∈ s.lates → d < s.routers.length →
      TurnEvent s (.lateAnswer d) fun u => u.mem = s.mem ∧ u.lates = s.lates.erase d ∧ (u.router d).stale = sat32 (s.router d).stale
  | noneLate (d) : d ∉ s.lates → TurnEvent s (.lateAnswer d) fun u => u = s
  | hostReads (k p ofs n) : s.part k = some p →
      TurnEvent s (.hostReg k ofs n) fun u => u.mem = s.mem ∧ ∃ b, u.out = s.out ++ [.hostRead k b] ∧ b.length = n
        ∧ ∀ i, i < n → b[i]? = some (match p.regAt ((ofs + i) / 8 * 8) with
            | some v => v.extractLsb' (8 * ((ofs + i) % 8)) 8
            | none => 0xFF)
  | added (key page c e x f l) : shardPage s key page c l → s.addingTo key page = some x → s.liveEntry c x.group = some e → s.gather? key page = none →
      s.shardFrame c page = some f →
      TurnEvent s (.addition key page x.round) fun u =>
        u.mem = (s.viewWrite (c.frameLoc f + 64 * firstBlock (geN e) (geSelf e)) ((contributions (geN e) x).foldl (addBlocks (pteRfmt l.pte))
          (s.view (c.frameLoc f + 64 * firstBlock (geN e) (geSelf e)) (64 * blockCount (geN e) (geSelf e))))).mem
  | evicted (key page c l) : shardPage s key page c l → pteShare l.pte = 3 → s.partial? key page = none →
      TurnEvent s (.evictPage key page) fun u => u.mem = (s.viewWrite l.loc (natLe 8 (ptePoint l.pte 2 (ptePfn l.pte)).toNat)).mem
        ∧ ∀ d ∈ c.dies, ∃ i ∈ u.invals, i.die = d ∧ i.ctx = c.key ∧ i.page = page
  | early (key page c l p) : shardPage s key page c l → s.partial? key page = some p → p.isOpen = true → p.delivering = none → p.die < s.dies.length →
      p.ctx = key → p.page = page →
      TurnEvent s (.early key page) fun u => (u.die p.die).early = satInc (s.die p.die).early
        ∧ ∀ q, u.partial? key page = some q → q.delivering.isSome = true
  | forgotten (id) : TurnEvent s (.release id) fun u => u.mem = s.mem ∧ ∀ j ∈ u.jobs, ¬(j.id = id ∧ j.deputy = .releasing)
  | packetWritten (k q c dev slot b s1) : s.queueOwner k q = some (c, dev) → q < 64 → s.liveEth ≠ [] → b.length = 128 →
      s.writeVa c (c.lead dev) ((s.queue k q).base + BitVec.ofNat 64 (128 * (slot % 2 ^ (s.queue k q).log2))) b = .done s1 →
      TurnEvent s (.netWrite k q slot b) fun u => u = s1
  | noPortUp (k q slot b) : s.liveEth = [] → TurnEvent s (.netWrite k q slot b) fun u => u = s

end Sys2Proof.Claims

/-- Shard pages: what every message of the group does at the member that receives it, and what it answers. -/
def Obligations.ShardEvents : Prop := ∀ s i post, ShardEvent s i post → Happens i s post

/-- Copies move, signal and complete; counters count; the matrix quarter performs its operations and fills its tiles; dies, the module
and the package restart; and the units of the package that no row of the opcode table names take their turns. A reset of a die in two
events, what outlasts a reset, the order of a copy's elements, the spreading over ports and the delivery of a peer's copy data are the
model's choices: log entries 34, 35, 54, 83 and 87. -/
def Obligations.UnitEvents : Prop :=
  (∀ s i post, UnitEvent s i post → Happens i s post) ∧ ∀ s t post, TurnEvent s t post → post (s.unitTurn t)
end

