-- ==== Sys2Proof/Laws/Bits.lean ====
section
/-! SUPPORT. The bits of masks and the lanes of vector registers, said once. -/

namespace Sys2Proof.Machine

theorem maskNat_lt (f : Nat → Bool) (n : Nat) : maskNat f n < 2 ^ n := by
  induction n with
  | zero => simp [maskNat]
  | succ n ih => rw [maskNat, Nat.pow_succ]; split <;> omega

theorem maskNat_testBit (f : Nat → Bool) {n l : Nat} (h : l < n) : (maskNat f n).testBit l = f l := by
  induction n with
  | zero => omega
  | succ n ih =>
    have hlt := maskNat_lt f n
    rw [maskNat]
    by_cases hn : f n = true
    · rw [if_pos hn, Nat.add_comm]
      rcases Nat.lt_or_eq_of_le (Nat.le_of_lt_succ h) with hl | rfl
      · rw [Nat.testBit_two_pow_add_gt hl, ih hl]
      · rw [Nat.testBit_two_pow_add_eq, Nat.testBit_lt_two_pow hlt, hn]; rfl
    · rw [if_neg hn, Nat.add_zero]
      rcases Nat.lt_or_eq_of_le (Nat.le_of_lt_succ h) with hl | rfl
      · exact ih hl
      · rw [Nat.testBit_lt_two_pow hlt]; simpa using hn

/-- Bit l of a mask that a test gives. -/
theorem maskOf_bit (f : Nat → Bool) {l : Nat} (h : l < 96) : (maskOf f).getLsbD l = f l := by
  rw [maskOf, BitVec.getLsbD, BitVec.toNat_ofNat, Nat.testBit_mod_two_pow]
  simp [h, maskNat_testBit f h]

theorem bits_merge (x v m : Mask) (l : Nat) :
    ((x &&& ~~~m) ||| (v &&& m)).getLsbD l = if m.getLsbD l then v.getLsbD l else x.getLsbD l := by
  rw [BitVec.getLsbD_or, BitVec.getLsbD_and, BitVec.getLsbD_and, BitVec.getLsbD_not]
  by_cases hl : l < 96
  · cases m.getLsbD l <;> simp [hl]
  · simp [BitVec.getLsbD_of_ge _ l (by omega : 96 ≤ l)]

/-- Lane l of a register that a function gives. -/
@[simp] theorem lane_lanesOf (f : Nat → Word) {l : Nat} (h : l < 96) : lane (lanesOf f) l = f l := by
  simp [lane, lanesOf, h]

theorem lane_mergeLanes (m : Mask) (old new : Lanes) {l : Nat} (h : l < 96) :
    lane (mergeLanes m old new) l = if m.getLsbD l then lane new l else lane old l := by
  rw [mergeLanes, lane_lanesOf _ h]

theorem mem_lanesIn {m : Mask} {l : Nat} : l ∈ lanesIn m ↔ l < 96 ∧ m.getLsbD l = true := by
  simp [lanesIn]

theorem lowest_none {m : Mask} (h : lowest m = none) : ∀ l, l < 96 → m.getLsbD l = false := by
  intro l hl
  have := List.find?_eq_none.mp h l (by simp [hl])
  simpa using this

theorem lowest_some {m : Mask} {l : Nat} (h : lowest m = some l) :
    l < 96 ∧ m.getLsbD l = true ∧ ∀ k, k < l → m.getLsbD k = false := by
  obtain ⟨h1, as, bs, h2, h3⟩ := List.find?_eq_some_iff_append.mp h
  have hl : l < 96 := by
    have : l ∈ List.range 96 := h2 ▸ by simp
    simpa using this
  refine ⟨hl, h1, fun k hk => ?_⟩
  have hlen : as.length = l := by
    have h4 : (List.range 96)[as.length]? = some l := by rw [h2]; simp
    rw [List.getElem?_range] at h4
    · simpa using h4
    · have := congrArg List.length h2; simp at this; omega
  have h5 : as[k]? = some k := by
    have : (List.range 96)[k]? = some k := List.getElem?_range (by omega)
    rw [h2, List.getElem?_append_left (by omega)] at this
    exact this
  simpa using h3 k (List.mem_of_getElem? h5)

/-- A register is determined by its 96 lanes. -/
theorem lanesOf_congr {f g : Nat → Word} (h : ∀ l, l < 96 → f l = g l) : lanesOf f = lanesOf g := by
  unfold lanesOf
  exact List.map_congr_left fun l hl => h l (by simpa using hl)

end Sys2Proof.Machine
end

