-- ==== Sys2Proof/Laws/Dispatch.lean ====
section
/-! SUPPORT. The meaning that `exec` calls for each constructor, by definition: a proof rewrites with the lemma of its instruction and
never unfolds the dispatch. -/

namespace Sys2Proof.Machine

@[simp] theorem exec_sadd (f s) : exec (.sadd f) s = execSadd f s := rfl
@[simp] theorem exec_ssub (f s) : exec (.ssub f) s = execSsub f s := rfl
@[simp] theorem exec_smul (f s) : exec (.smul f) s = execSmul f s := rfl
@[simp] theorem exec_smulh (u f s) : exec (.smulh u f) s = execSmulh u f s := rfl
@[simp] theorem exec_sdiv (u f s) : exec (.sdiv u f) s = execSdiv u f s := rfl
@[simp] theorem exec_srem (u f s) : exec (.srem u f) s = execSrem u f s := rfl
@[simp] theorem exec_sand (f s) : exec (.sand f) s = execSand f s := rfl
@[simp] theorem exec_sor (f s) : exec (.sor f) s = execSor f s := rfl
@[simp] theorem exec_sxor (f s) : exec (.sxor f) s = execSxor f s := rfl
@[simp] theorem exec_sshl (f s) : exec (.sshl f) s = execSshl f s := rfl
@[simp] theorem exec_sshr (f s) : exec (.sshr f) s = execSshr f s := rfl
@[simp] theorem exec_ssra (f s) : exec (.ssra f) s = execSsra f s := rfl
@[simp] theorem exec_smin (u f s) : exec (.smin u f) s = execSmin u f s := rfl
@[simp] theorem exec_smax (u f s) : exec (.smax u f) s = execSmax u f s := rfl
@[simp] theorem exec_scmp (f s) : exec (.scmp f) s = execScmp f s := rfl
@[simp] theorem exec_ssel (f s) : exec (.ssel f) s = execSsel f s := rfl
@[simp] theorem exec_smov (f s) : exec (.smov f) s = execSmov f s := rfl
@[simp] theorem exec_smovh (f s) : exec (.smovh f) s = execSmovh f s := rfl
@[simp] theorem exec_sld (f s) : exec (.sld f) s = execSld f s := rfl
@[simp] theorem exec_sst (f s) : exec (.sst f) s = execSst f s := rfl
@[simp] theorem exec_br (f s) : exec (.br f) s = execBr f s := rfl
@[simp] theorem exec_brz (f s) : exec (.brz f) s = execBrz f s := rfl
@[simp] theorem exec_brnz (f s) : exec (.brnz f) s = execBrnz f s := rfl
@[simp] theorem exec_bany (f s) : exec (.bany f) s = execBany f s := rfl
@[simp] theorem exec_ball (f s) : exec (.ball f) s = execBall f s := rfl
@[simp] theorem exec_bnone (f s) : exec (.bnone f) s = execBnone f s := rfl
@[simp] theorem exec_call (f s) : exec (.call f) s = execCall f s := rfl
@[simp] theorem exec_ret (f s) : exec (.ret f) s = execRet f s := rfl
@[simp] theorem exec_jmp (f s) : exec (.jmp f) s = execJmp f s := rfl
@[simp] theorem exec_exit (f s) : exec (.exit f) s = execExit f s := rfl
@[simp] theorem exec_yield (f s) : exec (.yield f) s = execYield f s := rfl
@[simp] theorem exec_nop (f s) : exec (.nop f) s = execNop f s := rfl
@[simp] theorem exec_pand (f s) : exec (.pand f) s = execPand f s := rfl
@[simp] theorem exec_por (f s) : exec (.por f) s = execPor f s := rfl
@[simp] theorem exec_pxor (f s) : exec (.pxor f) s = execPxor f s := rfl
@[simp] theorem exec_pnot (f s) : exec (.pnot f) s = execPnot f s := rfl
@[simp] theorem exec_pmov (f s) : exec (.pmov f) s = execPmov f s := rfl
@[simp] theorem exec_pcnt (f s) : exec (.pcnt f) s = execPcnt f s := rfl
@[simp] theorem exec_pfirst (f s) : exec (.pfirst f) s = execPfirst f s := rfl
@[simp] theorem exec_pfroms (f s) : exec (.pfroms f) s = execPfroms f s := rfl
@[simp] theorem exec_ptos (f s) : exec (.ptos f) s = execPtos f s := rfl
@[simp] theorem exec_vadd (f s) : exec (.vadd f) s = execVadd f s := rfl
@[simp] theorem exec_vsub (f s) : exec (.vsub f) s = execVsub f s := rfl
@[simp] theorem exec_vadds (u f s) : exec (.vadds u f) s = execVadds u f s := rfl
@[simp] theorem exec_vsubs (u f s) : exec (.vsubs u f) s = execVsubs u f s := rfl
@[simp] theorem exec_vaddc (f s) : exec (.vaddc f) s = execVaddc f s := rfl
@[simp] theorem exec_vmul (f s) : exec (.vmul f) s = execVmul f s := rfl
@[simp] theorem exec_vmulh (u f s) : exec (.vmulh u f) s = execVmulh u f s := rfl
@[simp] theorem exec_vmad (f s) : exec (.vmad f) s = execVmad f s := rfl
@[simp] theorem exec_vdiv (u f s) : exec (.vdiv u f) s = execVdiv u f s := rfl
@[simp] theorem exec_vrem (u f s) : exec (.vrem u f) s = execVrem u f s := rfl
@[simp] theorem exec_vand (f s) : exec (.vand f) s = execVand f s := rfl
@[simp] theorem exec_vor (f s) : exec (.vor f) s = execVor f s := rfl
@[simp] theorem exec_vxor (f s) : exec (.vxor f) s = execVxor f s := rfl
@[simp] theorem exec_vnot (f s) : exec (.vnot f) s = execVnot f s := rfl
@[simp] theorem exec_vshl (f s) : exec (.vshl f) s = execVshl f s := rfl
@[simp] theorem exec_vshr (f s) : exec (.vshr f) s = execVshr f s := rfl
@[simp] theorem exec_vsra (f s) : exec (.vsra f) s = execVsra f s := rfl
@[simp] theorem exec_vmin (u f s) : exec (.vmin u f) s = execVmin u f s := rfl
@[simp] theorem exec_vmax (u f s) : exec (.vmax u f) s = execVmax u f s := rfl
@[simp] theorem exec_vabs (f s) : exec (.vabs f) s = execVabs f s := rfl
@[simp] theorem exec_vneg (f s) : exec (.vneg f) s = execVneg f s := rfl
@[simp] theorem exec_vcmp (f s) : exec (.vcmp f) s = execVcmp f s := rfl
@[simp] theorem exec_vsel (f s) : exec (.vsel f) s = execVsel f s := rfl
@[simp] theorem exec_vmov (f s) : exec (.vmov f) s = execVmov f s := rfl
@[simp] theorem exec_vmovh (f s) : exec (.vmovh f) s = execVmovh f s := rfl
@[simp] theorem exec_vlane (f s) : exec (.vlane f) s = execVlane f s := rfl
@[simp] theorem exec_vscan (f s) : exec (.vscan f) s = execVscan f s := rfl
@[simp] theorem exec_vred (f s) : exec (.vred f) s = execVred f s := rfl
@[simp] theorem exec_vmatch (f s) : exec (.vmatch f) s = execVmatch f s := rfl
@[simp] theorem exec_vbfe (u f s) : exec (.vbfe u f) s = execVbfe u f s := rfl
@[simp] theorem exec_vbfi (f s) : exec (.vbfi f) s = execVbfi f s := rfl
@[simp] theorem exec_vpop (f s) : exec (.vpop f) s = execVpop f s := rfl
@[simp] theorem exec_vclz (f s) : exec (.vclz f) s = execVclz f s := rfl
@[simp] theorem exec_vctz (f s) : exec (.vctz f) s = execVctz f s := rfl
@[simp] theorem exec_vbrev (f s) : exec (.vbrev f) s = execVbrev f s := rfl
@[simp] theorem exec_vfunnel (f s) : exec (.vfunnel f) s = execVfunnel f s := rfl
@[simp] theorem exec_vbperm (f s) : exec (.vbperm f) s = execVbperm f s := rfl
@[simp] theorem exec_fadd (t f s) : exec (.fadd t f) s = execFadd t f s := rfl
@[simp] theorem exec_fsub (t f s) : exec (.fsub t f) s = execFsub t f s := rfl
@[simp] theorem exec_fmul (t f s) : exec (.fmul t f) s = execFmul t f s := rfl
@[simp] theorem exec_ffma (t f s) : exec (.ffma t f) s = execFfma t f s := rfl
@[simp] theorem exec_ffms (t f s) : exec (.ffms t f) s = execFfms t f s := rfl
@[simp] theorem exec_fnma (t f s) : exec (.fnma t f) s = execFnma t f s := rfl
@[simp] theorem exec_fnms (t f s) : exec (.fnms t f) s = execFnms t f s := rfl
@[simp] theorem exec_fmin (t f s) : exec (.fmin t f) s = execFmin t f s := rfl
@[simp] theorem exec_fmax (t f s) : exec (.fmax t f) s = execFmax t f s := rfl
@[simp] theorem exec_fabs (t f s) : exec (.fabs t f) s = execFabs t f s := rfl
@[simp] theorem exec_fneg (t f s) : exec (.fneg t f) s = execFneg t f s := rfl
@[simp] theorem exec_fcmp (f s) : exec (.fcmp f) s = execFcmp f s := rfl
@[simp] theorem exec_fclass (f s) : exec (.fclass f) s = execFclass f s := rfl
@[simp] theorem exec_fround (f s) : exec (.fround f) s = execFround f s := rfl
@[simp] theorem exec_fcvt (f s) : exec (.fcvt f) s = execFcvt f s := rfl
@[simp] theorem exec_fcvtn (f s) : exec (.fcvtn f) s = execFcvtn f s := rfl
@[simp] theorem exec_fpack (f s) : exec (.fpack f) s = execFpack f s := rfl
@[simp] theorem exec_fscale (f s) : exec (.fscale f) s = execFscale f s := rfl
@[simp] theorem exec_fdiv (f s) : exec (.fdiv f) s = execFdiv f s := rfl
@[simp] theorem exec_fsqrt (f s) : exec (.fsqrt f) s = execFsqrt f s := rfl
@[simp] theorem exec_frcp (f s) : exec (.frcp f) s = execFrcp f s := rfl
@[simp] theorem exec_frsq (f s) : exec (.frsq f) s = execFrsq f s := rfl
@[simp] theorem exec_fexp2 (f s) : exec (.fexp2 f) s = execFexp2 f s := rfl
@[simp] theorem exec_flog2 (f s) : exec (.flog2 f) s = execFlog2 f s := rfl
@[simp] theorem exec_fsin (f s) : exec (.fsin f) s = execFsin f s := rfl
@[simp] theorem exec_fcos (f s) : exec (.fcos f) s = execFcos f s := rfl
@[simp] theorem exec_fdot2 (bf f s) : exec (.fdot2 bf f) s = execFdot2 bf f s := rfl
@[simp] theorem exec_vpadd (w f s) : exec (.vpadd w f) s = execVpadd w f s := rfl
@[simp] theorem exec_vpsub (w f s) : exec (.vpsub w f) s = execVpsub w f s := rfl
@[simp] theorem exec_vpmul (w f s) : exec (.vpmul w f) s = execVpmul w f s := rfl
@[simp] theorem exec_vpfma (w f s) : exec (.vpfma w f) s = execVpfma w f s := rfl
@[simp] theorem exec_vpdiv (w f s) : exec (.vpdiv w f) s = execVpdiv w f s := rfl
@[simp] theorem exec_vpsqrt (w f s) : exec (.vpsqrt w f) s = execVpsqrt w f s := rfl
@[simp] theorem exec_vpexp (w f s) : exec (.vpexp w f) s = execVpexp w f s := rfl
@[simp] theorem exec_vpcmp (w f s) : exec (.vpcmp w f) s = execVpcmp w f s := rfl
@[simp] theorem exec_vpcvt (w f s) : exec (.vpcvt w f) s = execVpcvt w f s := rfl
@[simp] theorem exec_vpround (w f s) : exec (.vpround w f) s = execVpround w f s := rfl
@[simp] theorem exec_vpld (w f s) : exec (.vpld w f) s = execVpld w f s := rfl
@[simp] theorem exec_vpst (w f s) : exec (.vpst w f) s = execVpst w f s := rfl
@[simp] theorem exec_vpsetl (f s) : exec (.vpsetl f) s = execVpsetl f s := rfl
@[simp] theorem exec_vpgetl (f s) : exec (.vpgetl f) s = execVpgetl f s := rfl
@[simp] theorem exec_ld (f s) : exec (.ld f) s = execLd f s := rfl
@[simp] theorem exec_st (f s) : exec (.st f) s = execSt f s := rfl
@[simp] theorem exec_ldsp (f s) : exec (.ldsp f) s = execLdsp f s := rfl
@[simp] theorem exec_stsp (f s) : exec (.stsp f) s = execStsp f s := rfl
@[simp] theorem exec_tld (f s) : exec (.tld f) s = execTld f s := rfl
@[simp] theorem exec_tst (f s) : exec (.tst f) s = execTst f s := rfl
@[simp] theorem exec_waitac (f s) : exec (.waitac f) s = execWaitac f s := rfl
@[simp] theorem exec_waitmem (f s) : exec (.waitmem f) s = execWaitmem f s := rfl
@[simp] theorem exec_fence (f s) : exec (.fence f) s = execFence f s := rfl
@[simp] theorem exec_phadv (f s) : exec (.phadv f) s = execPhadv f s := rfl
@[simp] theorem exec_phwait (f s) : exec (.phwait f) s = execPhwait f s := rfl
@[simp] theorem exec_cwb (f s) : exec (.cwb f) s = execCwb f s := rfl
@[simp] theorem exec_cinv (f s) : exec (.cinv f) s = execCinv f s := rfl
@[simp] theorem exec_cinvd (f s) : exec (.cinvd f) s = execCinvd f s := rfl
@[simp] theorem exec_cpf (f s) : exec (.cpf f) s = execCpf f s := rfl
@[simp] theorem exec_shflush (f s) : exec (.shflush f) s = execShflush f s := rfl
@[simp] theorem exec_atomAdd (t f s) : exec (.atomAdd t f) s = execAtomAdd t f s := rfl
@[simp] theorem exec_atomSub (t f s) : exec (.atomSub t f) s = execAtomSub t f s := rfl
@[simp] theorem exec_atomMin (t f s) : exec (.atomMin t f) s = execAtomMin t f s := rfl
@[simp] theorem exec_atomMax (t f s) : exec (.atomMax t f) s = execAtomMax t f s := rfl
@[simp] theorem exec_atomAnd (f s) : exec (.atomAnd f) s = execAtomAnd f s := rfl
@[simp] theorem exec_atomOr (f s) : exec (.atomOr f) s = execAtomOr f s := rfl
@[simp] theorem exec_atomXor (f s) : exec (.atomXor f) s = execAtomXor f s := rfl
@[simp] theorem exec_atomXchg (f s) : exec (.atomXchg f) s = execAtomXchg f s := rfl
@[simp] theorem exec_atomCas (f s) : exec (.atomCas f) s = execAtomCas f s := rfl
@[simp] theorem exec_atomInc (f s) : exec (.atomInc f) s = execAtomInc f s := rfl
@[simp] theorem exec_atomDec (f s) : exec (.atomDec f) s = execAtomDec f s := rfl
@[simp] theorem exec_barw (f s) : exec (.barw f) s = execBarw f s := rfl
@[simp] theorem exec_barr (f s) : exec (.barr f) s = execBarr f s := rfl
@[simp] theorem exec_barwt (f s) : exec (.barwt f) s = execBarwt f s := rfl
@[simp] theorem exec_barinit (f s) : exec (.barinit f) s = execBarinit f s := rfl
@[simp] theorem exec_barinval (f s) : exec (.barinval f) s = execBarinval f s := rfl
@[simp] theorem exec_bosig (f s) : exec (.bosig f) s = execBosig f s := rfl
@[simp] theorem exec_bowait (f s) : exec (.bowait f) s = execBowait f s := rfl
@[simp] theorem exec_cpy (f s) : exec (.cpy f) s = execCpy f s := rfl
@[simp] theorem exec_arm (f s) : exec (.arm f) s = execArm f s := rfl
@[simp] theorem exec_tagwany (f s) : exec (.tagwany f) s = execTagwany f s := rfl
@[simp] theorem exec_tagwall (f s) : exec (.tagwall f) s = execTagwall f s := rfl
@[simp] theorem exec_tagfirst (f s) : exec (.tagfirst f) s = execTagfirst f s := rfl
@[simp] theorem exec_tagclr (f s) : exec (.tagclr f) s = execTagclr f s := rfl
@[simp] theorem exec_rcnt (f s) : exec (.rcnt f) s = execRcnt f s := rfl
@[simp] theorem exec_rcntadd (f s) : exec (.rcntadd f) s = execRcntadd f s := rfl
@[simp] theorem exec_bget (f s) : exec (.bget f) s = execBget f s := rfl
@[simp] theorem exec_bgive (f s) : exec (.bgive f) s = execBgive f s := rfl
@[simp] theorem exec_bfree (f s) : exec (.bfree f) s = execBfree f s := rfl
@[simp] theorem exec_mma (t f s) : exec (.mma t f) s = execMma t f s := rfl
@[simp] theorem exec_mmaSp (t f s) : exec (.mmaSp t f) s = execMmaSp t f s := rfl
@[simp] theorem exec_mldb (f s) : exec (.mldb f) s = execMldb f s := rfl
@[simp] theorem exec_mrdy (f s) : exec (.mrdy f) s = execMrdy f s := rfl
@[simp] theorem exec_mfence (f s) : exec (.mfence f) s = execMfence f s := rfl
@[simp] theorem exec_mwait (f s) : exec (.mwait f) s = execMwait f s := rfl
@[simp] theorem exec_mwaitT (f s) : exec (.mwaitT f) s = execMwaitT f s := rfl
@[simp] theorem exec_mclr (f s) : exec (.mclr f) s = execMclr f s := rfl
@[simp] theorem exec_mbscale (f s) : exec (.mbscale f) s = execMbscale f s := rfl
@[simp] theorem exec_remit (f s) : exec (.remit f) s = execRemit f s := rfl
@[simp] theorem exec_tenq (f s) : exec (.tenq f) s = execTenq f s := rfl
@[simp] theorem exec_tdeq (f s) : exec (.tdeq f) s = execTdeq f s := rfl
@[simp] theorem exec_depinit (f s) : exec (.depinit f) s = execDepinit f s := rfl
@[simp] theorem exec_depdec (f s) : exec (.depdec f) s = execDepdec f s := rfl
@[simp] theorem exec_chunk (f s) : exec (.chunk f) s = execChunk f s := rfl
@[simp] theorem exec_lvlid (f s) : exec (.lvlid f) s = execLvlid f s := rfl
@[simp] theorem exec_lvlcancel (f s) : exec (.lvlcancel f) s = execLvlcancel f s := rfl
@[simp] theorem exec_gexit (f s) : exec (.gexit f) s = execGexit f s := rfl
@[simp] theorem exec_trap (f s) : exec (.trap f) s = execTrap f s := rfl
@[simp] theorem exec_tret (f s) : exec (.tret f) s = execTret f s := rfl
@[simp] theorem exec_sreg (f s) : exec (.sreg f) s = execSreg f s := rfl
@[simp] theorem exec_swreg (f s) : exec (.swreg f) s = execSwreg f s := rfl
@[simp] theorem exec_shrink (f s) : exec (.shrink f) s = execShrink f s := rfl
@[simp] theorem exec_grow (f s) : exec (.grow f) s = execGrow f s := rfl
@[simp] theorem exec_bkpt (f s) : exec (.bkpt f) s = execBkpt f s := rfl
@[simp] theorem exec_halt (f s) : exec (.halt f) s = execHalt f s := rfl
@[simp] theorem exec_faultrd (f s) : exec (.faultrd f) s = execFaultrd f s := rfl
@[simp] theorem exec_pcfgrd (f s) : exec (.pcfgrd f) s = execPcfgrd f s := rfl
@[simp] theorem exec_unassignedOpcode (w s) : exec (.unassignedOpcode w) s = execUnassignedOpcode w s := rfl
@[simp] theorem exec_instructionFetchFault (code s) : exec (.instructionFetchFault code) s = execInstructionFetchFault code s := rfl
@[simp] theorem exec_powerOn (s) : exec .powerOn s = execPowerOn s := rfl
@[simp] theorem exec_moduleReset (s) : exec .moduleReset s = execModuleReset s := rfl
@[simp] theorem exec_dieReset (die s) : exec (.dieReset die) s = execDieReset die s := rfl
@[simp] theorem exec_resetBroadcast (die s) : exec (.resetBroadcast die) s = execResetBroadcast die s := rfl
@[simp] theorem exec_packetArrival (pkt s) : exec (.packetArrival pkt) s = execPacketArrival pkt s := rfl
@[simp] theorem exec_responseArrival (pkt s) : exec (.responseArrival pkt) s = execResponseArrival pkt s := rfl
@[simp] theorem exec_nackResend (src dst s) : exec (.nackResend src dst) s = execNackResend src dst s := rfl
@[simp] theorem exec_escapeMove (pkt s) : exec (.escapeMove pkt) s = execEscapeMove pkt s := rfl
@[simp] theorem exec_linkFailure (a b s) : exec (.linkFailure a b) s = execLinkFailure a b s := rfl
@[simp] theorem exec_linkUp (a b s) : exec (.linkUp a b) s = execLinkUp a b s := rfl
@[simp] theorem exec_linkStateNotice (router epoch s) : exec (.linkStateNotice router epoch) s = execLinkStateNotice router epoch s := rfl
@[simp] theorem exec_linkStateAck (router epoch s) : exec (.linkStateAck router epoch) s = execLinkStateAck router epoch s := rfl
@[simp] theorem exec_settledNotice (router epoch s) : exec (.settledNotice router epoch) s = execSettledNotice router epoch s := rfl
@[simp] theorem exec_completionTimeout (req s) : exec (.completionTimeout req) s = execCompletionTimeout req s := rfl
@[simp] theorem exec_fabricPortFailure (port s) : exec (.fabricPortFailure port) s = execFabricPortFailure port s := rfl
@[simp] theorem exec_peerRequest (r s) : exec (.peerRequest r) s = execPeerRequest r s := rfl
@[simp] theorem exec_ethernetPortDown (port s) : exec (.ethernetPortDown port) s = execEthernetPortDown port s := rfl
@[simp] theorem exec_ethReadRequest (port tag s) : exec (.ethReadRequest port tag) s = execEthReadRequest port tag s := rfl
@[simp] theorem exec_cxlLinkLoss (port s) : exec (.cxlLinkLoss port) s = execCxlLinkLoss port s := rfl
@[simp] theorem exec_cxlRetrainDone (port s) : exec (.cxlRetrainDone port) s = execCxlRetrainDone port s := rfl
@[simp] theorem exec_hostWindowAccess (part a s) : exec (.hostWindowAccess part a) s = execHostWindowAccess part a s := rfl
@[simp] theorem exec_mgmtPortRequest (q s) : exec (.mgmtPortRequest q) s = execMgmtPortRequest q s := rfl
@[simp] theorem exec_energyCredit (die s) : exec (.energyCredit die) s = execEnergyCredit die s := rfl
@[simp] theorem exec_energyAdmit (part s) : exec (.energyAdmit part) s = execEnergyAdmit part s := rfl
@[simp] theorem exec_mailboxSend (die core m s) : exec (.mailboxSend die core m) s = execMailboxSend die core m s := rfl
@[simp] theorem exec_mailboxReceive (die core s) : exec (.mailboxReceive die core) s = execMailboxReceive die core s := rfl
@[simp] theorem exec_mailboxRemoteDeliver (pkt s) : exec (.mailboxRemoteDeliver pkt) s = execMailboxRemoteDeliver pkt s := rfl
@[simp] theorem exec_jqnotifyWrite (part q h v s) : exec (.jqnotifyWrite part q h v) s = execJqnotifyWrite part q h v s := rfl
@[simp] theorem exec_jqctlEnSet (part q h v s) : exec (.jqctlEnSet part q h v) s = execJqctlEnSet part q h v s := rfl
@[simp] theorem exec_jqctlEnClear (part q h v s) : exec (.jqctlEnClear part q h v) s = execJqctlEnClear part q h v s := rfl
@[simp] theorem exec_jqctlErrClear (part q h v s) : exec (.jqctlErrClear part q h v) s = execJqctlErrClear part q h v s := rfl
@[simp] theorem exec_jqConfigWrite (part q base h v s) : exec (.jqConfigWrite part q base h v) s = execJqConfigWrite part q base h v s := rfl
@[simp] theorem exec_parserReadPacket (part dev s) : exec (.parserReadPacket part dev) s = execParserReadPacket part dev s := rfl
@[simp] theorem exec_jobNoop (job s) : exec (.jobNoop job) s = execJobNoop job s := rfl
@[simp] theorem exec_jobGraph (job s) : exec (.jobGraph job) s = execJobGraph job s := rfl
@[simp] theorem exec_jobStep (job s) : exec (.jobStep job) s = execJobStep job s := rfl
@[simp] theorem exec_jobWait (job s) : exec (.jobWait job) s = execJobWait job s := rfl
@[simp] theorem exec_waitPacketRecheck (job s) : exec (.waitPacketRecheck job) s = execWaitPacketRecheck job s := rfl
@[simp] theorem exec_jobCancel (job s) : exec (.jobCancel job) s = execJobCancel job s := rfl
@[simp] theorem exec_mqsubmitWrite (part h v s) : exec (.mqsubmitWrite part h v) s = execMqsubmitWrite part h v s := rfl
@[simp] theorem exec_mqdoneClear (part h v s) : exec (.mqdoneClear part h v) s = execMqdoneClear part h v s := rfl
@[simp] theorem exec_ctxcreate (part s) : exec (.ctxcreate part) s = execCtxcreate part s := rfl
@[simp] theorem exec_ctxdestroy (part s) : exec (.ctxdestroy part) s = execCtxdestroy part s := rfl
@[simp] theorem exec_mgmtMap (part s) : exec (.mgmtMap part) s = execMgmtMap part s := rfl
@[simp] theorem exec_mgmtUnmap (part s) : exec (.mgmtUnmap part) s = execMgmtUnmap part s := rfl
@[simp] theorem exec_migrate (part s) : exec (.migrate part) s = execMigrate part s := rfl
@[simp] theorem exec_setreg (part s) : exec (.setreg part) s = execSetreg part s := rfl
@[simp] theorem exec_shardgrp (part s) : exec (.shardgrp part) s = execShardgrp part s := rfl
@[simp] theorem exec_mgmtPeer (part s) : exec (.mgmtPeer part) s = execMgmtPeer part s := rfl
@[simp] theorem exec_mgmtExport (part s) : exec (.mgmtExport part) s = execMgmtExport part s := rfl
@[simp] theorem exec_hostwin (part s) : exec (.hostwin part) s = execHostwin part s := rfl
@[simp] theorem exec_mgmtDebug (part s) : exec (.mgmtDebug part) s = execMgmtDebug part s := rfl
@[simp] theorem exec_attest (part s) : exec (.attest part) s = execAttest part s := rfl
@[simp] theorem exec_registerWrite (part ofs src h v s) : exec (.registerWrite part ofs src h v) s = execRegisterWrite part ofs src h v s := rfl
@[simp] theorem exec_kernelLaunchAdmit (lvl s) : exec (.kernelLaunchAdmit lvl) s = execKernelLaunchAdmit lvl s := rfl
@[simp] theorem exec_graphAdmit (lvl s) : exec (.graphAdmit lvl) s = execGraphAdmit lvl s := rfl
@[simp] theorem exec_stepMemberStart (lvl s) : exec (.stepMemberStart lvl) s = execStepMemberStart lvl s := rfl
@[simp] theorem exec_workgroupStart (die s) : exec (.workgroupStart die) s = execWorkgroupStart die s := rfl
@[simp] theorem exec_resumption (die s) : exec (.resumption die) s = execResumption die s := rfl
@[simp] theorem exec_resumeCheck (die s) : exec (.resumeCheck die) s = execResumeCheck die s := rfl
@[simp] theorem exec_preemptStop (wg s) : exec (.preemptStop wg) s = execPreemptStop wg s := rfl
@[simp] theorem exec_preemptSave (wg s) : exec (.preemptSave wg) s = execPreemptSave wg s := rfl
@[simp] theorem exec_contextSwitch (ctx s) : exec (.contextSwitch ctx) s = execContextSwitch ctx s := rfl
@[simp] theorem exec_ptStateSaveDone (ctx s) : exec (.ptStateSaveDone ctx) s = execPtStateSaveDone ctx s := rfl
@[simp] theorem exec_contextReturn (ctx s) : exec (.contextReturn ctx) s = execContextReturn ctx s := rfl
@[simp] theorem exec_debugRelease (wg s) : exec (.debugRelease wg) s = execDebugRelease wg s := rfl
@[simp] theorem exec_workgroupRetire (wg s) : exec (.workgroupRetire wg) s = execWorkgroupRetire wg s := rfl
@[simp] theorem exec_levelEnd (lvl s) : exec (.levelEnd lvl) s = execLevelEnd lvl s := rfl
@[simp] theorem exec_levelCancelApply (part s) : exec (.levelCancelApply part) s = execLevelCancelApply part s := rfl
@[simp] theorem exec_stealRequest (die core s) : exec (.stealRequest die core) s = execStealRequest die core s := rfl
@[simp] theorem exec_stealReply (id s) : exec (.stealReply id) s = execStealReply id s := rfl
@[simp] theorem exec_stealArrive (id s) : exec (.stealArrive id) s = execStealArrive id s := rfl
@[simp] theorem exec_stealAck (id s) : exec (.stealAck id) s = execStealAck id s := rfl
@[simp] theorem exec_stealBackoff (die core s) : exec (.stealBackoff die core) s = execStealBackoff die core s := rfl
@[simp] theorem exec_recordCountAck (id s) : exec (.recordCountAck id) s = execRecordCountAck id s := rfl
@[simp] theorem exec_holdLapse (lvl node core s) : exec (.holdLapse lvl node core) s = execHoldLapse lvl node core s := rfl
@[simp] theorem exec_nodeGroupStart (die s) : exec (.nodeGroupStart die) s = execNodeGroupStart die s := rfl
@[simp] theorem exec_graphDrainOrder (lvl s) : exec (.graphDrainOrder lvl) s = execGraphDrainOrder lvl s := rfl
@[simp] theorem exec_translationMiss (req s) : exec (.translationMiss req) s = execTranslationMiss req s := rfl
@[simp] theorem exec_walkComplete (walk s) : exec (.walkComplete walk) s = execWalkComplete walk s := rfl
@[simp] theorem exec_resolverFinish (ctx page s) : exec (.resolverFinish ctx page) s = execResolverFinish ctx page s := rfl
@[simp] theorem exec_translationInvalidate (die s) : exec (.translationInvalidate die) s = execTranslationInvalidate die s := rfl
@[simp] theorem exec_migrationLineFetch (die frame line s) : exec (.migrationLineFetch die frame line) s = execMigrationLineFetch die frame line s := rfl
@[simp] theorem exec_hbmIdlePrecharge (die bank s) : exec (.hbmIdlePrecharge die bank) s = execHbmIdlePrecharge die bank s := rfl
@[simp] theorem exec_hbmRefresh (die bank s) : exec (.hbmRefresh die bank) s = execHbmRefresh die bank s := rfl
@[simp] theorem exec_eccError (e s) : exec (.eccError e) s = execEccError e s := rfl
@[simp] theorem exec_orderNetworkNotice (die s) : exec (.orderNetworkNotice die) s = execOrderNetworkNotice die s := rfl
@[simp] theorem exec_homeRequest (req s) : exec (.homeRequest req) s = execHomeRequest req s := rfl
@[simp] theorem exec_invalidationReceive (txn die s) : exec (.invalidationReceive txn die) s = execInvalidationReceive txn die s := rfl
@[simp] theorem exec_recallReceive (txn die s) : exec (.recallReceive txn die) s = execRecallReceive txn die s := rfl
@[simp] theorem exec_grantReceive (txn s) : exec (.grantReceive txn) s = execGrantReceive txn s := rfl
@[simp] theorem exec_homeAckReceive (txn die s) : exec (.homeAckReceive txn die) s = execHomeAckReceive txn die s := rfl
@[simp] theorem exec_writeBackArrival (id s) : exec (.writeBackArrival id) s = execWriteBackArrival id s := rfl
@[simp] theorem exec_lineEviction (die core line s) : exec (.lineEviction die core line) s = execLineEviction die core line s := rfl
@[simp] theorem exec_regionMerge (die base s) : exec (.regionMerge die base) s = execRegionMerge die base s := rfl
@[simp] theorem exec_rdcCombineFlush (die line s) : exec (.rdcCombineFlush die line) s = execRdcCombineFlush die line s := rfl
@[simp] theorem exec_leaseRenewalSend (die home s) : exec (.leaseRenewalSend die home) s = execLeaseRenewalSend die home s := rfl
@[simp] theorem exec_leaseRenewalReceive (home die s) : exec (.leaseRenewalReceive home die) s = execLeaseRenewalReceive home die s := rfl
@[simp] theorem exec_renewalAckReceive (die home s) : exec (.renewalAckReceive die home) s = execRenewalAckReceive die home s := rfl
@[simp] theorem exec_leaseLapse (home die s) : exec (.leaseLapse home die) s = execLeaseLapse home die s := rfl
@[simp] theorem exec_leaseDrop (die home s) : exec (.leaseDrop die home) s = execLeaseDrop die home s := rfl
@[simp] theorem exec_backinvalTimeout (txn s) : exec (.backinvalTimeout txn) s = execBackinvalTimeout txn s := rfl
@[simp] theorem exec_gatherReceive (m s) : exec (.gatherReceive m) s = execGatherReceive m s := rfl
@[simp] theorem exec_dataReceive (m s) : exec (.dataReceive m) s = execDataReceive m s := rfl
@[simp] theorem exec_deferredReceive (m s) : exec (.deferredReceive m) s = execDeferredReceive m s := rfl
@[simp] theorem exec_lifeReceive (m s) : exec (.lifeReceive m) s = execLifeReceive m s := rfl
@[simp] theorem exec_lostReceive (m s) : exec (.lostReceive m) s = execLostReceive m s := rfl
@[simp] theorem exec_openReceive (m s) : exec (.openReceive m) s = execOpenReceive m s := rfl
@[simp] theorem exec_openokReceive (m s) : exec (.openokReceive m) s = execOpenokReceive m s := rfl
@[simp] theorem exec_busyReceive (m s) : exec (.busyReceive m) s = execBusyReceive m s := rfl
@[simp] theorem exec_busyResend (ctx page member s) : exec (.busyResend ctx page member) s = execBusyResend ctx page member s := rfl
@[simp] theorem exec_deliverReceive (m s) : exec (.deliverReceive m) s = execDeliverReceive m s := rfl
@[simp] theorem exec_delackReceive (m s) : exec (.delackReceive m) s = execDelackReceive m s := rfl
@[simp] theorem exec_closeReceive (m s) : exec (.closeReceive m) s = execCloseReceive m s := rfl
@[simp] theorem exec_doneReceive (m s) : exec (.doneReceive m) s = execDoneReceive m s := rfl
@[simp] theorem exec_renewSend (ctx group s) : exec (.renewSend ctx group) s = execRenewSend ctx group s := rfl
@[simp] theorem exec_renewReceive (m s) : exec (.renewReceive m) s = execRenewReceive m s := rfl
@[simp] theorem exec_memberDead (ctx group member s) : exec (.memberDead ctx group member) s = execMemberDead ctx group member s := rfl
@[simp] theorem exec_copyEngineStart (copy s) : exec (.copyEngineStart copy) s = execCopyEngineStart copy s := rfl
@[simp] theorem exec_copyComplete (copy s) : exec (.copyComplete copy) s = execCopyComplete copy s := rfl
@[simp] theorem exec_receiveCounterSignal (ctx idx s) : exec (.receiveCounterSignal ctx idx) s = execReceiveCounterSignal ctx idx s := rfl
@[simp] theorem exec_matrixOpPerform (pipe s) : exec (.matrixOpPerform pipe) s = execMatrixOpPerform pipe s := rfl
@[simp] theorem exec_tileFillComplete (fill s) : exec (.tileFillComplete fill) s = execTileFillComplete fill s := rfl
@[simp] theorem exec_laneReply (req s) : exec (.laneReply req) s = execLaneReply req s := rfl
@[simp] theorem exec_storeAck (req s) : exec (.storeAck req) s = execStoreAck req s := rfl
@[simp] theorem exec_variableResultWrite (wg trix k s) : exec (.variableResultWrite wg trix k) s = execVariableResultWrite wg trix k s := rfl
@[simp] theorem exec_queueEngineReply (wg trix k s) : exec (.queueEngineReply wg trix k) s = execQueueEngineReply wg trix k s := rfl
@[simp] theorem exec_waitmemRecheck (wg trix s) : exec (.waitmemRecheck wg trix) s = execWaitmemRecheck wg trix s := rfl
@[simp] theorem exec_bowaitRecheck (wg trix s) : exec (.bowaitRecheck wg trix) s = execBowaitRecheck wg trix s := rfl
@[simp] theorem exec_powerLoss (midWrite s) : exec (.powerLoss midWrite) s = execPowerLoss midWrite s := rfl
@[simp] theorem exec_xDieReset (x s) : exec (.xDieReset x) s = execXDieReset x s := rfl

end Sys2Proof.Machine
end

