-- ==== Sys2Proof/Laws/State.lean ====
section
/-! SUPPORT. What each update of the state or of a troupe leaves in each field: one lemma per field and update, true by
unfolding the update. Generated from the field lists of `State` and `Troupe`. -/

namespace Sys2Proof.Machine

/-! ## Updates of the state -/
@[simp] theorem State.setTroupe_agenda (s : State) (t : Troupe) : (s.setTroupe t).agenda = s.agenda := rfl
@[simp] theorem State.setTroupe_cur (s : State) (t : Troupe) : (s.setTroupe t).cur = s.cur := rfl
@[simp] theorem State.setTroupe_free (s : State) (t : Troupe) : (s.setTroupe t).free = s.free := rfl
@[simp] theorem State.setTroupe_fresh (s : State) (t : Troupe) : (s.setTroupe t).fresh = s.fresh := rfl
@[simp] theorem State.setTroupe_mem (s : State) (t : Troupe) : (s.setTroupe t).mem = s.mem := rfl
@[simp] theorem State.setTroupe_routers (s : State) (t : Troupe) : (s.setTroupe t).routers = s.routers := rfl
@[simp] theorem State.setTroupe_dies (s : State) (t : Troupe) : (s.setTroupe t).dies = s.dies := rfl
@[simp] theorem State.setTroupe_linksDown (s : State) (t : Troupe) : (s.setTroupe t).linksDown = s.linksDown := rfl
@[simp] theorem State.setTroupe_notices (s : State) (t : Troupe) : (s.setTroupe t).notices = s.notices := rfl
@[simp] theorem State.setTroupe_seqs (s : State) (t : Troupe) : (s.setTroupe t).seqs = s.seqs := rfl
@[simp] theorem State.setTroupe_packets (s : State) (t : Troupe) : (s.setTroupe t).packets = s.packets := rfl
@[simp] theorem State.setTroupe_fabricDown (s : State) (t : Troupe) : (s.setTroupe t).fabricDown = s.fabricDown := rfl
@[simp] theorem State.setTroupe_fabQ (s : State) (t : Troupe) : (s.setTroupe t).fabQ = s.fabQ := rfl
@[simp] theorem State.setTroupe_fabSeqs (s : State) (t : Troupe) : (s.setTroupe t).fabSeqs = s.fabSeqs := rfl
@[simp] theorem State.setTroupe_flitErrs (s : State) (t : Troupe) : (s.setTroupe t).flitErrs = s.flitErrs := rfl
@[simp] theorem State.setTroupe_lates (s : State) (t : Troupe) : (s.setTroupe t).lates = s.lates := rfl
@[simp] theorem State.setTroupe_timeoutK (s : State) (t : Troupe) : (s.setTroupe t).timeoutK = s.timeoutK := rfl
@[simp] theorem State.setTroupe_ethDown (s : State) (t : Troupe) : (s.setTroupe t).ethDown = s.ethDown := rfl
@[simp] theorem State.setTroupe_cxlTraining (s : State) (t : Troupe) : (s.setTroupe t).cxlTraining = s.cxlTraining := rfl
@[simp] theorem State.setTroupe_boot (s : State) (t : Troupe) : (s.setTroupe t).boot = s.boot := rfl
@[simp] theorem State.setTroupe_partitions (s : State) (t : Troupe) : (s.setTroupe t).partitions = s.partitions := rfl
@[simp] theorem State.setTroupe_ctxs (s : State) (t : Troupe) : (s.setTroupe t).ctxs = s.ctxs := rfl
@[simp] theorem State.setTroupe_frames (s : State) (t : Troupe) : (s.setTroupe t).frames = s.frames := rfl
@[simp] theorem State.setTroupe_mailboxes (s : State) (t : Troupe) : (s.setTroupe t).mailboxes = s.mailboxes := rfl
@[simp] theorem State.setTroupe_mailSeqs (s : State) (t : Troupe) : (s.setTroupe t).mailSeqs = s.mailSeqs := rfl
@[simp] theorem State.setTroupe_ccCores (s : State) (t : Troupe) : (s.setTroupe t).ccCores = s.ccCores := rfl
@[simp] theorem State.setTroupe_jobs (s : State) (t : Troupe) : (s.setTroupe t).jobs = s.jobs := rfl
@[simp] theorem State.setTroupe_levels (s : State) (t : Troupe) : (s.setTroupe t).levels = s.levels := rfl
@[simp] theorem State.setTroupe_graphs (s : State) (t : Troupe) : (s.setTroupe t).graphs = s.graphs := rfl
@[simp] theorem State.setTroupe_counts (s : State) (t : Troupe) : (s.setTroupe t).counts = s.counts := rfl
@[simp] theorem State.setTroupe_steals (s : State) (t : Troupe) : (s.setTroupe t).steals = s.steals := rfl
@[simp] theorem State.setTroupe_offers (s : State) (t : Troupe) : (s.setTroupe t).offers = s.offers := rfl
@[simp] theorem State.setTroupe_adms (s : State) (t : Troupe) : (s.setTroupe t).adms = s.adms := rfl
@[simp] theorem State.setTroupe_wgs (s : State) (t : Troupe) : (s.setTroupe t).wgs = s.wgs := rfl
@[simp] theorem State.setTroupe_pipes (s : State) (t : Troupe) : (s.setTroupe t).pipes = s.pipes := rfl
@[simp] theorem State.setTroupe_bufs (s : State) (t : Troupe) : (s.setTroupe t).bufs = s.bufs := rfl
@[simp] theorem State.setTroupe_reqs (s : State) (t : Troupe) : (s.setTroupe t).reqs = s.reqs := rfl
@[simp] theorem State.setTroupe_splits (s : State) (t : Troupe) : (s.setTroupe t).splits = s.splits := rfl
@[simp] theorem State.setTroupe_copies (s : State) (t : Troupe) : (s.setTroupe t).copies = s.copies := rfl
@[simp] theorem State.setTroupe_signals (s : State) (t : Troupe) : (s.setTroupe t).signals = s.signals := rfl
@[simp] theorem State.setTroupe_fills (s : State) (t : Troupe) : (s.setTroupe t).fills = s.fills := rfl
@[simp] theorem State.setTroupe_lines (s : State) (t : Troupe) : (s.setTroupe t).lines = s.lines := rfl
@[simp] theorem State.setTroupe_l2 (s : State) (t : Troupe) : (s.setTroupe t).l2 = s.l2 := rfl
@[simp] theorem State.setTroupe_regions (s : State) (t : Troupe) : (s.setTroupe t).regions = s.regions := rfl
@[simp] theorem State.setTroupe_txns (s : State) (t : Troupe) : (s.setTroupe t).txns = s.txns := rfl
@[simp] theorem State.setTroupe_wbs (s : State) (t : Troupe) : (s.setTroupe t).wbs = s.wbs := rfl
@[simp] theorem State.setTroupe_combines (s : State) (t : Troupe) : (s.setTroupe t).combines = s.combines := rfl
@[simp] theorem State.setTroupe_walks (s : State) (t : Troupe) : (s.setTroupe t).walks = s.walks := rfl
@[simp] theorem State.setTroupe_tlbs (s : State) (t : Troupe) : (s.setTroupe t).tlbs = s.tlbs := rfl
@[simp] theorem State.setTroupe_invals (s : State) (t : Troupe) : (s.setTroupe t).invals = s.invals := rfl
@[simp] theorem State.setTroupe_resolving (s : State) (t : Troupe) : (s.setTroupe t).resolving = s.resolving := rfl
@[simp] theorem State.setTroupe_opens (s : State) (t : Troupe) : (s.setTroupe t).opens = s.opens := rfl
@[simp] theorem State.setTroupe_awaited (s : State) (t : Troupe) : (s.setTroupe t).awaited = s.awaited := rfl
@[simp] theorem State.setTroupe_migrs (s : State) (t : Troupe) : (s.setTroupe t).migrs = s.migrs := rfl
@[simp] theorem State.setTroupe_banks (s : State) (t : Troupe) : (s.setTroupe t).banks = s.banks := rfl
@[simp] theorem State.setTroupe_leases (s : State) (t : Troupe) : (s.setTroupe t).leases = s.leases := rfl
@[simp] theorem State.setTroupe_gathers (s : State) (t : Troupe) : (s.setTroupe t).gathers = s.gathers := rfl
@[simp] theorem State.setTroupe_parts (s : State) (t : Troupe) : (s.setTroupe t).parts = s.parts := rfl
@[simp] theorem State.setTroupe_reductions (s : State) (t : Troupe) : (s.setTroupe t).reductions = s.reductions := rfl
@[simp] theorem State.setTroupe_deferred (s : State) (t : Troupe) : (s.setTroupe t).deferred = s.deferred := rfl
@[simp] theorem State.setTroupe_peerWins (s : State) (t : Troupe) : (s.setTroupe t).peerWins = s.peerWins := rfl
@[simp] theorem State.setTroupe_errors (s : State) (t : Troupe) : (s.setTroupe t).errors = s.errors := rfl
@[simp] theorem State.setTroupe_out (s : State) (t : Troupe) : (s.setTroupe t).out = s.out := rfl

@[simp] theorem State.modWg_agenda (s : State) (i : Nat) (f : Workgroup → Workgroup) : (s.modWg i f).agenda = s.agenda := rfl
@[simp] theorem State.modWg_cur (s : State) (i : Nat) (f : Workgroup → Workgroup) : (s.modWg i f).cur = s.cur := rfl
@[simp] theorem State.modWg_free (s : State) (i : Nat) (f : Workgroup → Workgroup) : (s.modWg i f).free = s.free := rfl
@[simp] theorem State.modWg_fresh (s : State) (i : Nat) (f : Workgroup → Workgroup) : (s.modWg i f).fresh = s.fresh := rfl
@[simp] theorem State.modWg_mem (s : State) (i : Nat) (f : Workgroup → Workgroup) : (s.modWg i f).mem = s.mem := rfl
@[simp] theorem State.modWg_routers (s : State) (i : Nat) (f : Workgroup → Workgroup) : (s.modWg i f).routers = s.routers := rfl
@[simp] theorem State.modWg_dies (s : State) (i : Nat) (f : Workgroup → Workgroup) : (s.modWg i f).dies = s.dies := rfl
@[simp] theorem State.modWg_linksDown (s : State) (i : Nat) (f : Workgroup → Workgroup) : (s.modWg i f).linksDown = s.linksDown := rfl
@[simp] theorem State.modWg_notices (s : State) (i : Nat) (f : Workgroup → Workgroup) : (s.modWg i f).notices = s.notices := rfl
@[simp] theorem State.modWg_seqs (s : State) (i : Nat) (f : Workgroup → Workgroup) : (s.modWg i f).seqs = s.seqs := rfl
@[simp] theorem State.modWg_packets (s : State) (i : Nat) (f : Workgroup → Workgroup) : (s.modWg i f).packets = s.packets := rfl
@[simp] theorem State.modWg_fabricDown (s : State) (i : Nat) (f : Workgroup → Workgroup) : (s.modWg i f).fabricDown = s.fabricDown := rfl
@[simp] theorem State.modWg_fabQ (s : State) (i : Nat) (f : Workgroup → Workgroup) : (s.modWg i f).fabQ = s.fabQ := rfl
@[simp] theorem State.modWg_fabSeqs (s : State) (i : Nat) (f : Workgroup → Workgroup) : (s.modWg i f).fabSeqs = s.fabSeqs := rfl
@[simp] theorem State.modWg_flitErrs (s : State) (i : Nat) (f : Workgroup → Workgroup) : (s.modWg i f).flitErrs = s.flitErrs := rfl
@[simp] theorem State.modWg_lates (s : State) (i : Nat) (f : Workgroup → Workgroup) : (s.modWg i f).lates = s.lates := rfl
@[simp] theorem State.modWg_timeoutK (s : State) (i : Nat) (f : Workgroup → Workgroup) : (s.modWg i f).timeoutK = s.timeoutK := rfl
@[simp] theorem State.modWg_ethDown (s : State) (i : Nat) (f : Workgroup → Workgroup) : (s.modWg i f).ethDown = s.ethDown := rfl
@[simp] theorem State.modWg_cxlTraining (s : State) (i : Nat) (f : Workgroup → Workgroup) : (s.modWg i f).cxlTraining = s.cxlTraining := rfl
@[simp] theorem State.modWg_boot (s : State) (i : Nat) (f : Workgroup → Workgroup) : (s.modWg i f).boot = s.boot := rfl
@[simp] theorem State.modWg_partitions (s : State) (i : Nat) (f : Workgroup → Workgroup) : (s.modWg i f).partitions = s.partitions := rfl
@[simp] theorem State.modWg_ctxs (s : State) (i : Nat) (f : Workgroup → Workgroup) : (s.modWg i f).ctxs = s.ctxs := rfl
@[simp] theorem State.modWg_frames (s : State) (i : Nat) (f : Workgroup → Workgroup) : (s.modWg i f).frames = s.frames := rfl
@[simp] theorem State.modWg_mailboxes (s : State) (i : Nat) (f : Workgroup → Workgroup) : (s.modWg i f).mailboxes = s.mailboxes := rfl
@[simp] theorem State.modWg_mailSeqs (s : State) (i : Nat) (f : Workgroup → Workgroup) : (s.modWg i f).mailSeqs = s.mailSeqs := rfl
@[simp] theorem State.modWg_ccCores (s : State) (i : Nat) (f : Workgroup → Workgroup) : (s.modWg i f).ccCores = s.ccCores := rfl
@[simp] theorem State.modWg_jobs (s : State) (i : Nat) (f : Workgroup → Workgroup) : (s.modWg i f).jobs = s.jobs := rfl
@[simp] theorem State.modWg_levels (s : State) (i : Nat) (f : Workgroup → Workgroup) : (s.modWg i f).levels = s.levels := rfl
@[simp] theorem State.modWg_graphs (s : State) (i : Nat) (f : Workgroup → Workgroup) : (s.modWg i f).graphs = s.graphs := rfl
@[simp] theorem State.modWg_counts (s : State) (i : Nat) (f : Workgroup → Workgroup) : (s.modWg i f).counts = s.counts := rfl
@[simp] theorem State.modWg_steals (s : State) (i : Nat) (f : Workgroup → Workgroup) : (s.modWg i f).steals = s.steals := rfl
@[simp] theorem State.modWg_offers (s : State) (i : Nat) (f : Workgroup → Workgroup) : (s.modWg i f).offers = s.offers := rfl
@[simp] theorem State.modWg_adms (s : State) (i : Nat) (f : Workgroup → Workgroup) : (s.modWg i f).adms = s.adms := rfl
@[simp] theorem State.modWg_troupes (s : State) (i : Nat) (f : Workgroup → Workgroup) : (s.modWg i f).troupes = s.troupes := rfl
@[simp] theorem State.modWg_pipes (s : State) (i : Nat) (f : Workgroup → Workgroup) : (s.modWg i f).pipes = s.pipes := rfl
@[simp] theorem State.modWg_bufs (s : State) (i : Nat) (f : Workgroup → Workgroup) : (s.modWg i f).bufs = s.bufs := rfl
@[simp] theorem State.modWg_reqs (s : State) (i : Nat) (f : Workgroup → Workgroup) : (s.modWg i f).reqs = s.reqs := rfl
@[simp] theorem State.modWg_splits (s : State) (i : Nat) (f : Workgroup → Workgroup) : (s.modWg i f).splits = s.splits := rfl
@[simp] theorem State.modWg_copies (s : State) (i : Nat) (f : Workgroup → Workgroup) : (s.modWg i f).copies = s.copies := rfl
@[simp] theorem State.modWg_signals (s : State) (i : Nat) (f : Workgroup → Workgroup) : (s.modWg i f).signals = s.signals := rfl
@[simp] theorem State.modWg_fills (s : State) (i : Nat) (f : Workgroup → Workgroup) : (s.modWg i f).fills = s.fills := rfl
@[simp] theorem State.modWg_lines (s : State) (i : Nat) (f : Workgroup → Workgroup) : (s.modWg i f).lines = s.lines := rfl
@[simp] theorem State.modWg_l2 (s : State) (i : Nat) (f : Workgroup → Workgroup) : (s.modWg i f).l2 = s.l2 := rfl
@[simp] theorem State.modWg_regions (s : State) (i : Nat) (f : Workgroup → Workgroup) : (s.modWg i f).regions = s.regions := rfl
@[simp] theorem State.modWg_txns (s : State) (i : Nat) (f : Workgroup → Workgroup) : (s.modWg i f).txns = s.txns := rfl
@[simp] theorem State.modWg_wbs (s : State) (i : Nat) (f : Workgroup → Workgroup) : (s.modWg i f).wbs = s.wbs := rfl
@[simp] theorem State.modWg_combines (s : State) (i : Nat) (f : Workgroup → Workgroup) : (s.modWg i f).combines = s.combines := rfl
@[simp] theorem State.modWg_walks (s : State) (i : Nat) (f : Workgroup → Workgroup) : (s.modWg i f).walks = s.walks := rfl
@[simp] theorem State.modWg_tlbs (s : State) (i : Nat) (f : Workgroup → Workgroup) : (s.modWg i f).tlbs = s.tlbs := rfl
@[simp] theorem State.modWg_invals (s : State) (i : Nat) (f : Workgroup → Workgroup) : (s.modWg i f).invals = s.invals := rfl
@[simp] theorem State.modWg_resolving (s : State) (i : Nat) (f : Workgroup → Workgroup) : (s.modWg i f).resolving = s.resolving := rfl
@[simp] theorem State.modWg_opens (s : State) (i : Nat) (f : Workgroup → Workgroup) : (s.modWg i f).opens = s.opens := rfl
@[simp] theorem State.modWg_awaited (s : State) (i : Nat) (f : Workgroup → Workgroup) : (s.modWg i f).awaited = s.awaited := rfl
@[simp] theorem State.modWg_migrs (s : State) (i : Nat) (f : Workgroup → Workgroup) : (s.modWg i f).migrs = s.migrs := rfl
@[simp] theorem State.modWg_banks (s : State) (i : Nat) (f : Workgroup → Workgroup) : (s.modWg i f).banks = s.banks := rfl
@[simp] theorem State.modWg_leases (s : State) (i : Nat) (f : Workgroup → Workgroup) : (s.modWg i f).leases = s.leases := rfl
@[simp] theorem State.modWg_gathers (s : State) (i : Nat) (f : Workgroup → Workgroup) : (s.modWg i f).gathers = s.gathers := rfl
@[simp] theorem State.modWg_parts (s : State) (i : Nat) (f : Workgroup → Workgroup) : (s.modWg i f).parts = s.parts := rfl
@[simp] theorem State.modWg_reductions (s : State) (i : Nat) (f : Workgroup → Workgroup) : (s.modWg i f).reductions = s.reductions := rfl
@[simp] theorem State.modWg_deferred (s : State) (i : Nat) (f : Workgroup → Workgroup) : (s.modWg i f).deferred = s.deferred := rfl
@[simp] theorem State.modWg_peerWins (s : State) (i : Nat) (f : Workgroup → Workgroup) : (s.modWg i f).peerWins = s.peerWins := rfl
@[simp] theorem State.modWg_errors (s : State) (i : Nat) (f : Workgroup → Workgroup) : (s.modWg i f).errors = s.errors := rfl
@[simp] theorem State.modWg_out (s : State) (i : Nat) (f : Workgroup → Workgroup) : (s.modWg i f).out = s.out := rfl

@[simp] theorem State.modTroupe_agenda (s : State) (i j : Nat) (f : Troupe → Troupe) : (s.modTroupe i j f).agenda = s.agenda := rfl
@[simp] theorem State.modTroupe_cur (s : State) (i j : Nat) (f : Troupe → Troupe) : (s.modTroupe i j f).cur = s.cur := rfl
@[simp] theorem State.modTroupe_free (s : State) (i j : Nat) (f : Troupe → Troupe) : (s.modTroupe i j f).free = s.free := rfl
@[simp] theorem State.modTroupe_fresh (s : State) (i j : Nat) (f : Troupe → Troupe) : (s.modTroupe i j f).fresh = s.fresh := rfl
@[simp] theorem State.modTroupe_mem (s : State) (i j : Nat) (f : Troupe → Troupe) : (s.modTroupe i j f).mem = s.mem := rfl
@[simp] theorem State.modTroupe_routers (s : State) (i j : Nat) (f : Troupe → Troupe) : (s.modTroupe i j f).routers = s.routers := rfl
@[simp] theorem State.modTroupe_dies (s : State) (i j : Nat) (f : Troupe → Troupe) : (s.modTroupe i j f).dies = s.dies := rfl
@[simp] theorem State.modTroupe_linksDown (s : State) (i j : Nat) (f : Troupe → Troupe) : (s.modTroupe i j f).linksDown = s.linksDown := rfl
@[simp] theorem State.modTroupe_notices (s : State) (i j : Nat) (f : Troupe → Troupe) : (s.modTroupe i j f).notices = s.notices := rfl
@[simp] theorem State.modTroupe_seqs (s : State) (i j : Nat) (f : Troupe → Troupe) : (s.modTroupe i j f).seqs = s.seqs := rfl
@[simp] theorem State.modTroupe_packets (s : State) (i j : Nat) (f : Troupe → Troupe) : (s.modTroupe i j f).packets = s.packets := rfl
@[simp] theorem State.modTroupe_fabricDown (s : State) (i j : Nat) (f : Troupe → Troupe) : (s.modTroupe i j f).fabricDown = s.fabricDown := rfl
@[simp] theorem State.modTroupe_fabQ (s : State) (i j : Nat) (f : Troupe → Troupe) : (s.modTroupe i j f).fabQ = s.fabQ := rfl
@[simp] theorem State.modTroupe_fabSeqs (s : State) (i j : Nat) (f : Troupe → Troupe) : (s.modTroupe i j f).fabSeqs = s.fabSeqs := rfl
@[simp] theorem State.modTroupe_flitErrs (s : State) (i j : Nat) (f : Troupe → Troupe) : (s.modTroupe i j f).flitErrs = s.flitErrs := rfl
@[simp] theorem State.modTroupe_lates (s : State) (i j : Nat) (f : Troupe → Troupe) : (s.modTroupe i j f).lates = s.lates := rfl
@[simp] theorem State.modTroupe_timeoutK (s : State) (i j : Nat) (f : Troupe → Troupe) : (s.modTroupe i j f).timeoutK = s.timeoutK := rfl
@[simp] theorem State.modTroupe_ethDown (s : State) (i j : Nat) (f : Troupe → Troupe) : (s.modTroupe i j f).ethDown = s.ethDown := rfl
@[simp] theorem State.modTroupe_cxlTraining (s : State) (i j : Nat) (f : Troupe → Troupe) : (s.modTroupe i j f).cxlTraining = s.cxlTraining := rfl
@[simp] theorem State.modTroupe_boot (s : State) (i j : Nat) (f : Troupe → Troupe) : (s.modTroupe i j f).boot = s.boot := rfl
@[simp] theorem State.modTroupe_partitions (s : State) (i j : Nat) (f : Troupe → Troupe) : (s.modTroupe i j f).partitions = s.partitions := rfl
@[simp] theorem State.modTroupe_ctxs (s : State) (i j : Nat) (f : Troupe → Troupe) : (s.modTroupe i j f).ctxs = s.ctxs := rfl
@[simp] theorem State.modTroupe_frames (s : State) (i j : Nat) (f : Troupe → Troupe) : (s.modTroupe i j f).frames = s.frames := rfl
@[simp] theorem State.modTroupe_mailboxes (s : State) (i j : Nat) (f : Troupe → Troupe) : (s.modTroupe i j f).mailboxes = s.mailboxes := rfl
@[simp] theorem State.modTroupe_mailSeqs (s : State) (i j : Nat) (f : Troupe → Troupe) : (s.modTroupe i j f).mailSeqs = s.mailSeqs := rfl
@[simp] theorem State.modTroupe_ccCores (s : State) (i j : Nat) (f : Troupe → Troupe) : (s.modTroupe i j f).ccCores = s.ccCores := rfl
@[simp] theorem State.modTroupe_jobs (s : State) (i j : Nat) (f : Troupe → Troupe) : (s.modTroupe i j f).jobs = s.jobs := rfl
@[simp] theorem State.modTroupe_levels (s : State) (i j : Nat) (f : Troupe → Troupe) : (s.modTroupe i j f).levels = s.levels := rfl
@[simp] theorem State.modTroupe_graphs (s : State) (i j : Nat) (f : Troupe → Troupe) : (s.modTroupe i j f).graphs = s.graphs := rfl
@[simp] theorem State.modTroupe_counts (s : State) (i j : Nat) (f : Troupe → Troupe) : (s.modTroupe i j f).counts = s.counts := rfl
@[simp] theorem State.modTroupe_steals (s : State) (i j : Nat) (f : Troupe → Troupe) : (s.modTroupe i j f).steals = s.steals := rfl
@[simp] theorem State.modTroupe_offers (s : State) (i j : Nat) (f : Troupe → Troupe) : (s.modTroupe i j f).offers = s.offers := rfl
@[simp] theorem State.modTroupe_adms (s : State) (i j : Nat) (f : Troupe → Troupe) : (s.modTroupe i j f).adms = s.adms := rfl
@[simp] theorem State.modTroupe_wgs (s : State) (i j : Nat) (f : Troupe → Troupe) : (s.modTroupe i j f).wgs = s.wgs := rfl
@[simp] theorem State.modTroupe_pipes (s : State) (i j : Nat) (f : Troupe → Troupe) : (s.modTroupe i j f).pipes = s.pipes := rfl
@[simp] theorem State.modTroupe_bufs (s : State) (i j : Nat) (f : Troupe → Troupe) : (s.modTroupe i j f).bufs = s.bufs := rfl
@[simp] theorem State.modTroupe_reqs (s : State) (i j : Nat) (f : Troupe → Troupe) : (s.modTroupe i j f).reqs = s.reqs := rfl
@[simp] theorem State.modTroupe_splits (s : State) (i j : Nat) (f : Troupe → Troupe) : (s.modTroupe i j f).splits = s.splits := rfl
@[simp] theorem State.modTroupe_copies (s : State) (i j : Nat) (f : Troupe → Troupe) : (s.modTroupe i j f).copies = s.copies := rfl
@[simp] theorem State.modTroupe_signals (s : State) (i j : Nat) (f : Troupe → Troupe) : (s.modTroupe i j f).signals = s.signals := rfl
@[simp] theorem State.modTroupe_fills (s : State) (i j : Nat) (f : Troupe → Troupe) : (s.modTroupe i j f).fills = s.fills := rfl
@[simp] theorem State.modTroupe_lines (s : State) (i j : Nat) (f : Troupe → Troupe) : (s.modTroupe i j f).lines = s.lines := rfl
@[simp] theorem State.modTroupe_l2 (s : State) (i j : Nat) (f : Troupe → Troupe) : (s.modTroupe i j f).l2 = s.l2 := rfl
@[simp] theorem State.modTroupe_regions (s : State) (i j : Nat) (f : Troupe → Troupe) : (s.modTroupe i j f).regions = s.regions := rfl
@[simp] theorem State.modTroupe_txns (s : State) (i j : Nat) (f : Troupe → Troupe) : (s.modTroupe i j f).txns = s.txns := rfl
@[simp] theorem State.modTroupe_wbs (s : State) (i j : Nat) (f : Troupe → Troupe) : (s.modTroupe i j f).wbs = s.wbs := rfl
@[simp] theorem State.modTroupe_combines (s : State) (i j : Nat) (f : Troupe → Troupe) : (s.modTroupe i j f).combines = s.combines := rfl
@[simp] theorem State.modTroupe_walks (s : State) (i j : Nat) (f : Troupe → Troupe) : (s.modTroupe i j f).walks = s.walks := rfl
@[simp] theorem State.modTroupe_tlbs (s : State) (i j : Nat) (f : Troupe → Troupe) : (s.modTroupe i j f).tlbs = s.tlbs := rfl
@[simp] theorem State.modTroupe_invals (s : State) (i j : Nat) (f : Troupe → Troupe) : (s.modTroupe i j f).invals = s.invals := rfl
@[simp] theorem State.modTroupe_resolving (s : State) (i j : Nat) (f : Troupe → Troupe) : (s.modTroupe i j f).resolving = s.resolving := rfl
@[simp] theorem State.modTroupe_opens (s : State) (i j : Nat) (f : Troupe → Troupe) : (s.modTroupe i j f).opens = s.opens := rfl
@[simp] theorem State.modTroupe_awaited (s : State) (i j : Nat) (f : Troupe → Troupe) : (s.modTroupe i j f).awaited = s.awaited := rfl
@[simp] theorem State.modTroupe_migrs (s : State) (i j : Nat) (f : Troupe → Troupe) : (s.modTroupe i j f).migrs = s.migrs := rfl
@[simp] theorem State.modTroupe_banks (s : State) (i j : Nat) (f : Troupe → Troupe) : (s.modTroupe i j f).banks = s.banks := rfl
@[simp] theorem State.modTroupe_leases (s : State) (i j : Nat) (f : Troupe → Troupe) : (s.modTroupe i j f).leases = s.leases := rfl
@[simp] theorem State.modTroupe_gathers (s : State) (i j : Nat) (f : Troupe → Troupe) : (s.modTroupe i j f).gathers = s.gathers := rfl
@[simp] theorem State.modTroupe_parts (s : State) (i j : Nat) (f : Troupe → Troupe) : (s.modTroupe i j f).parts = s.parts := rfl
@[simp] theorem State.modTroupe_reductions (s : State) (i j : Nat) (f : Troupe → Troupe) : (s.modTroupe i j f).reductions = s.reductions := rfl
@[simp] theorem State.modTroupe_deferred (s : State) (i j : Nat) (f : Troupe → Troupe) : (s.modTroupe i j f).deferred = s.deferred := rfl
@[simp] theorem State.modTroupe_peerWins (s : State) (i j : Nat) (f : Troupe → Troupe) : (s.modTroupe i j f).peerWins = s.peerWins := rfl
@[simp] theorem State.modTroupe_errors (s : State) (i j : Nat) (f : Troupe → Troupe) : (s.modTroupe i j f).errors = s.errors := rfl
@[simp] theorem State.modTroupe_out (s : State) (i j : Nat) (f : Troupe → Troupe) : (s.modTroupe i j f).out = s.out := rfl

@[simp] theorem State.modCtx_agenda (s : State) (i : Nat) (f : Ctx → Ctx) : (s.modCtx i f).agenda = s.agenda := rfl
@[simp] theorem State.modCtx_cur (s : State) (i : Nat) (f : Ctx → Ctx) : (s.modCtx i f).cur = s.cur := rfl
@[simp] theorem State.modCtx_free (s : State) (i : Nat) (f : Ctx → Ctx) : (s.modCtx i f).free = s.free := rfl
@[simp] theorem State.modCtx_fresh (s : State) (i : Nat) (f : Ctx → Ctx) : (s.modCtx i f).fresh = s.fresh := rfl
@[simp] theorem State.modCtx_mem (s : State) (i : Nat) (f : Ctx → Ctx) : (s.modCtx i f).mem = s.mem := rfl
@[simp] theorem State.modCtx_routers (s : State) (i : Nat) (f : Ctx → Ctx) : (s.modCtx i f).routers = s.routers := rfl
@[simp] theorem State.modCtx_dies (s : State) (i : Nat) (f : Ctx → Ctx) : (s.modCtx i f).dies = s.dies := rfl
@[simp] theorem State.modCtx_linksDown (s : State) (i : Nat) (f : Ctx → Ctx) : (s.modCtx i f).linksDown = s.linksDown := rfl
@[simp] theorem State.modCtx_notices (s : State) (i : Nat) (f : Ctx → Ctx) : (s.modCtx i f).notices = s.notices := rfl
@[simp] theorem State.modCtx_seqs (s : State) (i : Nat) (f : Ctx → Ctx) : (s.modCtx i f).seqs = s.seqs := rfl
@[simp] theorem State.modCtx_packets (s : State) (i : Nat) (f : Ctx → Ctx) : (s.modCtx i f).packets = s.packets := rfl
@[simp] theorem State.modCtx_fabricDown (s : State) (i : Nat) (f : Ctx → Ctx) : (s.modCtx i f).fabricDown = s.fabricDown := rfl
@[simp] theorem State.modCtx_fabQ (s : State) (i : Nat) (f : Ctx → Ctx) : (s.modCtx i f).fabQ = s.fabQ := rfl
@[simp] theorem State.modCtx_fabSeqs (s : State) (i : Nat) (f : Ctx → Ctx) : (s.modCtx i f).fabSeqs = s.fabSeqs := rfl
@[simp] theorem State.modCtx_flitErrs (s : State) (i : Nat) (f : Ctx → Ctx) : (s.modCtx i f).flitErrs = s.flitErrs := rfl
@[simp] theorem State.modCtx_lates (s : State) (i : Nat) (f : Ctx → Ctx) : (s.modCtx i f).lates = s.lates := rfl
@[simp] theorem State.modCtx_timeoutK (s : State) (i : Nat) (f : Ctx → Ctx) : (s.modCtx i f).timeoutK = s.timeoutK := rfl
@[simp] theorem State.modCtx_ethDown (s : State) (i : Nat) (f : Ctx → Ctx) : (s.modCtx i f).ethDown = s.ethDown := rfl
@[simp] theorem State.modCtx_cxlTraining (s : State) (i : Nat) (f : Ctx → Ctx) : (s.modCtx i f).cxlTraining = s.cxlTraining := rfl
@[simp] theorem State.modCtx_boot (s : State) (i : Nat) (f : Ctx → Ctx) : (s.modCtx i f).boot = s.boot := rfl
@[simp] theorem State.modCtx_partitions (s : State) (i : Nat) (f : Ctx → Ctx) : (s.modCtx i f).partitions = s.partitions := rfl
@[simp] theorem State.modCtx_frames (s : State) (i : Nat) (f : Ctx → Ctx) : (s.modCtx i f).frames = s.frames := rfl
@[simp] theorem State.modCtx_mailboxes (s : State) (i : Nat) (f : Ctx → Ctx) : (s.modCtx i f).mailboxes = s.mailboxes := rfl
@[simp] theorem State.modCtx_mailSeqs (s : State) (i : Nat) (f : Ctx → Ctx) : (s.modCtx i f).mailSeqs = s.mailSeqs := rfl
@[simp] theorem State.modCtx_ccCores (s : State) (i : Nat) (f : Ctx → Ctx) : (s.modCtx i f).ccCores = s.ccCores := rfl
@[simp] theorem State.modCtx_jobs (s : State) (i : Nat) (f : Ctx → Ctx) : (s.modCtx i f).jobs = s.jobs := rfl
@[simp] theorem State.modCtx_levels (s : State) (i : Nat) (f : Ctx → Ctx) : (s.modCtx i f).levels = s.levels := rfl
@[simp] theorem State.modCtx_graphs (s : State) (i : Nat) (f : Ctx → Ctx) : (s.modCtx i f).graphs = s.graphs := rfl
@[simp] theorem State.modCtx_counts (s : State) (i : Nat) (f : Ctx → Ctx) : (s.modCtx i f).counts = s.counts := rfl
@[simp] theorem State.modCtx_steals (s : State) (i : Nat) (f : Ctx → Ctx) : (s.modCtx i f).steals = s.steals := rfl
@[simp] theorem State.modCtx_offers (s : State) (i : Nat) (f : Ctx → Ctx) : (s.modCtx i f).offers = s.offers := rfl
@[simp] theorem State.modCtx_adms (s : State) (i : Nat) (f : Ctx → Ctx) : (s.modCtx i f).adms = s.adms := rfl
@[simp] theorem State.modCtx_wgs (s : State) (i : Nat) (f : Ctx → Ctx) : (s.modCtx i f).wgs = s.wgs := rfl
@[simp] theorem State.modCtx_troupes (s : State) (i : Nat) (f : Ctx → Ctx) : (s.modCtx i f).troupes = s.troupes := rfl
@[simp] theorem State.modCtx_pipes (s : State) (i : Nat) (f : Ctx → Ctx) : (s.modCtx i f).pipes = s.pipes := rfl
@[simp] theorem State.modCtx_bufs (s : State) (i : Nat) (f : Ctx → Ctx) : (s.modCtx i f).bufs = s.bufs := rfl
@[simp] theorem State.modCtx_reqs (s : State) (i : Nat) (f : Ctx → Ctx) : (s.modCtx i f).reqs = s.reqs := rfl
@[simp] theorem State.modCtx_splits (s : State) (i : Nat) (f : Ctx → Ctx) : (s.modCtx i f).splits = s.splits := rfl
@[simp] theorem State.modCtx_copies (s : State) (i : Nat) (f : Ctx → Ctx) : (s.modCtx i f).copies = s.copies := rfl
@[simp] theorem State.modCtx_signals (s : State) (i : Nat) (f : Ctx → Ctx) : (s.modCtx i f).signals = s.signals := rfl
@[simp] theorem State.modCtx_fills (s : State) (i : Nat) (f : Ctx → Ctx) : (s.modCtx i f).fills = s.fills := rfl
@[simp] theorem State.modCtx_lines (s : State) (i : Nat) (f : Ctx → Ctx) : (s.modCtx i f).lines = s.lines := rfl
@[simp] theorem State.modCtx_l2 (s : State) (i : Nat) (f : Ctx → Ctx) : (s.modCtx i f).l2 = s.l2 := rfl
@[simp] theorem State.modCtx_regions (s : State) (i : Nat) (f : Ctx → Ctx) : (s.modCtx i f).regions = s.regions := rfl
@[simp] theorem State.modCtx_txns (s : State) (i : Nat) (f : Ctx → Ctx) : (s.modCtx i f).txns = s.txns := rfl
@[simp] theorem State.modCtx_wbs (s : State) (i : Nat) (f : Ctx → Ctx) : (s.modCtx i f).wbs = s.wbs := rfl
@[simp] theorem State.modCtx_combines (s : State) (i : Nat) (f : Ctx → Ctx) : (s.modCtx i f).combines = s.combines := rfl
@[simp] theorem State.modCtx_walks (s : State) (i : Nat) (f : Ctx → Ctx) : (s.modCtx i f).walks = s.walks := rfl
@[simp] theorem State.modCtx_tlbs (s : State) (i : Nat) (f : Ctx → Ctx) : (s.modCtx i f).tlbs = s.tlbs := rfl
@[simp] theorem State.modCtx_invals (s : State) (i : Nat) (f : Ctx → Ctx) : (s.modCtx i f).invals = s.invals := rfl
@[simp] theorem State.modCtx_resolving (s : State) (i : Nat) (f : Ctx → Ctx) : (s.modCtx i f).resolving = s.resolving := rfl
@[simp] theorem State.modCtx_opens (s : State) (i : Nat) (f : Ctx → Ctx) : (s.modCtx i f).opens = s.opens := rfl
@[simp] theorem State.modCtx_awaited (s : State) (i : Nat) (f : Ctx → Ctx) : (s.modCtx i f).awaited = s.awaited := rfl
@[simp] theorem State.modCtx_migrs (s : State) (i : Nat) (f : Ctx → Ctx) : (s.modCtx i f).migrs = s.migrs := rfl
@[simp] theorem State.modCtx_banks (s : State) (i : Nat) (f : Ctx → Ctx) : (s.modCtx i f).banks = s.banks := rfl
@[simp] theorem State.modCtx_leases (s : State) (i : Nat) (f : Ctx → Ctx) : (s.modCtx i f).leases = s.leases := rfl
@[simp] theorem State.modCtx_gathers (s : State) (i : Nat) (f : Ctx → Ctx) : (s.modCtx i f).gathers = s.gathers := rfl
@[simp] theorem State.modCtx_parts (s : State) (i : Nat) (f : Ctx → Ctx) : (s.modCtx i f).parts = s.parts := rfl
@[simp] theorem State.modCtx_reductions (s : State) (i : Nat) (f : Ctx → Ctx) : (s.modCtx i f).reductions = s.reductions := rfl
@[simp] theorem State.modCtx_deferred (s : State) (i : Nat) (f : Ctx → Ctx) : (s.modCtx i f).deferred = s.deferred := rfl
@[simp] theorem State.modCtx_peerWins (s : State) (i : Nat) (f : Ctx → Ctx) : (s.modCtx i f).peerWins = s.peerWins := rfl
@[simp] theorem State.modCtx_errors (s : State) (i : Nat) (f : Ctx → Ctx) : (s.modCtx i f).errors = s.errors := rfl
@[simp] theorem State.modCtx_out (s : State) (i : Nat) (f : Ctx → Ctx) : (s.modCtx i f).out = s.out := rfl

@[simp] theorem State.modDie_agenda (s : State) (i : Nat) (f : Die → Die) : (s.modDie i f).agenda = s.agenda := rfl
@[simp] theorem State.modDie_cur (s : State) (i : Nat) (f : Die → Die) : (s.modDie i f).cur = s.cur := rfl
@[simp] theorem State.modDie_free (s : State) (i : Nat) (f : Die → Die) : (s.modDie i f).free = s.free := rfl
@[simp] theorem State.modDie_fresh (s : State) (i : Nat) (f : Die → Die) : (s.modDie i f).fresh = s.fresh := rfl
@[simp] theorem State.modDie_mem (s : State) (i : Nat) (f : Die → Die) : (s.modDie i f).mem = s.mem := rfl
@[simp] theorem State.modDie_routers (s : State) (i : Nat) (f : Die → Die) : (s.modDie i f).routers = s.routers := rfl
@[simp] theorem State.modDie_linksDown (s : State) (i : Nat) (f : Die → Die) : (s.modDie i f).linksDown = s.linksDown := rfl
@[simp] theorem State.modDie_notices (s : State) (i : Nat) (f : Die → Die) : (s.modDie i f).notices = s.notices := rfl
@[simp] theorem State.modDie_seqs (s : State) (i : Nat) (f : Die → Die) : (s.modDie i f).seqs = s.seqs := rfl
@[simp] theorem State.modDie_packets (s : State) (i : Nat) (f : Die → Die) : (s.modDie i f).packets = s.packets := rfl
@[simp] theorem State.modDie_fabricDown (s : State) (i : Nat) (f : Die → Die) : (s.modDie i f).fabricDown = s.fabricDown := rfl
@[simp] theorem State.modDie_fabQ (s : State) (i : Nat) (f : Die → Die) : (s.modDie i f).fabQ = s.fabQ := rfl
@[simp] theorem State.modDie_fabSeqs (s : State) (i : Nat) (f : Die → Die) : (s.modDie i f).fabSeqs = s.fabSeqs := rfl
@[simp] theorem State.modDie_flitErrs (s : State) (i : Nat) (f : Die → Die) : (s.modDie i f).flitErrs = s.flitErrs := rfl
@[simp] theorem State.modDie_lates (s : State) (i : Nat) (f : Die → Die) : (s.modDie i f).lates = s.lates := rfl
@[simp] theorem State.modDie_timeoutK (s : State) (i : Nat) (f : Die → Die) : (s.modDie i f).timeoutK = s.timeoutK := rfl
@[simp] theorem State.modDie_ethDown (s : State) (i : Nat) (f : Die → Die) : (s.modDie i f).ethDown = s.ethDown := rfl
@[simp] theorem State.modDie_cxlTraining (s : State) (i : Nat) (f : Die → Die) : (s.modDie i f).cxlTraining = s.cxlTraining := rfl
@[simp] theorem State.modDie_boot (s : State) (i : Nat) (f : Die → Die) : (s.modDie i f).boot = s.boot := rfl
@[simp] theorem State.modDie_partitions (s : State) (i : Nat) (f : Die → Die) : (s.modDie i f).partitions = s.partitions := rfl
@[simp] theorem State.modDie_ctxs (s : State) (i : Nat) (f : Die → Die) : (s.modDie i f).ctxs = s.ctxs := rfl
@[simp] theorem State.modDie_frames (s : State) (i : Nat) (f : Die → Die) : (s.modDie i f).frames = s.frames := rfl
@[simp] theorem State.modDie_mailboxes (s : State) (i : Nat) (f : Die → Die) : (s.modDie i f).mailboxes = s.mailboxes := rfl
@[simp] theorem State.modDie_mailSeqs (s : State) (i : Nat) (f : Die → Die) : (s.modDie i f).mailSeqs = s.mailSeqs := rfl
@[simp] theorem State.modDie_ccCores (s : State) (i : Nat) (f : Die → Die) : (s.modDie i f).ccCores = s.ccCores := rfl
@[simp] theorem State.modDie_jobs (s : State) (i : Nat) (f : Die → Die) : (s.modDie i f).jobs = s.jobs := rfl
@[simp] theorem State.modDie_levels (s : State) (i : Nat) (f : Die → Die) : (s.modDie i f).levels = s.levels := rfl
@[simp] theorem State.modDie_graphs (s : State) (i : Nat) (f : Die → Die) : (s.modDie i f).graphs = s.graphs := rfl
@[simp] theorem State.modDie_counts (s : State) (i : Nat) (f : Die → Die) : (s.modDie i f).counts = s.counts := rfl
@[simp] theorem State.modDie_steals (s : State) (i : Nat) (f : Die → Die) : (s.modDie i f).steals = s.steals := rfl
@[simp] theorem State.modDie_offers (s : State) (i : Nat) (f : Die → Die) : (s.modDie i f).offers = s.offers := rfl
@[simp] theorem State.modDie_adms (s : State) (i : Nat) (f : Die → Die) : (s.modDie i f).adms = s.adms := rfl
@[simp] theorem State.modDie_wgs (s : State) (i : Nat) (f : Die → Die) : (s.modDie i f).wgs = s.wgs := rfl
@[simp] theorem State.modDie_troupes (s : State) (i : Nat) (f : Die → Die) : (s.modDie i f).troupes = s.troupes := rfl
@[simp] theorem State.modDie_pipes (s : State) (i : Nat) (f : Die → Die) : (s.modDie i f).pipes = s.pipes := rfl
@[simp] theorem State.modDie_bufs (s : State) (i : Nat) (f : Die → Die) : (s.modDie i f).bufs = s.bufs := rfl
@[simp] theorem State.modDie_reqs (s : State) (i : Nat) (f : Die → Die) : (s.modDie i f).reqs = s.reqs := rfl
@[simp] theorem State.modDie_splits (s : State) (i : Nat) (f : Die → Die) : (s.modDie i f).splits = s.splits := rfl
@[simp] theorem State.modDie_copies (s : State) (i : Nat) (f : Die → Die) : (s.modDie i f).copies = s.copies := rfl
@[simp] theorem State.modDie_signals (s : State) (i : Nat) (f : Die → Die) : (s.modDie i f).signals = s.signals := rfl
@[simp] theorem State.modDie_fills (s : State) (i : Nat) (f : Die → Die) : (s.modDie i f).fills = s.fills := rfl
@[simp] theorem State.modDie_lines (s : State) (i : Nat) (f : Die → Die) : (s.modDie i f).lines = s.lines := rfl
@[simp] theorem State.modDie_l2 (s : State) (i : Nat) (f : Die → Die) : (s.modDie i f).l2 = s.l2 := rfl
@[simp] theorem State.modDie_regions (s : State) (i : Nat) (f : Die → Die) : (s.modDie i f).regions = s.regions := rfl
@[simp] theorem State.modDie_txns (s : State) (i : Nat) (f : Die → Die) : (s.modDie i f).txns = s.txns := rfl
@[simp] theorem State.modDie_wbs (s : State) (i : Nat) (f : Die → Die) : (s.modDie i f).wbs = s.wbs := rfl
@[simp] theorem State.modDie_combines (s : State) (i : Nat) (f : Die → Die) : (s.modDie i f).combines = s.combines := rfl
@[simp] theorem State.modDie_walks (s : State) (i : Nat) (f : Die → Die) : (s.modDie i f).walks = s.walks := rfl
@[simp] theorem State.modDie_tlbs (s : State) (i : Nat) (f : Die → Die) : (s.modDie i f).tlbs = s.tlbs := rfl
@[simp] theorem State.modDie_invals (s : State) (i : Nat) (f : Die → Die) : (s.modDie i f).invals = s.invals := rfl
@[simp] theorem State.modDie_resolving (s : State) (i : Nat) (f : Die → Die) : (s.modDie i f).resolving = s.resolving := rfl
@[simp] theorem State.modDie_opens (s : State) (i : Nat) (f : Die → Die) : (s.modDie i f).opens = s.opens := rfl
@[simp] theorem State.modDie_awaited (s : State) (i : Nat) (f : Die → Die) : (s.modDie i f).awaited = s.awaited := rfl
@[simp] theorem State.modDie_migrs (s : State) (i : Nat) (f : Die → Die) : (s.modDie i f).migrs = s.migrs := rfl
@[simp] theorem State.modDie_banks (s : State) (i : Nat) (f : Die → Die) : (s.modDie i f).banks = s.banks := rfl
@[simp] theorem State.modDie_leases (s : State) (i : Nat) (f : Die → Die) : (s.modDie i f).leases = s.leases := rfl
@[simp] theorem State.modDie_gathers (s : State) (i : Nat) (f : Die → Die) : (s.modDie i f).gathers = s.gathers := rfl
@[simp] theorem State.modDie_parts (s : State) (i : Nat) (f : Die → Die) : (s.modDie i f).parts = s.parts := rfl
@[simp] theorem State.modDie_reductions (s : State) (i : Nat) (f : Die → Die) : (s.modDie i f).reductions = s.reductions := rfl
@[simp] theorem State.modDie_deferred (s : State) (i : Nat) (f : Die → Die) : (s.modDie i f).deferred = s.deferred := rfl
@[simp] theorem State.modDie_peerWins (s : State) (i : Nat) (f : Die → Die) : (s.modDie i f).peerWins = s.peerWins := rfl
@[simp] theorem State.modDie_errors (s : State) (i : Nat) (f : Die → Die) : (s.modDie i f).errors = s.errors := rfl
@[simp] theorem State.modDie_out (s : State) (i : Nat) (f : Die → Die) : (s.modDie i f).out = s.out := rfl

@[simp] theorem State.modPipe_agenda (s : State) (i : Nat) (f : Pipe → Pipe) : (s.modPipe i f).agenda = s.agenda := rfl
@[simp] theorem State.modPipe_cur (s : State) (i : Nat) (f : Pipe → Pipe) : (s.modPipe i f).cur = s.cur := rfl
@[simp] theorem State.modPipe_free (s : State) (i : Nat) (f : Pipe → Pipe) : (s.modPipe i f).free = s.free := rfl
@[simp] theorem State.modPipe_fresh (s : State) (i : Nat) (f : Pipe → Pipe) : (s.modPipe i f).fresh = s.fresh := rfl
@[simp] theorem State.modPipe_mem (s : State) (i : Nat) (f : Pipe → Pipe) : (s.modPipe i f).mem = s.mem := rfl
@[simp] theorem State.modPipe_routers (s : State) (i : Nat) (f : Pipe → Pipe) : (s.modPipe i f).routers = s.routers := rfl
@[simp] theorem State.modPipe_dies (s : State) (i : Nat) (f : Pipe → Pipe) : (s.modPipe i f).dies = s.dies := rfl
@[simp] theorem State.modPipe_linksDown (s : State) (i : Nat) (f : Pipe → Pipe) : (s.modPipe i f).linksDown = s.linksDown := rfl
@[simp] theorem State.modPipe_notices (s : State) (i : Nat) (f : Pipe → Pipe) : (s.modPipe i f).notices = s.notices := rfl
@[simp] theorem State.modPipe_seqs (s : State) (i : Nat) (f : Pipe → Pipe) : (s.modPipe i f).seqs = s.seqs := rfl
@[simp] theorem State.modPipe_packets (s : State) (i : Nat) (f : Pipe → Pipe) : (s.modPipe i f).packets = s.packets := rfl
@[simp] theorem State.modPipe_fabricDown (s : State) (i : Nat) (f : Pipe → Pipe) : (s.modPipe i f).fabricDown = s.fabricDown := rfl
@[simp] theorem State.modPipe_fabQ (s : State) (i : Nat) (f : Pipe → Pipe) : (s.modPipe i f).fabQ = s.fabQ := rfl
@[simp] theorem State.modPipe_fabSeqs (s : State) (i : Nat) (f : Pipe → Pipe) : (s.modPipe i f).fabSeqs = s.fabSeqs := rfl
@[simp] theorem State.modPipe_flitErrs (s : State) (i : Nat) (f : Pipe → Pipe) : (s.modPipe i f).flitErrs = s.flitErrs := rfl
@[simp] theorem State.modPipe_lates (s : State) (i : Nat) (f : Pipe → Pipe) : (s.modPipe i f).lates = s.lates := rfl
@[simp] theorem State.modPipe_timeoutK (s : State) (i : Nat) (f : Pipe → Pipe) : (s.modPipe i f).timeoutK = s.timeoutK := rfl
@[simp] theorem State.modPipe_ethDown (s : State) (i : Nat) (f : Pipe → Pipe) : (s.modPipe i f).ethDown = s.ethDown := rfl
@[simp] theorem State.modPipe_cxlTraining (s : State) (i : Nat) (f : Pipe → Pipe) : (s.modPipe i f).cxlTraining = s.cxlTraining := rfl
@[simp] theorem State.modPipe_boot (s : State) (i : Nat) (f : Pipe → Pipe) : (s.modPipe i f).boot = s.boot := rfl
@[simp] theorem State.modPipe_partitions (s : State) (i : Nat) (f : Pipe → Pipe) : (s.modPipe i f).partitions = s.partitions := rfl
@[simp] theorem State.modPipe_ctxs (s : State) (i : Nat) (f : Pipe → Pipe) : (s.modPipe i f).ctxs = s.ctxs := rfl
@[simp] theorem State.modPipe_frames (s : State) (i : Nat) (f : Pipe → Pipe) : (s.modPipe i f).frames = s.frames := rfl
@[simp] theorem State.modPipe_mailboxes (s : State) (i : Nat) (f : Pipe → Pipe) : (s.modPipe i f).mailboxes = s.mailboxes := rfl
@[simp] theorem State.modPipe_mailSeqs (s : State) (i : Nat) (f : Pipe → Pipe) : (s.modPipe i f).mailSeqs = s.mailSeqs := rfl
@[simp] theorem State.modPipe_ccCores (s : State) (i : Nat) (f : Pipe → Pipe) : (s.modPipe i f).ccCores = s.ccCores := rfl
@[simp] theorem State.modPipe_jobs (s : State) (i : Nat) (f : Pipe → Pipe) : (s.modPipe i f).jobs = s.jobs := rfl
@[simp] theorem State.modPipe_levels (s : State) (i : Nat) (f : Pipe → Pipe) : (s.modPipe i f).levels = s.levels := rfl
@[simp] theorem State.modPipe_graphs (s : State) (i : Nat) (f : Pipe → Pipe) : (s.modPipe i f).graphs = s.graphs := rfl
@[simp] theorem State.modPipe_counts (s : State) (i : Nat) (f : Pipe → Pipe) : (s.modPipe i f).counts = s.counts := rfl
@[simp] theorem State.modPipe_steals (s : State) (i : Nat) (f : Pipe → Pipe) : (s.modPipe i f).steals = s.steals := rfl
@[simp] theorem State.modPipe_offers (s : State) (i : Nat) (f : Pipe → Pipe) : (s.modPipe i f).offers = s.offers := rfl
@[simp] theorem State.modPipe_adms (s : State) (i : Nat) (f : Pipe → Pipe) : (s.modPipe i f).adms = s.adms := rfl
@[simp] theorem State.modPipe_wgs (s : State) (i : Nat) (f : Pipe → Pipe) : (s.modPipe i f).wgs = s.wgs := rfl
@[simp] theorem State.modPipe_troupes (s : State) (i : Nat) (f : Pipe → Pipe) : (s.modPipe i f).troupes = s.troupes := rfl
@[simp] theorem State.modPipe_bufs (s : State) (i : Nat) (f : Pipe → Pipe) : (s.modPipe i f).bufs = s.bufs := rfl
@[simp] theorem State.modPipe_reqs (s : State) (i : Nat) (f : Pipe → Pipe) : (s.modPipe i f).reqs = s.reqs := rfl
@[simp] theorem State.modPipe_splits (s : State) (i : Nat) (f : Pipe → Pipe) : (s.modPipe i f).splits = s.splits := rfl
@[simp] theorem State.modPipe_copies (s : State) (i : Nat) (f : Pipe → Pipe) : (s.modPipe i f).copies = s.copies := rfl
@[simp] theorem State.modPipe_signals (s : State) (i : Nat) (f : Pipe → Pipe) : (s.modPipe i f).signals = s.signals := rfl
@[simp] theorem State.modPipe_fills (s : State) (i : Nat) (f : Pipe → Pipe) : (s.modPipe i f).fills = s.fills := rfl
@[simp] theorem State.modPipe_lines (s : State) (i : Nat) (f : Pipe → Pipe) : (s.modPipe i f).lines = s.lines := rfl
@[simp] theorem State.modPipe_l2 (s : State) (i : Nat) (f : Pipe → Pipe) : (s.modPipe i f).l2 = s.l2 := rfl
@[simp] theorem State.modPipe_regions (s : State) (i : Nat) (f : Pipe → Pipe) : (s.modPipe i f).regions = s.regions := rfl
@[simp] theorem State.modPipe_txns (s : State) (i : Nat) (f : Pipe → Pipe) : (s.modPipe i f).txns = s.txns := rfl
@[simp] theorem State.modPipe_wbs (s : State) (i : Nat) (f : Pipe → Pipe) : (s.modPipe i f).wbs = s.wbs := rfl
@[simp] theorem State.modPipe_combines (s : State) (i : Nat) (f : Pipe → Pipe) : (s.modPipe i f).combines = s.combines := rfl
@[simp] theorem State.modPipe_walks (s : State) (i : Nat) (f : Pipe → Pipe) : (s.modPipe i f).walks = s.walks := rfl
@[simp] theorem State.modPipe_tlbs (s : State) (i : Nat) (f : Pipe → Pipe) : (s.modPipe i f).tlbs = s.tlbs := rfl
@[simp] theorem State.modPipe_invals (s : State) (i : Nat) (f : Pipe → Pipe) : (s.modPipe i f).invals = s.invals := rfl
@[simp] theorem State.modPipe_resolving (s : State) (i : Nat) (f : Pipe → Pipe) : (s.modPipe i f).resolving = s.resolving := rfl
@[simp] theorem State.modPipe_opens (s : State) (i : Nat) (f : Pipe → Pipe) : (s.modPipe i f).opens = s.opens := rfl
@[simp] theorem State.modPipe_awaited (s : State) (i : Nat) (f : Pipe → Pipe) : (s.modPipe i f).awaited = s.awaited := rfl
@[simp] theorem State.modPipe_migrs (s : State) (i : Nat) (f : Pipe → Pipe) : (s.modPipe i f).migrs = s.migrs := rfl
@[simp] theorem State.modPipe_banks (s : State) (i : Nat) (f : Pipe → Pipe) : (s.modPipe i f).banks = s.banks := rfl
@[simp] theorem State.modPipe_leases (s : State) (i : Nat) (f : Pipe → Pipe) : (s.modPipe i f).leases = s.leases := rfl
@[simp] theorem State.modPipe_gathers (s : State) (i : Nat) (f : Pipe → Pipe) : (s.modPipe i f).gathers = s.gathers := rfl
@[simp] theorem State.modPipe_parts (s : State) (i : Nat) (f : Pipe → Pipe) : (s.modPipe i f).parts = s.parts := rfl
@[simp] theorem State.modPipe_reductions (s : State) (i : Nat) (f : Pipe → Pipe) : (s.modPipe i f).reductions = s.reductions := rfl
@[simp] theorem State.modPipe_deferred (s : State) (i : Nat) (f : Pipe → Pipe) : (s.modPipe i f).deferred = s.deferred := rfl
@[simp] theorem State.modPipe_peerWins (s : State) (i : Nat) (f : Pipe → Pipe) : (s.modPipe i f).peerWins = s.peerWins := rfl
@[simp] theorem State.modPipe_errors (s : State) (i : Nat) (f : Pipe → Pipe) : (s.modPipe i f).errors = s.errors := rfl
@[simp] theorem State.modPipe_out (s : State) (i : Nat) (f : Pipe → Pipe) : (s.modPipe i f).out = s.out := rfl

@[simp] theorem State.modLevel_agenda (s : State) (i : Nat) (f : Level → Level) : (s.modLevel i f).agenda = s.agenda := rfl
@[simp] theorem State.modLevel_cur (s : State) (i : Nat) (f : Level → Level) : (s.modLevel i f).cur = s.cur := rfl
@[simp] theorem State.modLevel_free (s : State) (i : Nat) (f : Level → Level) : (s.modLevel i f).free = s.free := rfl
@[simp] theorem State.modLevel_fresh (s : State) (i : Nat) (f : Level → Level) : (s.modLevel i f).fresh = s.fresh := rfl
@[simp] theorem State.modLevel_mem (s : State) (i : Nat) (f : Level → Level) : (s.modLevel i f).mem = s.mem := rfl
@[simp] theorem State.modLevel_routers (s : State) (i : Nat) (f : Level → Level) : (s.modLevel i f).routers = s.routers := rfl
@[simp] theorem State.modLevel_dies (s : State) (i : Nat) (f : Level → Level) : (s.modLevel i f).dies = s.dies := rfl
@[simp] theorem State.modLevel_linksDown (s : State) (i : Nat) (f : Level → Level) : (s.modLevel i f).linksDown = s.linksDown := rfl
@[simp] theorem State.modLevel_notices (s : State) (i : Nat) (f : Level → Level) : (s.modLevel i f).notices = s.notices := rfl
@[simp] theorem State.modLevel_seqs (s : State) (i : Nat) (f : Level → Level) : (s.modLevel i f).seqs = s.seqs := rfl
@[simp] theorem State.modLevel_packets (s : State) (i : Nat) (f : Level → Level) : (s.modLevel i f).packets = s.packets := rfl
@[simp] theorem State.modLevel_fabricDown (s : State) (i : Nat) (f : Level → Level) : (s.modLevel i f).fabricDown = s.fabricDown := rfl
@[simp] theorem State.modLevel_fabQ (s : State) (i : Nat) (f : Level → Level) : (s.modLevel i f).fabQ = s.fabQ := rfl
@[simp] theorem State.modLevel_fabSeqs (s : State) (i : Nat) (f : Level → Level) : (s.modLevel i f).fabSeqs = s.fabSeqs := rfl
@[simp] theorem State.modLevel_flitErrs (s : State) (i : Nat) (f : Level → Level) : (s.modLevel i f).flitErrs = s.flitErrs := rfl
@[simp] theorem State.modLevel_lates (s : State) (i : Nat) (f : Level → Level) : (s.modLevel i f).lates = s.lates := rfl
@[simp] theorem State.modLevel_timeoutK (s : State) (i : Nat) (f : Level → Level) : (s.modLevel i f).timeoutK = s.timeoutK := rfl
@[simp] theorem State.modLevel_ethDown (s : State) (i : Nat) (f : Level → Level) : (s.modLevel i f).ethDown = s.ethDown := rfl
@[simp] theorem State.modLevel_cxlTraining (s : State) (i : Nat) (f : Level → Level) : (s.modLevel i f).cxlTraining = s.cxlTraining := rfl
@[simp] theorem State.modLevel_boot (s : State) (i : Nat) (f : Level → Level) : (s.modLevel i f).boot = s.boot := rfl
@[simp] theorem State.modLevel_partitions (s : State) (i : Nat) (f : Level → Level) : (s.modLevel i f).partitions = s.partitions := rfl
@[simp] theorem State.modLevel_ctxs (s : State) (i : Nat) (f : Level → Level) : (s.modLevel i f).ctxs = s.ctxs := rfl
@[simp] theorem State.modLevel_frames (s : State) (i : Nat) (f : Level → Level) : (s.modLevel i f).frames = s.frames := rfl
@[simp] theorem State.modLevel_mailboxes (s : State) (i : Nat) (f : Level → Level) : (s.modLevel i f).mailboxes = s.mailboxes := rfl
@[simp] theorem State.modLevel_mailSeqs (s : State) (i : Nat) (f : Level → Level) : (s.modLevel i f).mailSeqs = s.mailSeqs := rfl
@[simp] theorem State.modLevel_ccCores (s : State) (i : Nat) (f : Level → Level) : (s.modLevel i f).ccCores = s.ccCores := rfl
@[simp] theorem State.modLevel_jobs (s : State) (i : Nat) (f : Level → Level) : (s.modLevel i f).jobs = s.jobs := rfl
@[simp] theorem State.modLevel_graphs (s : State) (i : Nat) (f : Level → Level) : (s.modLevel i f).graphs = s.graphs := rfl
@[simp] theorem State.modLevel_counts (s : State) (i : Nat) (f : Level → Level) : (s.modLevel i f).counts = s.counts := rfl
@[simp] theorem State.modLevel_steals (s : State) (i : Nat) (f : Level → Level) : (s.modLevel i f).steals = s.steals := rfl
@[simp] theorem State.modLevel_offers (s : State) (i : Nat) (f : Level → Level) : (s.modLevel i f).offers = s.offers := rfl
@[simp] theorem State.modLevel_adms (s : State) (i : Nat) (f : Level → Level) : (s.modLevel i f).adms = s.adms := rfl
@[simp] theorem State.modLevel_wgs (s : State) (i : Nat) (f : Level → Level) : (s.modLevel i f).wgs = s.wgs := rfl
@[simp] theorem State.modLevel_troupes (s : State) (i : Nat) (f : Level → Level) : (s.modLevel i f).troupes = s.troupes := rfl
@[simp] theorem State.modLevel_pipes (s : State) (i : Nat) (f : Level → Level) : (s.modLevel i f).pipes = s.pipes := rfl
@[simp] theorem State.modLevel_bufs (s : State) (i : Nat) (f : Level → Level) : (s.modLevel i f).bufs = s.bufs := rfl
@[simp] theorem State.modLevel_reqs (s : State) (i : Nat) (f : Level → Level) : (s.modLevel i f).reqs = s.reqs := rfl
@[simp] theorem State.modLevel_splits (s : State) (i : Nat) (f : Level → Level) : (s.modLevel i f).splits = s.splits := rfl
@[simp] theorem State.modLevel_copies (s : State) (i : Nat) (f : Level → Level) : (s.modLevel i f).copies = s.copies := rfl
@[simp] theorem State.modLevel_signals (s : State) (i : Nat) (f : Level → Level) : (s.modLevel i f).signals = s.signals := rfl
@[simp] theorem State.modLevel_fills (s : State) (i : Nat) (f : Level → Level) : (s.modLevel i f).fills = s.fills := rfl
@[simp] theorem State.modLevel_lines (s : State) (i : Nat) (f : Level → Level) : (s.modLevel i f).lines = s.lines := rfl
@[simp] theorem State.modLevel_l2 (s : State) (i : Nat) (f : Level → Level) : (s.modLevel i f).l2 = s.l2 := rfl
@[simp] theorem State.modLevel_regions (s : State) (i : Nat) (f : Level → Level) : (s.modLevel i f).regions = s.regions := rfl
@[simp] theorem State.modLevel_txns (s : State) (i : Nat) (f : Level → Level) : (s.modLevel i f).txns = s.txns := rfl
@[simp] theorem State.modLevel_wbs (s : State) (i : Nat) (f : Level → Level) : (s.modLevel i f).wbs = s.wbs := rfl
@[simp] theorem State.modLevel_combines (s : State) (i : Nat) (f : Level → Level) : (s.modLevel i f).combines = s.combines := rfl
@[simp] theorem State.modLevel_walks (s : State) (i : Nat) (f : Level → Level) : (s.modLevel i f).walks = s.walks := rfl
@[simp] theorem State.modLevel_tlbs (s : State) (i : Nat) (f : Level → Level) : (s.modLevel i f).tlbs = s.tlbs := rfl
@[simp] theorem State.modLevel_invals (s : State) (i : Nat) (f : Level → Level) : (s.modLevel i f).invals = s.invals := rfl
@[simp] theorem State.modLevel_resolving (s : State) (i : Nat) (f : Level → Level) : (s.modLevel i f).resolving = s.resolving := rfl
@[simp] theorem State.modLevel_opens (s : State) (i : Nat) (f : Level → Level) : (s.modLevel i f).opens = s.opens := rfl
@[simp] theorem State.modLevel_awaited (s : State) (i : Nat) (f : Level → Level) : (s.modLevel i f).awaited = s.awaited := rfl
@[simp] theorem State.modLevel_migrs (s : State) (i : Nat) (f : Level → Level) : (s.modLevel i f).migrs = s.migrs := rfl
@[simp] theorem State.modLevel_banks (s : State) (i : Nat) (f : Level → Level) : (s.modLevel i f).banks = s.banks := rfl
@[simp] theorem State.modLevel_leases (s : State) (i : Nat) (f : Level → Level) : (s.modLevel i f).leases = s.leases := rfl
@[simp] theorem State.modLevel_gathers (s : State) (i : Nat) (f : Level → Level) : (s.modLevel i f).gathers = s.gathers := rfl
@[simp] theorem State.modLevel_parts (s : State) (i : Nat) (f : Level → Level) : (s.modLevel i f).parts = s.parts := rfl
@[simp] theorem State.modLevel_reductions (s : State) (i : Nat) (f : Level → Level) : (s.modLevel i f).reductions = s.reductions := rfl
@[simp] theorem State.modLevel_deferred (s : State) (i : Nat) (f : Level → Level) : (s.modLevel i f).deferred = s.deferred := rfl
@[simp] theorem State.modLevel_peerWins (s : State) (i : Nat) (f : Level → Level) : (s.modLevel i f).peerWins = s.peerWins := rfl
@[simp] theorem State.modLevel_errors (s : State) (i : Nat) (f : Level → Level) : (s.modLevel i f).errors = s.errors := rfl
@[simp] theorem State.modLevel_out (s : State) (i : Nat) (f : Level → Level) : (s.modLevel i f).out = s.out := rfl

@[simp] theorem State.modGraph_agenda (s : State) (i : Nat) (f : Graph → Graph) : (s.modGraph i f).agenda = s.agenda := rfl
@[simp] theorem State.modGraph_cur (s : State) (i : Nat) (f : Graph → Graph) : (s.modGraph i f).cur = s.cur := rfl
@[simp] theorem State.modGraph_free (s : State) (i : Nat) (f : Graph → Graph) : (s.modGraph i f).free = s.free := rfl
@[simp] theorem State.modGraph_fresh (s : State) (i : Nat) (f : Graph → Graph) : (s.modGraph i f).fresh = s.fresh := rfl
@[simp] theorem State.modGraph_mem (s : State) (i : Nat) (f : Graph → Graph) : (s.modGraph i f).mem = s.mem := rfl
@[simp] theorem State.modGraph_routers (s : State) (i : Nat) (f : Graph → Graph) : (s.modGraph i f).routers = s.routers := rfl
@[simp] theorem State.modGraph_dies (s : State) (i : Nat) (f : Graph → Graph) : (s.modGraph i f).dies = s.dies := rfl
@[simp] theorem State.modGraph_linksDown (s : State) (i : Nat) (f : Graph → Graph) : (s.modGraph i f).linksDown = s.linksDown := rfl
@[simp] theorem State.modGraph_notices (s : State) (i : Nat) (f : Graph → Graph) : (s.modGraph i f).notices = s.notices := rfl
@[simp] theorem State.modGraph_seqs (s : State) (i : Nat) (f : Graph → Graph) : (s.modGraph i f).seqs = s.seqs := rfl
@[simp] theorem State.modGraph_packets (s : State) (i : Nat) (f : Graph → Graph) : (s.modGraph i f).packets = s.packets := rfl
@[simp] theorem State.modGraph_fabricDown (s : State) (i : Nat) (f : Graph → Graph) : (s.modGraph i f).fabricDown = s.fabricDown := rfl
@[simp] theorem State.modGraph_fabQ (s : State) (i : Nat) (f : Graph → Graph) : (s.modGraph i f).fabQ = s.fabQ := rfl
@[simp] theorem State.modGraph_fabSeqs (s : State) (i : Nat) (f : Graph → Graph) : (s.modGraph i f).fabSeqs = s.fabSeqs := rfl
@[simp] theorem State.modGraph_flitErrs (s : State) (i : Nat) (f : Graph → Graph) : (s.modGraph i f).flitErrs = s.flitErrs := rfl
@[simp] theorem State.modGraph_lates (s : State) (i : Nat) (f : Graph → Graph) : (s.modGraph i f).lates = s.lates := rfl
@[simp] theorem State.modGraph_timeoutK (s : State) (i : Nat) (f : Graph → Graph) : (s.modGraph i f).timeoutK = s.timeoutK := rfl
@[simp] theorem State.modGraph_ethDown (s : State) (i : Nat) (f : Graph → Graph) : (s.modGraph i f).ethDown = s.ethDown := rfl
@[simp] theorem State.modGraph_cxlTraining (s : State) (i : Nat) (f : Graph → Graph) : (s.modGraph i f).cxlTraining = s.cxlTraining := rfl
@[simp] theorem State.modGraph_boot (s : State) (i : Nat) (f : Graph → Graph) : (s.modGraph i f).boot = s.boot := rfl
@[simp] theorem State.modGraph_partitions (s : State) (i : Nat) (f : Graph → Graph) : (s.modGraph i f).partitions = s.partitions := rfl
@[simp] theorem State.modGraph_ctxs (s : State) (i : Nat) (f : Graph → Graph) : (s.modGraph i f).ctxs = s.ctxs := rfl
@[simp] theorem State.modGraph_frames (s : State) (i : Nat) (f : Graph → Graph) : (s.modGraph i f).frames = s.frames := rfl
@[simp] theorem State.modGraph_mailboxes (s : State) (i : Nat) (f : Graph → Graph) : (s.modGraph i f).mailboxes = s.mailboxes := rfl
@[simp] theorem State.modGraph_mailSeqs (s : State) (i : Nat) (f : Graph → Graph) : (s.modGraph i f).mailSeqs = s.mailSeqs := rfl
@[simp] theorem State.modGraph_ccCores (s : State) (i : Nat) (f : Graph → Graph) : (s.modGraph i f).ccCores = s.ccCores := rfl
@[simp] theorem State.modGraph_jobs (s : State) (i : Nat) (f : Graph → Graph) : (s.modGraph i f).jobs = s.jobs := rfl
@[simp] theorem State.modGraph_levels (s : State) (i : Nat) (f : Graph → Graph) : (s.modGraph i f).levels = s.levels := rfl
@[simp] theorem State.modGraph_counts (s : State) (i : Nat) (f : Graph → Graph) : (s.modGraph i f).counts = s.counts := rfl
@[simp] theorem State.modGraph_steals (s : State) (i : Nat) (f : Graph → Graph) : (s.modGraph i f).steals = s.steals := rfl
@[simp] theorem State.modGraph_offers (s : State) (i : Nat) (f : Graph → Graph) : (s.modGraph i f).offers = s.offers := rfl
@[simp] theorem State.modGraph_adms (s : State) (i : Nat) (f : Graph → Graph) : (s.modGraph i f).adms = s.adms := rfl
@[simp] theorem State.modGraph_wgs (s : State) (i : Nat) (f : Graph → Graph) : (s.modGraph i f).wgs = s.wgs := rfl
@[simp] theorem State.modGraph_troupes (s : State) (i : Nat) (f : Graph → Graph) : (s.modGraph i f).troupes = s.troupes := rfl
@[simp] theorem State.modGraph_pipes (s : State) (i : Nat) (f : Graph → Graph) : (s.modGraph i f).pipes = s.pipes := rfl
@[simp] theorem State.modGraph_bufs (s : State) (i : Nat) (f : Graph → Graph) : (s.modGraph i f).bufs = s.bufs := rfl
@[simp] theorem State.modGraph_reqs (s : State) (i : Nat) (f : Graph → Graph) : (s.modGraph i f).reqs = s.reqs := rfl
@[simp] theorem State.modGraph_splits (s : State) (i : Nat) (f : Graph → Graph) : (s.modGraph i f).splits = s.splits := rfl
@[simp] theorem State.modGraph_copies (s : State) (i : Nat) (f : Graph → Graph) : (s.modGraph i f).copies = s.copies := rfl
@[simp] theorem State.modGraph_signals (s : State) (i : Nat) (f : Graph → Graph) : (s.modGraph i f).signals = s.signals := rfl
@[simp] theorem State.modGraph_fills (s : State) (i : Nat) (f : Graph → Graph) : (s.modGraph i f).fills = s.fills := rfl
@[simp] theorem State.modGraph_lines (s : State) (i : Nat) (f : Graph → Graph) : (s.modGraph i f).lines = s.lines := rfl
@[simp] theorem State.modGraph_l2 (s : State) (i : Nat) (f : Graph → Graph) : (s.modGraph i f).l2 = s.l2 := rfl
@[simp] theorem State.modGraph_regions (s : State) (i : Nat) (f : Graph → Graph) : (s.modGraph i f).regions = s.regions := rfl
@[simp] theorem State.modGraph_txns (s : State) (i : Nat) (f : Graph → Graph) : (s.modGraph i f).txns = s.txns := rfl
@[simp] theorem State.modGraph_wbs (s : State) (i : Nat) (f : Graph → Graph) : (s.modGraph i f).wbs = s.wbs := rfl
@[simp] theorem State.modGraph_combines (s : State) (i : Nat) (f : Graph → Graph) : (s.modGraph i f).combines = s.combines := rfl
@[simp] theorem State.modGraph_walks (s : State) (i : Nat) (f : Graph → Graph) : (s.modGraph i f).walks = s.walks := rfl
@[simp] theorem State.modGraph_tlbs (s : State) (i : Nat) (f : Graph → Graph) : (s.modGraph i f).tlbs = s.tlbs := rfl
@[simp] theorem State.modGraph_invals (s : State) (i : Nat) (f : Graph → Graph) : (s.modGraph i f).invals = s.invals := rfl
@[simp] theorem State.modGraph_resolving (s : State) (i : Nat) (f : Graph → Graph) : (s.modGraph i f).resolving = s.resolving := rfl
@[simp] theorem State.modGraph_opens (s : State) (i : Nat) (f : Graph → Graph) : (s.modGraph i f).opens = s.opens := rfl
@[simp] theorem State.modGraph_awaited (s : State) (i : Nat) (f : Graph → Graph) : (s.modGraph i f).awaited = s.awaited := rfl
@[simp] theorem State.modGraph_migrs (s : State) (i : Nat) (f : Graph → Graph) : (s.modGraph i f).migrs = s.migrs := rfl
@[simp] theorem State.modGraph_banks (s : State) (i : Nat) (f : Graph → Graph) : (s.modGraph i f).banks = s.banks := rfl
@[simp] theorem State.modGraph_leases (s : State) (i : Nat) (f : Graph → Graph) : (s.modGraph i f).leases = s.leases := rfl
@[simp] theorem State.modGraph_gathers (s : State) (i : Nat) (f : Graph → Graph) : (s.modGraph i f).gathers = s.gathers := rfl
@[simp] theorem State.modGraph_parts (s : State) (i : Nat) (f : Graph → Graph) : (s.modGraph i f).parts = s.parts := rfl
@[simp] theorem State.modGraph_reductions (s : State) (i : Nat) (f : Graph → Graph) : (s.modGraph i f).reductions = s.reductions := rfl
@[simp] theorem State.modGraph_deferred (s : State) (i : Nat) (f : Graph → Graph) : (s.modGraph i f).deferred = s.deferred := rfl
@[simp] theorem State.modGraph_peerWins (s : State) (i : Nat) (f : Graph → Graph) : (s.modGraph i f).peerWins = s.peerWins := rfl
@[simp] theorem State.modGraph_errors (s : State) (i : Nat) (f : Graph → Graph) : (s.modGraph i f).errors = s.errors := rfl
@[simp] theorem State.modGraph_out (s : State) (i : Nat) (f : Graph → Graph) : (s.modGraph i f).out = s.out := rfl

@[simp] theorem State.modPart_agenda (s : State) (i : Nat) (f : Partition → Partition) : (s.modPart i f).agenda = s.agenda := rfl
@[simp] theorem State.modPart_cur (s : State) (i : Nat) (f : Partition → Partition) : (s.modPart i f).cur = s.cur := rfl
@[simp] theorem State.modPart_free (s : State) (i : Nat) (f : Partition → Partition) : (s.modPart i f).free = s.free := rfl
@[simp] theorem State.modPart_fresh (s : State) (i : Nat) (f : Partition → Partition) : (s.modPart i f).fresh = s.fresh := rfl
@[simp] theorem State.modPart_mem (s : State) (i : Nat) (f : Partition → Partition) : (s.modPart i f).mem = s.mem := rfl
@[simp] theorem State.modPart_routers (s : State) (i : Nat) (f : Partition → Partition) : (s.modPart i f).routers = s.routers := rfl
@[simp] theorem State.modPart_dies (s : State) (i : Nat) (f : Partition → Partition) : (s.modPart i f).dies = s.dies := rfl
@[simp] theorem State.modPart_linksDown (s : State) (i : Nat) (f : Partition → Partition) : (s.modPart i f).linksDown = s.linksDown := rfl
@[simp] theorem State.modPart_notices (s : State) (i : Nat) (f : Partition → Partition) : (s.modPart i f).notices = s.notices := rfl
@[simp] theorem State.modPart_seqs (s : State) (i : Nat) (f : Partition → Partition) : (s.modPart i f).seqs = s.seqs := rfl
@[simp] theorem State.modPart_packets (s : State) (i : Nat) (f : Partition → Partition) : (s.modPart i f).packets = s.packets := rfl
@[simp] theorem State.modPart_fabricDown (s : State) (i : Nat) (f : Partition → Partition) : (s.modPart i f).fabricDown = s.fabricDown := rfl
@[simp] theorem State.modPart_fabQ (s : State) (i : Nat) (f : Partition → Partition) : (s.modPart i f).fabQ = s.fabQ := rfl
@[simp] theorem State.modPart_fabSeqs (s : State) (i : Nat) (f : Partition → Partition) : (s.modPart i f).fabSeqs = s.fabSeqs := rfl
@[simp] theorem State.modPart_flitErrs (s : State) (i : Nat) (f : Partition → Partition) : (s.modPart i f).flitErrs = s.flitErrs := rfl
@[simp] theorem State.modPart_lates (s : State) (i : Nat) (f : Partition → Partition) : (s.modPart i f).lates = s.lates := rfl
@[simp] theorem State.modPart_timeoutK (s : State) (i : Nat) (f : Partition → Partition) : (s.modPart i f).timeoutK = s.timeoutK := rfl
@[simp] theorem State.modPart_ethDown (s : State) (i : Nat) (f : Partition → Partition) : (s.modPart i f).ethDown = s.ethDown := rfl
@[simp] theorem State.modPart_cxlTraining (s : State) (i : Nat) (f : Partition → Partition) : (s.modPart i f).cxlTraining = s.cxlTraining := rfl
@[simp] theorem State.modPart_boot (s : State) (i : Nat) (f : Partition → Partition) : (s.modPart i f).boot = s.boot := rfl
@[simp] theorem State.modPart_ctxs (s : State) (i : Nat) (f : Partition → Partition) : (s.modPart i f).ctxs = s.ctxs := rfl
@[simp] theorem State.modPart_frames (s : State) (i : Nat) (f : Partition → Partition) : (s.modPart i f).frames = s.frames := rfl
@[simp] theorem State.modPart_mailboxes (s : State) (i : Nat) (f : Partition → Partition) : (s.modPart i f).mailboxes = s.mailboxes := rfl
@[simp] theorem State.modPart_mailSeqs (s : State) (i : Nat) (f : Partition → Partition) : (s.modPart i f).mailSeqs = s.mailSeqs := rfl
@[simp] theorem State.modPart_ccCores (s : State) (i : Nat) (f : Partition → Partition) : (s.modPart i f).ccCores = s.ccCores := rfl
@[simp] theorem State.modPart_jobs (s : State) (i : Nat) (f : Partition → Partition) : (s.modPart i f).jobs = s.jobs := rfl
@[simp] theorem State.modPart_levels (s : State) (i : Nat) (f : Partition → Partition) : (s.modPart i f).levels = s.levels := rfl
@[simp] theorem State.modPart_graphs (s : State) (i : Nat) (f : Partition → Partition) : (s.modPart i f).graphs = s.graphs := rfl
@[simp] theorem State.modPart_counts (s : State) (i : Nat) (f : Partition → Partition) : (s.modPart i f).counts = s.counts := rfl
@[simp] theorem State.modPart_steals (s : State) (i : Nat) (f : Partition → Partition) : (s.modPart i f).steals = s.steals := rfl
@[simp] theorem State.modPart_offers (s : State) (i : Nat) (f : Partition → Partition) : (s.modPart i f).offers = s.offers := rfl
@[simp] theorem State.modPart_adms (s : State) (i : Nat) (f : Partition → Partition) : (s.modPart i f).adms = s.adms := rfl
@[simp] theorem State.modPart_wgs (s : State) (i : Nat) (f : Partition → Partition) : (s.modPart i f).wgs = s.wgs := rfl
@[simp] theorem State.modPart_troupes (s : State) (i : Nat) (f : Partition → Partition) : (s.modPart i f).troupes = s.troupes := rfl
@[simp] theorem State.modPart_pipes (s : State) (i : Nat) (f : Partition → Partition) : (s.modPart i f).pipes = s.pipes := rfl
@[simp] theorem State.modPart_bufs (s : State) (i : Nat) (f : Partition → Partition) : (s.modPart i f).bufs = s.bufs := rfl
@[simp] theorem State.modPart_reqs (s : State) (i : Nat) (f : Partition → Partition) : (s.modPart i f).reqs = s.reqs := rfl
@[simp] theorem State.modPart_splits (s : State) (i : Nat) (f : Partition → Partition) : (s.modPart i f).splits = s.splits := rfl
@[simp] theorem State.modPart_copies (s : State) (i : Nat) (f : Partition → Partition) : (s.modPart i f).copies = s.copies := rfl
@[simp] theorem State.modPart_signals (s : State) (i : Nat) (f : Partition → Partition) : (s.modPart i f).signals = s.signals := rfl
@[simp] theorem State.modPart_fills (s : State) (i : Nat) (f : Partition → Partition) : (s.modPart i f).fills = s.fills := rfl
@[simp] theorem State.modPart_lines (s : State) (i : Nat) (f : Partition → Partition) : (s.modPart i f).lines = s.lines := rfl
@[simp] theorem State.modPart_l2 (s : State) (i : Nat) (f : Partition → Partition) : (s.modPart i f).l2 = s.l2 := rfl
@[simp] theorem State.modPart_regions (s : State) (i : Nat) (f : Partition → Partition) : (s.modPart i f).regions = s.regions := rfl
@[simp] theorem State.modPart_txns (s : State) (i : Nat) (f : Partition → Partition) : (s.modPart i f).txns = s.txns := rfl
@[simp] theorem State.modPart_wbs (s : State) (i : Nat) (f : Partition → Partition) : (s.modPart i f).wbs = s.wbs := rfl
@[simp] theorem State.modPart_combines (s : State) (i : Nat) (f : Partition → Partition) : (s.modPart i f).combines = s.combines := rfl
@[simp] theorem State.modPart_walks (s : State) (i : Nat) (f : Partition → Partition) : (s.modPart i f).walks = s.walks := rfl
@[simp] theorem State.modPart_tlbs (s : State) (i : Nat) (f : Partition → Partition) : (s.modPart i f).tlbs = s.tlbs := rfl
@[simp] theorem State.modPart_invals (s : State) (i : Nat) (f : Partition → Partition) : (s.modPart i f).invals = s.invals := rfl
@[simp] theorem State.modPart_resolving (s : State) (i : Nat) (f : Partition → Partition) : (s.modPart i f).resolving = s.resolving := rfl
@[simp] theorem State.modPart_opens (s : State) (i : Nat) (f : Partition → Partition) : (s.modPart i f).opens = s.opens := rfl
@[simp] theorem State.modPart_awaited (s : State) (i : Nat) (f : Partition → Partition) : (s.modPart i f).awaited = s.awaited := rfl
@[simp] theorem State.modPart_migrs (s : State) (i : Nat) (f : Partition → Partition) : (s.modPart i f).migrs = s.migrs := rfl
@[simp] theorem State.modPart_banks (s : State) (i : Nat) (f : Partition → Partition) : (s.modPart i f).banks = s.banks := rfl
@[simp] theorem State.modPart_leases (s : State) (i : Nat) (f : Partition → Partition) : (s.modPart i f).leases = s.leases := rfl
@[simp] theorem State.modPart_gathers (s : State) (i : Nat) (f : Partition → Partition) : (s.modPart i f).gathers = s.gathers := rfl
@[simp] theorem State.modPart_parts (s : State) (i : Nat) (f : Partition → Partition) : (s.modPart i f).parts = s.parts := rfl
@[simp] theorem State.modPart_reductions (s : State) (i : Nat) (f : Partition → Partition) : (s.modPart i f).reductions = s.reductions := rfl
@[simp] theorem State.modPart_deferred (s : State) (i : Nat) (f : Partition → Partition) : (s.modPart i f).deferred = s.deferred := rfl
@[simp] theorem State.modPart_peerWins (s : State) (i : Nat) (f : Partition → Partition) : (s.modPart i f).peerWins = s.peerWins := rfl
@[simp] theorem State.modPart_errors (s : State) (i : Nat) (f : Partition → Partition) : (s.modPart i f).errors = s.errors := rfl
@[simp] theorem State.modPart_out (s : State) (i : Nat) (f : Partition → Partition) : (s.modPart i f).out = s.out := rfl

@[simp] theorem State.modReq_agenda (s : State) (i : Nat) (f : MemReq → MemReq) : (s.modReq i f).agenda = s.agenda := rfl
@[simp] theorem State.modReq_cur (s : State) (i : Nat) (f : MemReq → MemReq) : (s.modReq i f).cur = s.cur := rfl
@[simp] theorem State.modReq_free (s : State) (i : Nat) (f : MemReq → MemReq) : (s.modReq i f).free = s.free := rfl
@[simp] theorem State.modReq_fresh (s : State) (i : Nat) (f : MemReq → MemReq) : (s.modReq i f).fresh = s.fresh := rfl
@[simp] theorem State.modReq_mem (s : State) (i : Nat) (f : MemReq → MemReq) : (s.modReq i f).mem = s.mem := rfl
@[simp] theorem State.modReq_routers (s : State) (i : Nat) (f : MemReq → MemReq) : (s.modReq i f).routers = s.routers := rfl
@[simp] theorem State.modReq_dies (s : State) (i : Nat) (f : MemReq → MemReq) : (s.modReq i f).dies = s.dies := rfl
@[simp] theorem State.modReq_linksDown (s : State) (i : Nat) (f : MemReq → MemReq) : (s.modReq i f).linksDown = s.linksDown := rfl
@[simp] theorem State.modReq_notices (s : State) (i : Nat) (f : MemReq → MemReq) : (s.modReq i f).notices = s.notices := rfl
@[simp] theorem State.modReq_seqs (s : State) (i : Nat) (f : MemReq → MemReq) : (s.modReq i f).seqs = s.seqs := rfl
@[simp] theorem State.modReq_packets (s : State) (i : Nat) (f : MemReq → MemReq) : (s.modReq i f).packets = s.packets := rfl
@[simp] theorem State.modReq_fabricDown (s : State) (i : Nat) (f : MemReq → MemReq) : (s.modReq i f).fabricDown = s.fabricDown := rfl
@[simp] theorem State.modReq_fabQ (s : State) (i : Nat) (f : MemReq → MemReq) : (s.modReq i f).fabQ = s.fabQ := rfl
@[simp] theorem State.modReq_fabSeqs (s : State) (i : Nat) (f : MemReq → MemReq) : (s.modReq i f).fabSeqs = s.fabSeqs := rfl
@[simp] theorem State.modReq_flitErrs (s : State) (i : Nat) (f : MemReq → MemReq) : (s.modReq i f).flitErrs = s.flitErrs := rfl
@[simp] theorem State.modReq_lates (s : State) (i : Nat) (f : MemReq → MemReq) : (s.modReq i f).lates = s.lates := rfl
@[simp] theorem State.modReq_timeoutK (s : State) (i : Nat) (f : MemReq → MemReq) : (s.modReq i f).timeoutK = s.timeoutK := rfl
@[simp] theorem State.modReq_ethDown (s : State) (i : Nat) (f : MemReq → MemReq) : (s.modReq i f).ethDown = s.ethDown := rfl
@[simp] theorem State.modReq_cxlTraining (s : State) (i : Nat) (f : MemReq → MemReq) : (s.modReq i f).cxlTraining = s.cxlTraining := rfl
@[simp] theorem State.modReq_boot (s : State) (i : Nat) (f : MemReq → MemReq) : (s.modReq i f).boot = s.boot := rfl
@[simp] theorem State.modReq_partitions (s : State) (i : Nat) (f : MemReq → MemReq) : (s.modReq i f).partitions = s.partitions := rfl
@[simp] theorem State.modReq_ctxs (s : State) (i : Nat) (f : MemReq → MemReq) : (s.modReq i f).ctxs = s.ctxs := rfl
@[simp] theorem State.modReq_frames (s : State) (i : Nat) (f : MemReq → MemReq) : (s.modReq i f).frames = s.frames := rfl
@[simp] theorem State.modReq_mailboxes (s : State) (i : Nat) (f : MemReq → MemReq) : (s.modReq i f).mailboxes = s.mailboxes := rfl
@[simp] theorem State.modReq_mailSeqs (s : State) (i : Nat) (f : MemReq → MemReq) : (s.modReq i f).mailSeqs = s.mailSeqs := rfl
@[simp] theorem State.modReq_ccCores (s : State) (i : Nat) (f : MemReq → MemReq) : (s.modReq i f).ccCores = s.ccCores := rfl
@[simp] theorem State.modReq_jobs (s : State) (i : Nat) (f : MemReq → MemReq) : (s.modReq i f).jobs = s.jobs := rfl
@[simp] theorem State.modReq_levels (s : State) (i : Nat) (f : MemReq → MemReq) : (s.modReq i f).levels = s.levels := rfl
@[simp] theorem State.modReq_graphs (s : State) (i : Nat) (f : MemReq → MemReq) : (s.modReq i f).graphs = s.graphs := rfl
@[simp] theorem State.modReq_counts (s : State) (i : Nat) (f : MemReq → MemReq) : (s.modReq i f).counts = s.counts := rfl
@[simp] theorem State.modReq_steals (s : State) (i : Nat) (f : MemReq → MemReq) : (s.modReq i f).steals = s.steals := rfl
@[simp] theorem State.modReq_offers (s : State) (i : Nat) (f : MemReq → MemReq) : (s.modReq i f).offers = s.offers := rfl
@[simp] theorem State.modReq_adms (s : State) (i : Nat) (f : MemReq → MemReq) : (s.modReq i f).adms = s.adms := rfl
@[simp] theorem State.modReq_wgs (s : State) (i : Nat) (f : MemReq → MemReq) : (s.modReq i f).wgs = s.wgs := rfl
@[simp] theorem State.modReq_troupes (s : State) (i : Nat) (f : MemReq → MemReq) : (s.modReq i f).troupes = s.troupes := rfl
@[simp] theorem State.modReq_pipes (s : State) (i : Nat) (f : MemReq → MemReq) : (s.modReq i f).pipes = s.pipes := rfl
@[simp] theorem State.modReq_bufs (s : State) (i : Nat) (f : MemReq → MemReq) : (s.modReq i f).bufs = s.bufs := rfl
@[simp] theorem State.modReq_splits (s : State) (i : Nat) (f : MemReq → MemReq) : (s.modReq i f).splits = s.splits := rfl
@[simp] theorem State.modReq_copies (s : State) (i : Nat) (f : MemReq → MemReq) : (s.modReq i f).copies = s.copies := rfl
@[simp] theorem State.modReq_signals (s : State) (i : Nat) (f : MemReq → MemReq) : (s.modReq i f).signals = s.signals := rfl
@[simp] theorem State.modReq_fills (s : State) (i : Nat) (f : MemReq → MemReq) : (s.modReq i f).fills = s.fills := rfl
@[simp] theorem State.modReq_lines (s : State) (i : Nat) (f : MemReq → MemReq) : (s.modReq i f).lines = s.lines := rfl
@[simp] theorem State.modReq_l2 (s : State) (i : Nat) (f : MemReq → MemReq) : (s.modReq i f).l2 = s.l2 := rfl
@[simp] theorem State.modReq_regions (s : State) (i : Nat) (f : MemReq → MemReq) : (s.modReq i f).regions = s.regions := rfl
@[simp] theorem State.modReq_txns (s : State) (i : Nat) (f : MemReq → MemReq) : (s.modReq i f).txns = s.txns := rfl
@[simp] theorem State.modReq_wbs (s : State) (i : Nat) (f : MemReq → MemReq) : (s.modReq i f).wbs = s.wbs := rfl
@[simp] theorem State.modReq_combines (s : State) (i : Nat) (f : MemReq → MemReq) : (s.modReq i f).combines = s.combines := rfl
@[simp] theorem State.modReq_walks (s : State) (i : Nat) (f : MemReq → MemReq) : (s.modReq i f).walks = s.walks := rfl
@[simp] theorem State.modReq_tlbs (s : State) (i : Nat) (f : MemReq → MemReq) : (s.modReq i f).tlbs = s.tlbs := rfl
@[simp] theorem State.modReq_invals (s : State) (i : Nat) (f : MemReq → MemReq) : (s.modReq i f).invals = s.invals := rfl
@[simp] theorem State.modReq_resolving (s : State) (i : Nat) (f : MemReq → MemReq) : (s.modReq i f).resolving = s.resolving := rfl
@[simp] theorem State.modReq_opens (s : State) (i : Nat) (f : MemReq → MemReq) : (s.modReq i f).opens = s.opens := rfl
@[simp] theorem State.modReq_awaited (s : State) (i : Nat) (f : MemReq → MemReq) : (s.modReq i f).awaited = s.awaited := rfl
@[simp] theorem State.modReq_migrs (s : State) (i : Nat) (f : MemReq → MemReq) : (s.modReq i f).migrs = s.migrs := rfl
@[simp] theorem State.modReq_banks (s : State) (i : Nat) (f : MemReq → MemReq) : (s.modReq i f).banks = s.banks := rfl
@[simp] theorem State.modReq_leases (s : State) (i : Nat) (f : MemReq → MemReq) : (s.modReq i f).leases = s.leases := rfl
@[simp] theorem State.modReq_gathers (s : State) (i : Nat) (f : MemReq → MemReq) : (s.modReq i f).gathers = s.gathers := rfl
@[simp] theorem State.modReq_parts (s : State) (i : Nat) (f : MemReq → MemReq) : (s.modReq i f).parts = s.parts := rfl
@[simp] theorem State.modReq_reductions (s : State) (i : Nat) (f : MemReq → MemReq) : (s.modReq i f).reductions = s.reductions := rfl
@[simp] theorem State.modReq_deferred (s : State) (i : Nat) (f : MemReq → MemReq) : (s.modReq i f).deferred = s.deferred := rfl
@[simp] theorem State.modReq_peerWins (s : State) (i : Nat) (f : MemReq → MemReq) : (s.modReq i f).peerWins = s.peerWins := rfl
@[simp] theorem State.modReq_errors (s : State) (i : Nat) (f : MemReq → MemReq) : (s.modReq i f).errors = s.errors := rfl
@[simp] theorem State.modReq_out (s : State) (i : Nat) (f : MemReq → MemReq) : (s.modReq i f).out = s.out := rfl

@[simp] theorem State.report_agenda (s : State) (es : List ErrRec) : (s.report es).agenda = s.agenda := rfl
@[simp] theorem State.report_cur (s : State) (es : List ErrRec) : (s.report es).cur = s.cur := rfl
@[simp] theorem State.report_free (s : State) (es : List ErrRec) : (s.report es).free = s.free := rfl
@[simp] theorem State.report_fresh (s : State) (es : List ErrRec) : (s.report es).fresh = s.fresh := rfl
@[simp] theorem State.report_mem (s : State) (es : List ErrRec) : (s.report es).mem = s.mem := rfl
@[simp] theorem State.report_routers (s : State) (es : List ErrRec) : (s.report es).routers = s.routers := rfl
@[simp] theorem State.report_dies (s : State) (es : List ErrRec) : (s.report es).dies = s.dies := rfl
@[simp] theorem State.report_linksDown (s : State) (es : List ErrRec) : (s.report es).linksDown = s.linksDown := rfl
@[simp] theorem State.report_notices (s : State) (es : List ErrRec) : (s.report es).notices = s.notices := rfl
@[simp] theorem State.report_seqs (s : State) (es : List ErrRec) : (s.report es).seqs = s.seqs := rfl
@[simp] theorem State.report_packets (s : State) (es : List ErrRec) : (s.report es).packets = s.packets := rfl
@[simp] theorem State.report_fabricDown (s : State) (es : List ErrRec) : (s.report es).fabricDown = s.fabricDown := rfl
@[simp] theorem State.report_fabQ (s : State) (es : List ErrRec) : (s.report es).fabQ = s.fabQ := rfl
@[simp] theorem State.report_fabSeqs (s : State) (es : List ErrRec) : (s.report es).fabSeqs = s.fabSeqs := rfl
@[simp] theorem State.report_flitErrs (s : State) (es : List ErrRec) : (s.report es).flitErrs = s.flitErrs := rfl
@[simp] theorem State.report_lates (s : State) (es : List ErrRec) : (s.report es).lates = s.lates := rfl
@[simp] theorem State.report_timeoutK (s : State) (es : List ErrRec) : (s.report es).timeoutK = s.timeoutK := rfl
@[simp] theorem State.report_ethDown (s : State) (es : List ErrRec) : (s.report es).ethDown = s.ethDown := rfl
@[simp] theorem State.report_cxlTraining (s : State) (es : List ErrRec) : (s.report es).cxlTraining = s.cxlTraining := rfl
@[simp] theorem State.report_boot (s : State) (es : List ErrRec) : (s.report es).boot = s.boot := rfl
@[simp] theorem State.report_partitions (s : State) (es : List ErrRec) : (s.report es).partitions = s.partitions := rfl
@[simp] theorem State.report_ctxs (s : State) (es : List ErrRec) : (s.report es).ctxs = s.ctxs := rfl
@[simp] theorem State.report_frames (s : State) (es : List ErrRec) : (s.report es).frames = s.frames := rfl
@[simp] theorem State.report_mailboxes (s : State) (es : List ErrRec) : (s.report es).mailboxes = s.mailboxes := rfl
@[simp] theorem State.report_mailSeqs (s : State) (es : List ErrRec) : (s.report es).mailSeqs = s.mailSeqs := rfl
@[simp] theorem State.report_ccCores (s : State) (es : List ErrRec) : (s.report es).ccCores = s.ccCores := rfl
@[simp] theorem State.report_jobs (s : State) (es : List ErrRec) : (s.report es).jobs = s.jobs := rfl
@[simp] theorem State.report_levels (s : State) (es : List ErrRec) : (s.report es).levels = s.levels := rfl
@[simp] theorem State.report_graphs (s : State) (es : List ErrRec) : (s.report es).graphs = s.graphs := rfl
@[simp] theorem State.report_counts (s : State) (es : List ErrRec) : (s.report es).counts = s.counts := rfl
@[simp] theorem State.report_steals (s : State) (es : List ErrRec) : (s.report es).steals = s.steals := rfl
@[simp] theorem State.report_offers (s : State) (es : List ErrRec) : (s.report es).offers = s.offers := rfl
@[simp] theorem State.report_adms (s : State) (es : List ErrRec) : (s.report es).adms = s.adms := rfl
@[simp] theorem State.report_wgs (s : State) (es : List ErrRec) : (s.report es).wgs = s.wgs := rfl
@[simp] theorem State.report_troupes (s : State) (es : List ErrRec) : (s.report es).troupes = s.troupes := rfl
@[simp] theorem State.report_pipes (s : State) (es : List ErrRec) : (s.report es).pipes = s.pipes := rfl
@[simp] theorem State.report_bufs (s : State) (es : List ErrRec) : (s.report es).bufs = s.bufs := rfl
@[simp] theorem State.report_reqs (s : State) (es : List ErrRec) : (s.report es).reqs = s.reqs := rfl
@[simp] theorem State.report_splits (s : State) (es : List ErrRec) : (s.report es).splits = s.splits := rfl
@[simp] theorem State.report_copies (s : State) (es : List ErrRec) : (s.report es).copies = s.copies := rfl
@[simp] theorem State.report_signals (s : State) (es : List ErrRec) : (s.report es).signals = s.signals := rfl
@[simp] theorem State.report_fills (s : State) (es : List ErrRec) : (s.report es).fills = s.fills := rfl
@[simp] theorem State.report_lines (s : State) (es : List ErrRec) : (s.report es).lines = s.lines := rfl
@[simp] theorem State.report_l2 (s : State) (es : List ErrRec) : (s.report es).l2 = s.l2 := rfl
@[simp] theorem State.report_regions (s : State) (es : List ErrRec) : (s.report es).regions = s.regions := rfl
@[simp] theorem State.report_txns (s : State) (es : List ErrRec) : (s.report es).txns = s.txns := rfl
@[simp] theorem State.report_wbs (s : State) (es : List ErrRec) : (s.report es).wbs = s.wbs := rfl
@[simp] theorem State.report_combines (s : State) (es : List ErrRec) : (s.report es).combines = s.combines := rfl
@[simp] theorem State.report_walks (s : State) (es : List ErrRec) : (s.report es).walks = s.walks := rfl
@[simp] theorem State.report_tlbs (s : State) (es : List ErrRec) : (s.report es).tlbs = s.tlbs := rfl
@[simp] theorem State.report_invals (s : State) (es : List ErrRec) : (s.report es).invals = s.invals := rfl
@[simp] theorem State.report_resolving (s : State) (es : List ErrRec) : (s.report es).resolving = s.resolving := rfl
@[simp] theorem State.report_opens (s : State) (es : List ErrRec) : (s.report es).opens = s.opens := rfl
@[simp] theorem State.report_awaited (s : State) (es : List ErrRec) : (s.report es).awaited = s.awaited := rfl
@[simp] theorem State.report_migrs (s : State) (es : List ErrRec) : (s.report es).migrs = s.migrs := rfl
@[simp] theorem State.report_banks (s : State) (es : List ErrRec) : (s.report es).banks = s.banks := rfl
@[simp] theorem State.report_leases (s : State) (es : List ErrRec) : (s.report es).leases = s.leases := rfl
@[simp] theorem State.report_gathers (s : State) (es : List ErrRec) : (s.report es).gathers = s.gathers := rfl
@[simp] theorem State.report_parts (s : State) (es : List ErrRec) : (s.report es).parts = s.parts := rfl
@[simp] theorem State.report_reductions (s : State) (es : List ErrRec) : (s.report es).reductions = s.reductions := rfl
@[simp] theorem State.report_deferred (s : State) (es : List ErrRec) : (s.report es).deferred = s.deferred := rfl
@[simp] theorem State.report_peerWins (s : State) (es : List ErrRec) : (s.report es).peerWins = s.peerWins := rfl
@[simp] theorem State.report_out (s : State) (es : List ErrRec) : (s.report es).out = s.out := rfl

@[simp] theorem State.bump_agenda (s : State) : (s.bump).agenda = s.agenda := rfl
@[simp] theorem State.bump_cur (s : State) : (s.bump).cur = s.cur := rfl
@[simp] theorem State.bump_free (s : State) : (s.bump).free = s.free := rfl
@[simp] theorem State.bump_mem (s : State) : (s.bump).mem = s.mem := rfl
@[simp] theorem State.bump_routers (s : State) : (s.bump).routers = s.routers := rfl
@[simp] theorem State.bump_dies (s : State) : (s.bump).dies = s.dies := rfl
@[simp] theorem State.bump_linksDown (s : State) : (s.bump).linksDown = s.linksDown := rfl
@[simp] theorem State.bump_notices (s : State) : (s.bump).notices = s.notices := rfl
@[simp] theorem State.bump_seqs (s : State) : (s.bump).seqs = s.seqs := rfl
@[simp] theorem State.bump_packets (s : State) : (s.bump).packets = s.packets := rfl
@[simp] theorem State.bump_fabricDown (s : State) : (s.bump).fabricDown = s.fabricDown := rfl
@[simp] theorem State.bump_fabQ (s : State) : (s.bump).fabQ = s.fabQ := rfl
@[simp] theorem State.bump_fabSeqs (s : State) : (s.bump).fabSeqs = s.fabSeqs := rfl
@[simp] theorem State.bump_flitErrs (s : State) : (s.bump).flitErrs = s.flitErrs := rfl
@[simp] theorem State.bump_lates (s : State) : (s.bump).lates = s.lates := rfl
@[simp] theorem State.bump_timeoutK (s : State) : (s.bump).timeoutK = s.timeoutK := rfl
@[simp] theorem State.bump_ethDown (s : State) : (s.bump).ethDown = s.ethDown := rfl
@[simp] theorem State.bump_cxlTraining (s : State) : (s.bump).cxlTraining = s.cxlTraining := rfl
@[simp] theorem State.bump_boot (s : State) : (s.bump).boot = s.boot := rfl
@[simp] theorem State.bump_partitions (s : State) : (s.bump).partitions = s.partitions := rfl
@[simp] theorem State.bump_ctxs (s : State) : (s.bump).ctxs = s.ctxs := rfl
@[simp] theorem State.bump_frames (s : State) : (s.bump).frames = s.frames := rfl
@[simp] theorem State.bump_mailboxes (s : State) : (s.bump).mailboxes = s.mailboxes := rfl
@[simp] theorem State.bump_mailSeqs (s : State) : (s.bump).mailSeqs = s.mailSeqs := rfl
@[simp] theorem State.bump_ccCores (s : State) : (s.bump).ccCores = s.ccCores := rfl
@[simp] theorem State.bump_jobs (s : State) : (s.bump).jobs = s.jobs := rfl
@[simp] theorem State.bump_levels (s : State) : (s.bump).levels = s.levels := rfl
@[simp] theorem State.bump_graphs (s : State) : (s.bump).graphs = s.graphs := rfl
@[simp] theorem State.bump_counts (s : State) : (s.bump).counts = s.counts := rfl
@[simp] theorem State.bump_steals (s : State) : (s.bump).steals = s.steals := rfl
@[simp] theorem State.bump_offers (s : State) : (s.bump).offers = s.offers := rfl
@[simp] theorem State.bump_adms (s : State) : (s.bump).adms = s.adms := rfl
@[simp] theorem State.bump_wgs (s : State) : (s.bump).wgs = s.wgs := rfl
@[simp] theorem State.bump_troupes (s : State) : (s.bump).troupes = s.troupes := rfl
@[simp] theorem State.bump_pipes (s : State) : (s.bump).pipes = s.pipes := rfl
@[simp] theorem State.bump_bufs (s : State) : (s.bump).bufs = s.bufs := rfl
@[simp] theorem State.bump_reqs (s : State) : (s.bump).reqs = s.reqs := rfl
@[simp] theorem State.bump_splits (s : State) : (s.bump).splits = s.splits := rfl
@[simp] theorem State.bump_copies (s : State) : (s.bump).copies = s.copies := rfl
@[simp] theorem State.bump_signals (s : State) : (s.bump).signals = s.signals := rfl
@[simp] theorem State.bump_fills (s : State) : (s.bump).fills = s.fills := rfl
@[simp] theorem State.bump_lines (s : State) : (s.bump).lines = s.lines := rfl
@[simp] theorem State.bump_l2 (s : State) : (s.bump).l2 = s.l2 := rfl
@[simp] theorem State.bump_regions (s : State) : (s.bump).regions = s.regions := rfl
@[simp] theorem State.bump_txns (s : State) : (s.bump).txns = s.txns := rfl
@[simp] theorem State.bump_wbs (s : State) : (s.bump).wbs = s.wbs := rfl
@[simp] theorem State.bump_combines (s : State) : (s.bump).combines = s.combines := rfl
@[simp] theorem State.bump_walks (s : State) : (s.bump).walks = s.walks := rfl
@[simp] theorem State.bump_tlbs (s : State) : (s.bump).tlbs = s.tlbs := rfl
@[simp] theorem State.bump_invals (s : State) : (s.bump).invals = s.invals := rfl
@[simp] theorem State.bump_resolving (s : State) : (s.bump).resolving = s.resolving := rfl
@[simp] theorem State.bump_opens (s : State) : (s.bump).opens = s.opens := rfl
@[simp] theorem State.bump_awaited (s : State) : (s.bump).awaited = s.awaited := rfl
@[simp] theorem State.bump_migrs (s : State) : (s.bump).migrs = s.migrs := rfl
@[simp] theorem State.bump_banks (s : State) : (s.bump).banks = s.banks := rfl
@[simp] theorem State.bump_leases (s : State) : (s.bump).leases = s.leases := rfl
@[simp] theorem State.bump_gathers (s : State) : (s.bump).gathers = s.gathers := rfl
@[simp] theorem State.bump_parts (s : State) : (s.bump).parts = s.parts := rfl
@[simp] theorem State.bump_reductions (s : State) : (s.bump).reductions = s.reductions := rfl
@[simp] theorem State.bump_deferred (s : State) : (s.bump).deferred = s.deferred := rfl
@[simp] theorem State.bump_peerWins (s : State) : (s.bump).peerWins = s.peerWins := rfl
@[simp] theorem State.bump_errors (s : State) : (s.bump).errors = s.errors := rfl
@[simp] theorem State.bump_out (s : State) : (s.bump).out = s.out := rfl

@[simp] theorem State.bump_fresh (s : State) : s.bump.fresh = s.fresh + 1 := rfl

/-! ## Updates of a troupe -/

@[simp] theorem Troupe.setV_wg (t : Troupe) (n : Nat) (m : Mask) (v : Lanes) : (t.setV n m v).wg = t.wg := rfl
@[simp] theorem Troupe.setV_trix (t : Troupe) (n : Nat) (m : Mask) (v : Lanes) : (t.setV n m v).trix = t.trix := rfl
@[simp] theorem Troupe.setV_pipe (t : Troupe) (n : Nat) (m : Mask) (v : Lanes) : (t.setV n m v).pipe = t.pipe := rfl
@[simp] theorem Troupe.setV_slot (t : Troupe) (n : Nat) (m : Mask) (v : Lanes) : (t.setV n m v).slot = t.slot := rfl
@[simp] theorem Troupe.setV_pc (t : Troupe) (n : Nat) (m : Mask) (v : Lanes) : (t.setV n m v).pc = t.pc := rfl
@[simp] theorem Troupe.setV_sregs (t : Troupe) (n : Nat) (m : Mask) (v : Lanes) : (t.setV n m v).sregs = t.sregs := rfl
@[simp] theorem Troupe.setV_preds (t : Troupe) (n : Nat) (m : Mask) (v : Lanes) : (t.setV n m v).preds = t.preds := rfl
@[simp] theorem Troupe.setV_flags (t : Troupe) (n : Nat) (m : Mask) (v : Lanes) : (t.setV n m v).flags = t.flags := rfl
@[simp] theorem Troupe.setV_acs (t : Troupe) (n : Nat) (m : Mask) (v : Lanes) : (t.setV n m v).acs = t.acs := rfl
@[simp] theorem Troupe.setV_sph (t : Troupe) (n : Nat) (m : Mask) (v : Lanes) : (t.setV n m v).sph = t.sph := rfl
@[simp] theorem Troupe.setV_pcfg (t : Troupe) (n : Nat) (m : Mask) (v : Lanes) : (t.setV n m v).pcfg = t.pcfg := rfl
@[simp] theorem Troupe.setV_allot (t : Troupe) (n : Nat) (m : Mask) (v : Lanes) : (t.setV n m v).allot = t.allot := rfl
@[simp] theorem Troupe.setV_errpend (t : Troupe) (n : Nat) (m : Mask) (v : Lanes) : (t.setV n m v).errpend = t.errpend := rfl
@[simp] theorem Troupe.setV_stfail (t : Troupe) (n : Nat) (m : Mask) (v : Lanes) : (t.setV n m v).stfail = t.stfail := rfl
@[simp] theorem Troupe.setV_intrap (t : Troupe) (n : Nat) (m : Mask) (v : Lanes) : (t.setV n m v).intrap = t.intrap := rfl
@[simp] theorem Troupe.setV_cause (t : Troupe) (n : Nat) (m : Mask) (v : Lanes) : (t.setV n m v).cause = t.cause := rfl
@[simp] theorem Troupe.setV_taddr (t : Troupe) (n : Nat) (m : Mask) (v : Lanes) : (t.setV n m v).taddr = t.taddr := rfl
@[simp] theorem Troupe.setV_tpc (t : Troupe) (n : Nat) (m : Mask) (v : Lanes) : (t.setV n m v).tpc = t.tpc := rfl
@[simp] theorem Troupe.setV_tlanes (t : Troupe) (n : Nat) (m : Mask) (v : Lanes) : (t.setV n m v).tlanes = t.tlanes := rfl
@[simp] theorem Troupe.setV_faults (t : Troupe) (n : Nat) (m : Mask) (v : Lanes) : (t.setV n m v).faults = t.faults := rfl
@[simp] theorem Troupe.setV_hazards (t : Troupe) (n : Nat) (m : Mask) (v : Lanes) : (t.setV n m v).hazards = t.hazards := rfl
@[simp] theorem Troupe.setV_pend (t : Troupe) (n : Nat) (m : Mask) (v : Lanes) : (t.setV n m v).pend = t.pend := rfl
@[simp] theorem Troupe.setV_wait (t : Troupe) (n : Nat) (m : Mask) (v : Lanes) : (t.setV n m v).wait = t.wait := rfl
@[simp] theorem Troupe.setV_lrecs (t : Troupe) (n : Nat) (m : Mask) (v : Lanes) : (t.setV n m v).lrecs = t.lrecs := rfl
@[simp] theorem Troupe.setV_deqs (t : Troupe) (n : Nat) (m : Mask) (v : Lanes) : (t.setV n m v).deqs = t.deqs := rfl
@[simp] theorem Troupe.setV_sent (t : Troupe) (n : Nat) (m : Mask) (v : Lanes) : (t.setV n m v).sent = t.sent := rfl
@[simp] theorem Troupe.setV_phLives (t : Troupe) (n : Nat) (m : Mask) (v : Lanes) : (t.setV n m v).phLives = t.phLives := rfl
@[simp] theorem Troupe.setV_lastIssue (t : Troupe) (n : Nat) (m : Mask) (v : Lanes) : (t.setV n m v).lastIssue = t.lastIssue := rfl
@[simp] theorem Troupe.setV_freeAt (t : Troupe) (n : Nat) (m : Mask) (v : Lanes) : (t.setV n m v).freeAt = t.freeAt := rfl
@[simp] theorem Troupe.setV_branched (t : Troupe) (n : Nat) (m : Mask) (v : Lanes) : (t.setV n m v).branched = t.branched := rfl
@[simp] theorem Troupe.setV_exited (t : Troupe) (n : Nat) (m : Mask) (v : Lanes) : (t.setV n m v).exited = t.exited := rfl
@[simp] theorem Troupe.setV_stopped (t : Troupe) (n : Nat) (m : Mask) (v : Lanes) : (t.setV n m v).stopped = t.stopped := rfl
@[simp] theorem Troupe.setV_atYield (t : Troupe) (n : Nat) (m : Mask) (v : Lanes) : (t.setV n m v).atYield = t.atYield := rfl
@[simp] theorem Troupe.setV_idCore (t : Troupe) (n : Nat) (m : Mask) (v : Lanes) : (t.setV n m v).idCore = t.idCore := rfl
@[simp] theorem Troupe.setV_idSlot (t : Troupe) (n : Nat) (m : Mask) (v : Lanes) : (t.setV n m v).idSlot = t.idSlot := rfl
@[simp] theorem Troupe.setV_openBatch (t : Troupe) (n : Nat) (m : Mask) (v : Lanes) : (t.setV n m v).openBatch = t.openBatch := rfl
@[simp] theorem Troupe.setV_batches (t : Troupe) (n : Nat) (m : Mask) (v : Lanes) : (t.setV n m v).batches = t.batches := rfl
@[simp] theorem Troupe.setV_joint (t : Troupe) (n : Nat) (m : Mask) (v : Lanes) : (t.setV n m v).joint = t.joint := rfl
@[simp] theorem Troupe.setV_atJoint (t : Troupe) (n : Nat) (m : Mask) (v : Lanes) : (t.setV n m v).atJoint = t.atJoint := rfl
@[simp] theorem Troupe.setV_unready (t : Troupe) (n : Nat) (m : Mask) (v : Lanes) : (t.setV n m v).unready = t.unready := rfl
@[simp] theorem Troupe.setV_unreadyPad (t : Troupe) (n : Nat) (m : Mask) (v : Lanes) : (t.setV n m v).unreadyPad = t.unreadyPad := rfl
@[simp] theorem Troupe.setV_barGen (t : Troupe) (n : Nat) (m : Mask) (v : Lanes) : (t.setV n m v).barGen = t.barGen := rfl
@[simp] theorem Troupe.setV_badS (t : Troupe) (n : Nat) (m : Mask) (v : Lanes) : (t.setV n m v).badS = t.badS := rfl
@[simp] theorem Troupe.setV_arrived (t : Troupe) (n : Nat) (m : Mask) (v : Lanes) : (t.setV n m v).arrived = t.arrived := rfl

@[simp] theorem Troupe.wrote_wg (t : Troupe) (ns : List Nat) : (t.wrote ns).wg = t.wg := rfl
@[simp] theorem Troupe.wrote_trix (t : Troupe) (ns : List Nat) : (t.wrote ns).trix = t.trix := rfl
@[simp] theorem Troupe.wrote_pipe (t : Troupe) (ns : List Nat) : (t.wrote ns).pipe = t.pipe := rfl
@[simp] theorem Troupe.wrote_slot (t : Troupe) (ns : List Nat) : (t.wrote ns).slot = t.slot := rfl
@[simp] theorem Troupe.wrote_pc (t : Troupe) (ns : List Nat) : (t.wrote ns).pc = t.pc := rfl
@[simp] theorem Troupe.wrote_sregs (t : Troupe) (ns : List Nat) : (t.wrote ns).sregs = t.sregs := rfl
@[simp] theorem Troupe.wrote_preds (t : Troupe) (ns : List Nat) : (t.wrote ns).preds = t.preds := rfl
@[simp] theorem Troupe.wrote_flags (t : Troupe) (ns : List Nat) : (t.wrote ns).flags = t.flags := rfl
@[simp] theorem Troupe.wrote_acs (t : Troupe) (ns : List Nat) : (t.wrote ns).acs = t.acs := rfl
@[simp] theorem Troupe.wrote_sph (t : Troupe) (ns : List Nat) : (t.wrote ns).sph = t.sph := rfl
@[simp] theorem Troupe.wrote_pcfg (t : Troupe) (ns : List Nat) : (t.wrote ns).pcfg = t.pcfg := rfl
@[simp] theorem Troupe.wrote_allot (t : Troupe) (ns : List Nat) : (t.wrote ns).allot = t.allot := rfl
@[simp] theorem Troupe.wrote_regs (t : Troupe) (ns : List Nat) : (t.wrote ns).regs = t.regs := rfl
@[simp] theorem Troupe.wrote_errpend (t : Troupe) (ns : List Nat) : (t.wrote ns).errpend = t.errpend := rfl
@[simp] theorem Troupe.wrote_stfail (t : Troupe) (ns : List Nat) : (t.wrote ns).stfail = t.stfail := rfl
@[simp] theorem Troupe.wrote_intrap (t : Troupe) (ns : List Nat) : (t.wrote ns).intrap = t.intrap := rfl
@[simp] theorem Troupe.wrote_cause (t : Troupe) (ns : List Nat) : (t.wrote ns).cause = t.cause := rfl
@[simp] theorem Troupe.wrote_taddr (t : Troupe) (ns : List Nat) : (t.wrote ns).taddr = t.taddr := rfl
@[simp] theorem Troupe.wrote_tpc (t : Troupe) (ns : List Nat) : (t.wrote ns).tpc = t.tpc := rfl
@[simp] theorem Troupe.wrote_tlanes (t : Troupe) (ns : List Nat) : (t.wrote ns).tlanes = t.tlanes := rfl
@[simp] theorem Troupe.wrote_faults (t : Troupe) (ns : List Nat) : (t.wrote ns).faults = t.faults := rfl
@[simp] theorem Troupe.wrote_hazards (t : Troupe) (ns : List Nat) : (t.wrote ns).hazards = t.hazards := rfl
@[simp] theorem Troupe.wrote_pend (t : Troupe) (ns : List Nat) : (t.wrote ns).pend = t.pend := rfl
@[simp] theorem Troupe.wrote_wait (t : Troupe) (ns : List Nat) : (t.wrote ns).wait = t.wait := rfl
@[simp] theorem Troupe.wrote_lrecs (t : Troupe) (ns : List Nat) : (t.wrote ns).lrecs = t.lrecs := rfl
@[simp] theorem Troupe.wrote_deqs (t : Troupe) (ns : List Nat) : (t.wrote ns).deqs = t.deqs := rfl
@[simp] theorem Troupe.wrote_sent (t : Troupe) (ns : List Nat) : (t.wrote ns).sent = t.sent := rfl
@[simp] theorem Troupe.wrote_phLives (t : Troupe) (ns : List Nat) : (t.wrote ns).phLives = t.phLives := rfl
@[simp] theorem Troupe.wrote_lastIssue (t : Troupe) (ns : List Nat) : (t.wrote ns).lastIssue = t.lastIssue := rfl
@[simp] theorem Troupe.wrote_freeAt (t : Troupe) (ns : List Nat) : (t.wrote ns).freeAt = t.freeAt := rfl
@[simp] theorem Troupe.wrote_branched (t : Troupe) (ns : List Nat) : (t.wrote ns).branched = t.branched := rfl
@[simp] theorem Troupe.wrote_exited (t : Troupe) (ns : List Nat) : (t.wrote ns).exited = t.exited := rfl
@[simp] theorem Troupe.wrote_stopped (t : Troupe) (ns : List Nat) : (t.wrote ns).stopped = t.stopped := rfl
@[simp] theorem Troupe.wrote_atYield (t : Troupe) (ns : List Nat) : (t.wrote ns).atYield = t.atYield := rfl
@[simp] theorem Troupe.wrote_idCore (t : Troupe) (ns : List Nat) : (t.wrote ns).idCore = t.idCore := rfl
@[simp] theorem Troupe.wrote_idSlot (t : Troupe) (ns : List Nat) : (t.wrote ns).idSlot = t.idSlot := rfl
@[simp] theorem Troupe.wrote_openBatch (t : Troupe) (ns : List Nat) : (t.wrote ns).openBatch = t.openBatch := rfl
@[simp] theorem Troupe.wrote_batches (t : Troupe) (ns : List Nat) : (t.wrote ns).batches = t.batches := rfl
@[simp] theorem Troupe.wrote_joint (t : Troupe) (ns : List Nat) : (t.wrote ns).joint = t.joint := rfl
@[simp] theorem Troupe.wrote_atJoint (t : Troupe) (ns : List Nat) : (t.wrote ns).atJoint = t.atJoint := rfl
@[simp] theorem Troupe.wrote_unreadyPad (t : Troupe) (ns : List Nat) : (t.wrote ns).unreadyPad = t.unreadyPad := rfl
@[simp] theorem Troupe.wrote_barGen (t : Troupe) (ns : List Nat) : (t.wrote ns).barGen = t.barGen := rfl
@[simp] theorem Troupe.wrote_badS (t : Troupe) (ns : List Nat) : (t.wrote ns).badS = t.badS := rfl
@[simp] theorem Troupe.wrote_arrived (t : Troupe) (ns : List Nat) : (t.wrote ns).arrived = t.arrived := rfl

@[simp] theorem Troupe.tick_wg (t : Troupe) (now : Nat) : (t.tick now).wg = t.wg := rfl
@[simp] theorem Troupe.tick_trix (t : Troupe) (now : Nat) : (t.tick now).trix = t.trix := rfl
@[simp] theorem Troupe.tick_pipe (t : Troupe) (now : Nat) : (t.tick now).pipe = t.pipe := rfl
@[simp] theorem Troupe.tick_slot (t : Troupe) (now : Nat) : (t.tick now).slot = t.slot := rfl
@[simp] theorem Troupe.tick_pc (t : Troupe) (now : Nat) : (t.tick now).pc = t.pc := rfl
@[simp] theorem Troupe.tick_sregs (t : Troupe) (now : Nat) : (t.tick now).sregs = t.sregs := rfl
@[simp] theorem Troupe.tick_preds (t : Troupe) (now : Nat) : (t.tick now).preds = t.preds := rfl
@[simp] theorem Troupe.tick_flags (t : Troupe) (now : Nat) : (t.tick now).flags = t.flags := rfl
@[simp] theorem Troupe.tick_acs (t : Troupe) (now : Nat) : (t.tick now).acs = t.acs := rfl
@[simp] theorem Troupe.tick_sph (t : Troupe) (now : Nat) : (t.tick now).sph = t.sph := rfl
@[simp] theorem Troupe.tick_pcfg (t : Troupe) (now : Nat) : (t.tick now).pcfg = t.pcfg := rfl
@[simp] theorem Troupe.tick_allot (t : Troupe) (now : Nat) : (t.tick now).allot = t.allot := rfl
@[simp] theorem Troupe.tick_regs (t : Troupe) (now : Nat) : (t.tick now).regs = t.regs := rfl
@[simp] theorem Troupe.tick_errpend (t : Troupe) (now : Nat) : (t.tick now).errpend = t.errpend := rfl
@[simp] theorem Troupe.tick_stfail (t : Troupe) (now : Nat) : (t.tick now).stfail = t.stfail := rfl
@[simp] theorem Troupe.tick_intrap (t : Troupe) (now : Nat) : (t.tick now).intrap = t.intrap := rfl
@[simp] theorem Troupe.tick_cause (t : Troupe) (now : Nat) : (t.tick now).cause = t.cause := rfl
@[simp] theorem Troupe.tick_taddr (t : Troupe) (now : Nat) : (t.tick now).taddr = t.taddr := rfl
@[simp] theorem Troupe.tick_tpc (t : Troupe) (now : Nat) : (t.tick now).tpc = t.tpc := rfl
@[simp] theorem Troupe.tick_tlanes (t : Troupe) (now : Nat) : (t.tick now).tlanes = t.tlanes := rfl
@[simp] theorem Troupe.tick_faults (t : Troupe) (now : Nat) : (t.tick now).faults = t.faults := rfl
@[simp] theorem Troupe.tick_pend (t : Troupe) (now : Nat) : (t.tick now).pend = t.pend := rfl
@[simp] theorem Troupe.tick_wait (t : Troupe) (now : Nat) : (t.tick now).wait = t.wait := rfl
@[simp] theorem Troupe.tick_lrecs (t : Troupe) (now : Nat) : (t.tick now).lrecs = t.lrecs := rfl
@[simp] theorem Troupe.tick_deqs (t : Troupe) (now : Nat) : (t.tick now).deqs = t.deqs := rfl
@[simp] theorem Troupe.tick_sent (t : Troupe) (now : Nat) : (t.tick now).sent = t.sent := rfl
@[simp] theorem Troupe.tick_phLives (t : Troupe) (now : Nat) : (t.tick now).phLives = t.phLives := rfl
@[simp] theorem Troupe.tick_lastIssue (t : Troupe) (now : Nat) : (t.tick now).lastIssue = t.lastIssue := rfl
@[simp] theorem Troupe.tick_freeAt (t : Troupe) (now : Nat) : (t.tick now).freeAt = t.freeAt := rfl
@[simp] theorem Troupe.tick_branched (t : Troupe) (now : Nat) : (t.tick now).branched = t.branched := rfl
@[simp] theorem Troupe.tick_exited (t : Troupe) (now : Nat) : (t.tick now).exited = t.exited := rfl
@[simp] theorem Troupe.tick_stopped (t : Troupe) (now : Nat) : (t.tick now).stopped = t.stopped := rfl
@[simp] theorem Troupe.tick_atYield (t : Troupe) (now : Nat) : (t.tick now).atYield = t.atYield := rfl
@[simp] theorem Troupe.tick_idCore (t : Troupe) (now : Nat) : (t.tick now).idCore = t.idCore := rfl
@[simp] theorem Troupe.tick_idSlot (t : Troupe) (now : Nat) : (t.tick now).idSlot = t.idSlot := rfl
@[simp] theorem Troupe.tick_openBatch (t : Troupe) (now : Nat) : (t.tick now).openBatch = t.openBatch := rfl
@[simp] theorem Troupe.tick_batches (t : Troupe) (now : Nat) : (t.tick now).batches = t.batches := rfl
@[simp] theorem Troupe.tick_joint (t : Troupe) (now : Nat) : (t.tick now).joint = t.joint := rfl
@[simp] theorem Troupe.tick_atJoint (t : Troupe) (now : Nat) : (t.tick now).atJoint = t.atJoint := rfl
@[simp] theorem Troupe.tick_unready (t : Troupe) (now : Nat) : (t.tick now).unready = t.unready := rfl
@[simp] theorem Troupe.tick_unreadyPad (t : Troupe) (now : Nat) : (t.tick now).unreadyPad = t.unreadyPad := rfl
@[simp] theorem Troupe.tick_barGen (t : Troupe) (now : Nat) : (t.tick now).barGen = t.barGen := rfl
@[simp] theorem Troupe.tick_badS (t : Troupe) (now : Nat) : (t.tick now).badS = t.badS := rfl
@[simp] theorem Troupe.tick_arrived (t : Troupe) (now : Nat) : (t.tick now).arrived = t.arrived := rfl

@[simp] theorem Troupe.issued_wg (t : Troupe) (c : Ctl) (now b : Nat) : (t.issued c now b).wg = t.wg := rfl
@[simp] theorem Troupe.issued_trix (t : Troupe) (c : Ctl) (now b : Nat) : (t.issued c now b).trix = t.trix := rfl
@[simp] theorem Troupe.issued_pipe (t : Troupe) (c : Ctl) (now b : Nat) : (t.issued c now b).pipe = t.pipe := rfl
@[simp] theorem Troupe.issued_slot (t : Troupe) (c : Ctl) (now b : Nat) : (t.issued c now b).slot = t.slot := rfl
@[simp] theorem Troupe.issued_sregs (t : Troupe) (c : Ctl) (now b : Nat) : (t.issued c now b).sregs = t.sregs := rfl
@[simp] theorem Troupe.issued_preds (t : Troupe) (c : Ctl) (now b : Nat) : (t.issued c now b).preds = t.preds := rfl
@[simp] theorem Troupe.issued_acs (t : Troupe) (c : Ctl) (now b : Nat) : (t.issued c now b).acs = t.acs := rfl
@[simp] theorem Troupe.issued_sph (t : Troupe) (c : Ctl) (now b : Nat) : (t.issued c now b).sph = t.sph := rfl
@[simp] theorem Troupe.issued_pcfg (t : Troupe) (c : Ctl) (now b : Nat) : (t.issued c now b).pcfg = t.pcfg := rfl
@[simp] theorem Troupe.issued_allot (t : Troupe) (c : Ctl) (now b : Nat) : (t.issued c now b).allot = t.allot := rfl
@[simp] theorem Troupe.issued_regs (t : Troupe) (c : Ctl) (now b : Nat) : (t.issued c now b).regs = t.regs := rfl
@[simp] theorem Troupe.issued_errpend (t : Troupe) (c : Ctl) (now b : Nat) : (t.issued c now b).errpend = t.errpend := rfl
@[simp] theorem Troupe.issued_stfail (t : Troupe) (c : Ctl) (now b : Nat) : (t.issued c now b).stfail = t.stfail := rfl
@[simp] theorem Troupe.issued_intrap (t : Troupe) (c : Ctl) (now b : Nat) : (t.issued c now b).intrap = t.intrap := rfl
@[simp] theorem Troupe.issued_cause (t : Troupe) (c : Ctl) (now b : Nat) : (t.issued c now b).cause = t.cause := rfl
@[simp] theorem Troupe.issued_taddr (t : Troupe) (c : Ctl) (now b : Nat) : (t.issued c now b).taddr = t.taddr := rfl
@[simp] theorem Troupe.issued_tpc (t : Troupe) (c : Ctl) (now b : Nat) : (t.issued c now b).tpc = t.tpc := rfl
@[simp] theorem Troupe.issued_tlanes (t : Troupe) (c : Ctl) (now b : Nat) : (t.issued c now b).tlanes = t.tlanes := rfl
@[simp] theorem Troupe.issued_faults (t : Troupe) (c : Ctl) (now b : Nat) : (t.issued c now b).faults = t.faults := rfl
@[simp] theorem Troupe.issued_hazards (t : Troupe) (c : Ctl) (now b : Nat) : (t.issued c now b).hazards = t.hazards := rfl
@[simp] theorem Troupe.issued_pend (t : Troupe) (c : Ctl) (now b : Nat) : (t.issued c now b).pend = t.pend := rfl
@[simp] theorem Troupe.issued_wait (t : Troupe) (c : Ctl) (now b : Nat) : (t.issued c now b).wait = t.wait := rfl
@[simp] theorem Troupe.issued_lrecs (t : Troupe) (c : Ctl) (now b : Nat) : (t.issued c now b).lrecs = t.lrecs := rfl
@[simp] theorem Troupe.issued_deqs (t : Troupe) (c : Ctl) (now b : Nat) : (t.issued c now b).deqs = t.deqs := rfl
@[simp] theorem Troupe.issued_sent (t : Troupe) (c : Ctl) (now b : Nat) : (t.issued c now b).sent = t.sent := rfl
@[simp] theorem Troupe.issued_phLives (t : Troupe) (c : Ctl) (now b : Nat) : (t.issued c now b).phLives = t.phLives := rfl
@[simp] theorem Troupe.issued_exited (t : Troupe) (c : Ctl) (now b : Nat) : (t.issued c now b).exited = t.exited := rfl
@[simp] theorem Troupe.issued_stopped (t : Troupe) (c : Ctl) (now b : Nat) : (t.issued c now b).stopped = t.stopped := rfl
@[simp] theorem Troupe.issued_idCore (t : Troupe) (c : Ctl) (now b : Nat) : (t.issued c now b).idCore = t.idCore := rfl
@[simp] theorem Troupe.issued_idSlot (t : Troupe) (c : Ctl) (now b : Nat) : (t.issued c now b).idSlot = t.idSlot := rfl
@[simp] theorem Troupe.issued_openBatch (t : Troupe) (c : Ctl) (now b : Nat) : (t.issued c now b).openBatch = t.openBatch := rfl
@[simp] theorem Troupe.issued_batches (t : Troupe) (c : Ctl) (now b : Nat) : (t.issued c now b).batches = t.batches := rfl
@[simp] theorem Troupe.issued_joint (t : Troupe) (c : Ctl) (now b : Nat) : (t.issued c now b).joint = t.joint := rfl
@[simp] theorem Troupe.issued_atJoint (t : Troupe) (c : Ctl) (now b : Nat) : (t.issued c now b).atJoint = t.atJoint := rfl
@[simp] theorem Troupe.issued_unready (t : Troupe) (c : Ctl) (now b : Nat) : (t.issued c now b).unready = t.unready := rfl
@[simp] theorem Troupe.issued_unreadyPad (t : Troupe) (c : Ctl) (now b : Nat) : (t.issued c now b).unreadyPad = t.unreadyPad := rfl
@[simp] theorem Troupe.issued_barGen (t : Troupe) (c : Ctl) (now b : Nat) : (t.issued c now b).barGen = t.barGen := rfl
@[simp] theorem Troupe.issued_badS (t : Troupe) (c : Ctl) (now b : Nat) : (t.issued c now b).badS = t.badS := rfl

@[simp] theorem Troupe.jump_wg (t : Troupe) (a : DWord) : (t.jump a).wg = t.wg := rfl
@[simp] theorem Troupe.jump_trix (t : Troupe) (a : DWord) : (t.jump a).trix = t.trix := rfl
@[simp] theorem Troupe.jump_pipe (t : Troupe) (a : DWord) : (t.jump a).pipe = t.pipe := rfl
@[simp] theorem Troupe.jump_slot (t : Troupe) (a : DWord) : (t.jump a).slot = t.slot := rfl
@[simp] theorem Troupe.jump_sregs (t : Troupe) (a : DWord) : (t.jump a).sregs = t.sregs := rfl
@[simp] theorem Troupe.jump_preds (t : Troupe) (a : DWord) : (t.jump a).preds = t.preds := rfl
@[simp] theorem Troupe.jump_flags (t : Troupe) (a : DWord) : (t.jump a).flags = t.flags := rfl
@[simp] theorem Troupe.jump_acs (t : Troupe) (a : DWord) : (t.jump a).acs = t.acs := rfl
@[simp] theorem Troupe.jump_sph (t : Troupe) (a : DWord) : (t.jump a).sph = t.sph := rfl
@[simp] theorem Troupe.jump_pcfg (t : Troupe) (a : DWord) : (t.jump a).pcfg = t.pcfg := rfl
@[simp] theorem Troupe.jump_allot (t : Troupe) (a : DWord) : (t.jump a).allot = t.allot := rfl
@[simp] theorem Troupe.jump_regs (t : Troupe) (a : DWord) : (t.jump a).regs = t.regs := rfl
@[simp] theorem Troupe.jump_errpend (t : Troupe) (a : DWord) : (t.jump a).errpend = t.errpend := rfl
@[simp] theorem Troupe.jump_stfail (t : Troupe) (a : DWord) : (t.jump a).stfail = t.stfail := rfl
@[simp] theorem Troupe.jump_intrap (t : Troupe) (a : DWord) : (t.jump a).intrap = t.intrap := rfl
@[simp] theorem Troupe.jump_cause (t : Troupe) (a : DWord) : (t.jump a).cause = t.cause := rfl
@[simp] theorem Troupe.jump_taddr (t : Troupe) (a : DWord) : (t.jump a).taddr = t.taddr := rfl
@[simp] theorem Troupe.jump_tpc (t : Troupe) (a : DWord) : (t.jump a).tpc = t.tpc := rfl
@[simp] theorem Troupe.jump_tlanes (t : Troupe) (a : DWord) : (t.jump a).tlanes = t.tlanes := rfl
@[simp] theorem Troupe.jump_faults (t : Troupe) (a : DWord) : (t.jump a).faults = t.faults := rfl
@[simp] theorem Troupe.jump_hazards (t : Troupe) (a : DWord) : (t.jump a).hazards = t.hazards := rfl
@[simp] theorem Troupe.jump_pend (t : Troupe) (a : DWord) : (t.jump a).pend = t.pend := rfl
@[simp] theorem Troupe.jump_wait (t : Troupe) (a : DWord) : (t.jump a).wait = t.wait := rfl
@[simp] theorem Troupe.jump_lrecs (t : Troupe) (a : DWord) : (t.jump a).lrecs = t.lrecs := rfl
@[simp] theorem Troupe.jump_deqs (t : Troupe) (a : DWord) : (t.jump a).deqs = t.deqs := rfl
@[simp] theorem Troupe.jump_sent (t : Troupe) (a : DWord) : (t.jump a).sent = t.sent := rfl
@[simp] theorem Troupe.jump_phLives (t : Troupe) (a : DWord) : (t.jump a).phLives = t.phLives := rfl
@[simp] theorem Troupe.jump_lastIssue (t : Troupe) (a : DWord) : (t.jump a).lastIssue = t.lastIssue := rfl
@[simp] theorem Troupe.jump_exited (t : Troupe) (a : DWord) : (t.jump a).exited = t.exited := rfl
@[simp] theorem Troupe.jump_stopped (t : Troupe) (a : DWord) : (t.jump a).stopped = t.stopped := rfl
@[simp] theorem Troupe.jump_atYield (t : Troupe) (a : DWord) : (t.jump a).atYield = t.atYield := rfl
@[simp] theorem Troupe.jump_idCore (t : Troupe) (a : DWord) : (t.jump a).idCore = t.idCore := rfl
@[simp] theorem Troupe.jump_idSlot (t : Troupe) (a : DWord) : (t.jump a).idSlot = t.idSlot := rfl
@[simp] theorem Troupe.jump_openBatch (t : Troupe) (a : DWord) : (t.jump a).openBatch = t.openBatch := rfl
@[simp] theorem Troupe.jump_batches (t : Troupe) (a : DWord) : (t.jump a).batches = t.batches := rfl
@[simp] theorem Troupe.jump_joint (t : Troupe) (a : DWord) : (t.jump a).joint = t.joint := rfl
@[simp] theorem Troupe.jump_atJoint (t : Troupe) (a : DWord) : (t.jump a).atJoint = t.atJoint := rfl
@[simp] theorem Troupe.jump_unready (t : Troupe) (a : DWord) : (t.jump a).unready = t.unready := rfl
@[simp] theorem Troupe.jump_unreadyPad (t : Troupe) (a : DWord) : (t.jump a).unreadyPad = t.unreadyPad := rfl
@[simp] theorem Troupe.jump_barGen (t : Troupe) (a : DWord) : (t.jump a).barGen = t.barGen := rfl
@[simp] theorem Troupe.jump_badS (t : Troupe) (a : DWord) : (t.jump a).badS = t.badS := rfl
@[simp] theorem Troupe.jump_arrived (t : Troupe) (a : DWord) : (t.jump a).arrived = t.arrived := rfl

@[simp] theorem Troupe.setS_wg (t : Troupe) (n : Nat) (v : Word) : (t.setS n v).wg = t.wg := by unfold Troupe.setS; split <;> rfl
@[simp] theorem Troupe.setS_trix (t : Troupe) (n : Nat) (v : Word) : (t.setS n v).trix = t.trix := by unfold Troupe.setS; split <;> rfl
@[simp] theorem Troupe.setS_pipe (t : Troupe) (n : Nat) (v : Word) : (t.setS n v).pipe = t.pipe := by unfold Troupe.setS; split <;> rfl
@[simp] theorem Troupe.setS_slot (t : Troupe) (n : Nat) (v : Word) : (t.setS n v).slot = t.slot := by unfold Troupe.setS; split <;> rfl
@[simp] theorem Troupe.setS_pc (t : Troupe) (n : Nat) (v : Word) : (t.setS n v).pc = t.pc := by unfold Troupe.setS; split <;> rfl
@[simp] theorem Troupe.setS_preds (t : Troupe) (n : Nat) (v : Word) : (t.setS n v).preds = t.preds := by unfold Troupe.setS; split <;> rfl
@[simp] theorem Troupe.setS_flags (t : Troupe) (n : Nat) (v : Word) : (t.setS n v).flags = t.flags := by unfold Troupe.setS; split <;> rfl
@[simp] theorem Troupe.setS_acs (t : Troupe) (n : Nat) (v : Word) : (t.setS n v).acs = t.acs := by unfold Troupe.setS; split <;> rfl
@[simp] theorem Troupe.setS_sph (t : Troupe) (n : Nat) (v : Word) : (t.setS n v).sph = t.sph := by unfold Troupe.setS; split <;> rfl
@[simp] theorem Troupe.setS_pcfg (t : Troupe) (n : Nat) (v : Word) : (t.setS n v).pcfg = t.pcfg := by unfold Troupe.setS; split <;> rfl
@[simp] theorem Troupe.setS_allot (t : Troupe) (n : Nat) (v : Word) : (t.setS n v).allot = t.allot := by unfold Troupe.setS; split <;> rfl
@[simp] theorem Troupe.setS_regs (t : Troupe) (n : Nat) (v : Word) : (t.setS n v).regs = t.regs := by unfold Troupe.setS; split <;> rfl
@[simp] theorem Troupe.setS_errpend (t : Troupe) (n : Nat) (v : Word) : (t.setS n v).errpend = t.errpend := by unfold Troupe.setS; split <;> rfl
@[simp] theorem Troupe.setS_stfail (t : Troupe) (n : Nat) (v : Word) : (t.setS n v).stfail = t.stfail := by unfold Troupe.setS; split <;> rfl
@[simp] theorem Troupe.setS_intrap (t : Troupe) (n : Nat) (v : Word) : (t.setS n v).intrap = t.intrap := by unfold Troupe.setS; split <;> rfl
@[simp] theorem Troupe.setS_cause (t : Troupe) (n : Nat) (v : Word) : (t.setS n v).cause = t.cause := by unfold Troupe.setS; split <;> rfl
@[simp] theorem Troupe.setS_taddr (t : Troupe) (n : Nat) (v : Word) : (t.setS n v).taddr = t.taddr := by unfold Troupe.setS; split <;> rfl
@[simp] theorem Troupe.setS_tpc (t : Troupe) (n : Nat) (v : Word) : (t.setS n v).tpc = t.tpc := by unfold Troupe.setS; split <;> rfl
@[simp] theorem Troupe.setS_tlanes (t : Troupe) (n : Nat) (v : Word) : (t.setS n v).tlanes = t.tlanes := by unfold Troupe.setS; split <;> rfl
@[simp] theorem Troupe.setS_faults (t : Troupe) (n : Nat) (v : Word) : (t.setS n v).faults = t.faults := by unfold Troupe.setS; split <;> rfl
@[simp] theorem Troupe.setS_hazards (t : Troupe) (n : Nat) (v : Word) : (t.setS n v).hazards = t.hazards := by unfold Troupe.setS; split <;> rfl
@[simp] theorem Troupe.setS_pend (t : Troupe) (n : Nat) (v : Word) : (t.setS n v).pend = t.pend := by unfold Troupe.setS; split <;> rfl
@[simp] theorem Troupe.setS_wait (t : Troupe) (n : Nat) (v : Word) : (t.setS n v).wait = t.wait := by unfold Troupe.setS; split <;> rfl
@[simp] theorem Troupe.setS_lrecs (t : Troupe) (n : Nat) (v : Word) : (t.setS n v).lrecs = t.lrecs := by unfold Troupe.setS; split <;> rfl
@[simp] theorem Troupe.setS_deqs (t : Troupe) (n : Nat) (v : Word) : (t.setS n v).deqs = t.deqs := by unfold Troupe.setS; split <;> rfl
@[simp] theorem Troupe.setS_sent (t : Troupe) (n : Nat) (v : Word) : (t.setS n v).sent = t.sent := by unfold Troupe.setS; split <;> rfl
@[simp] theorem Troupe.setS_phLives (t : Troupe) (n : Nat) (v : Word) : (t.setS n v).phLives = t.phLives := by unfold Troupe.setS; split <;> rfl
@[simp] theorem Troupe.setS_lastIssue (t : Troupe) (n : Nat) (v : Word) : (t.setS n v).lastIssue = t.lastIssue := by unfold Troupe.setS; split <;> rfl
@[simp] theorem Troupe.setS_freeAt (t : Troupe) (n : Nat) (v : Word) : (t.setS n v).freeAt = t.freeAt := by unfold Troupe.setS; split <;> rfl
@[simp] theorem Troupe.setS_branched (t : Troupe) (n : Nat) (v : Word) : (t.setS n v).branched = t.branched := by unfold Troupe.setS; split <;> rfl
@[simp] theorem Troupe.setS_exited (t : Troupe) (n : Nat) (v : Word) : (t.setS n v).exited = t.exited := by unfold Troupe.setS; split <;> rfl
@[simp] theorem Troupe.setS_stopped (t : Troupe) (n : Nat) (v : Word) : (t.setS n v).stopped = t.stopped := by unfold Troupe.setS; split <;> rfl
@[simp] theorem Troupe.setS_atYield (t : Troupe) (n : Nat) (v : Word) : (t.setS n v).atYield = t.atYield := by unfold Troupe.setS; split <;> rfl
@[simp] theorem Troupe.setS_idCore (t : Troupe) (n : Nat) (v : Word) : (t.setS n v).idCore = t.idCore := by unfold Troupe.setS; split <;> rfl
@[simp] theorem Troupe.setS_idSlot (t : Troupe) (n : Nat) (v : Word) : (t.setS n v).idSlot = t.idSlot := by unfold Troupe.setS; split <;> rfl
@[simp] theorem Troupe.setS_openBatch (t : Troupe) (n : Nat) (v : Word) : (t.setS n v).openBatch = t.openBatch := by unfold Troupe.setS; split <;> rfl
@[simp] theorem Troupe.setS_batches (t : Troupe) (n : Nat) (v : Word) : (t.setS n v).batches = t.batches := by unfold Troupe.setS; split <;> rfl
@[simp] theorem Troupe.setS_joint (t : Troupe) (n : Nat) (v : Word) : (t.setS n v).joint = t.joint := by unfold Troupe.setS; split <;> rfl
@[simp] theorem Troupe.setS_atJoint (t : Troupe) (n : Nat) (v : Word) : (t.setS n v).atJoint = t.atJoint := by unfold Troupe.setS; split <;> rfl
@[simp] theorem Troupe.setS_unready (t : Troupe) (n : Nat) (v : Word) : (t.setS n v).unready = t.unready := by unfold Troupe.setS; split <;> rfl
@[simp] theorem Troupe.setS_unreadyPad (t : Troupe) (n : Nat) (v : Word) : (t.setS n v).unreadyPad = t.unreadyPad := by unfold Troupe.setS; split <;> rfl
@[simp] theorem Troupe.setS_barGen (t : Troupe) (n : Nat) (v : Word) : (t.setS n v).barGen = t.barGen := by unfold Troupe.setS; split <;> rfl
@[simp] theorem Troupe.setS_badS (t : Troupe) (n : Nat) (v : Word) : (t.setS n v).badS = t.badS := by unfold Troupe.setS; split <;> rfl
@[simp] theorem Troupe.setS_arrived (t : Troupe) (n : Nat) (v : Word) : (t.setS n v).arrived = t.arrived := by unfold Troupe.setS; split <;> rfl

@[simp] theorem Troupe.setP_wg (t : Troupe) (n : Nat) (m : Mask) : (t.setP n m).wg = t.wg := by unfold Troupe.setP; split <;> rfl
@[simp] theorem Troupe.setP_trix (t : Troupe) (n : Nat) (m : Mask) : (t.setP n m).trix = t.trix := by unfold Troupe.setP; split <;> rfl
@[simp] theorem Troupe.setP_pipe (t : Troupe) (n : Nat) (m : Mask) : (t.setP n m).pipe = t.pipe := by unfold Troupe.setP; split <;> rfl
@[simp] theorem Troupe.setP_slot (t : Troupe) (n : Nat) (m : Mask) : (t.setP n m).slot = t.slot := by unfold Troupe.setP; split <;> rfl
@[simp] theorem Troupe.setP_pc (t : Troupe) (n : Nat) (m : Mask) : (t.setP n m).pc = t.pc := by unfold Troupe.setP; split <;> rfl
@[simp] theorem Troupe.setP_sregs (t : Troupe) (n : Nat) (m : Mask) : (t.setP n m).sregs = t.sregs := by unfold Troupe.setP; split <;> rfl
@[simp] theorem Troupe.setP_flags (t : Troupe) (n : Nat) (m : Mask) : (t.setP n m).flags = t.flags := by unfold Troupe.setP; split <;> rfl
@[simp] theorem Troupe.setP_acs (t : Troupe) (n : Nat) (m : Mask) : (t.setP n m).acs = t.acs := by unfold Troupe.setP; split <;> rfl
@[simp] theorem Troupe.setP_sph (t : Troupe) (n : Nat) (m : Mask) : (t.setP n m).sph = t.sph := by unfold Troupe.setP; split <;> rfl
@[simp] theorem Troupe.setP_pcfg (t : Troupe) (n : Nat) (m : Mask) : (t.setP n m).pcfg = t.pcfg := by unfold Troupe.setP; split <;> rfl
@[simp] theorem Troupe.setP_allot (t : Troupe) (n : Nat) (m : Mask) : (t.setP n m).allot = t.allot := by unfold Troupe.setP; split <;> rfl
@[simp] theorem Troupe.setP_regs (t : Troupe) (n : Nat) (m : Mask) : (t.setP n m).regs = t.regs := by unfold Troupe.setP; split <;> rfl
@[simp] theorem Troupe.setP_errpend (t : Troupe) (n : Nat) (m : Mask) : (t.setP n m).errpend = t.errpend := by unfold Troupe.setP; split <;> rfl
@[simp] theorem Troupe.setP_stfail (t : Troupe) (n : Nat) (m : Mask) : (t.setP n m).stfail = t.stfail := by unfold Troupe.setP; split <;> rfl
@[simp] theorem Troupe.setP_intrap (t : Troupe) (n : Nat) (m : Mask) : (t.setP n m).intrap = t.intrap := by unfold Troupe.setP; split <;> rfl
@[simp] theorem Troupe.setP_cause (t : Troupe) (n : Nat) (m : Mask) : (t.setP n m).cause = t.cause := by unfold Troupe.setP; split <;> rfl
@[simp] theorem Troupe.setP_taddr (t : Troupe) (n : Nat) (m : Mask) : (t.setP n m).taddr = t.taddr := by unfold Troupe.setP; split <;> rfl
@[simp] theorem Troupe.setP_tpc (t : Troupe) (n : Nat) (m : Mask) : (t.setP n m).tpc = t.tpc := by unfold Troupe.setP; split <;> rfl
@[simp] theorem Troupe.setP_tlanes (t : Troupe) (n : Nat) (m : Mask) : (t.setP n m).tlanes = t.tlanes := by unfold Troupe.setP; split <;> rfl
@[simp] theorem Troupe.setP_faults (t : Troupe) (n : Nat) (m : Mask) : (t.setP n m).faults = t.faults := by unfold Troupe.setP; split <;> rfl
@[simp] theorem Troupe.setP_hazards (t : Troupe) (n : Nat) (m : Mask) : (t.setP n m).hazards = t.hazards := by unfold Troupe.setP; split <;> rfl
@[simp] theorem Troupe.setP_pend (t : Troupe) (n : Nat) (m : Mask) : (t.setP n m).pend = t.pend := by unfold Troupe.setP; split <;> rfl
@[simp] theorem Troupe.setP_wait (t : Troupe) (n : Nat) (m : Mask) : (t.setP n m).wait = t.wait := by unfold Troupe.setP; split <;> rfl
@[simp] theorem Troupe.setP_lrecs (t : Troupe) (n : Nat) (m : Mask) : (t.setP n m).lrecs = t.lrecs := by unfold Troupe.setP; split <;> rfl
@[simp] theorem Troupe.setP_deqs (t : Troupe) (n : Nat) (m : Mask) : (t.setP n m).deqs = t.deqs := by unfold Troupe.setP; split <;> rfl
@[simp] theorem Troupe.setP_sent (t : Troupe) (n : Nat) (m : Mask) : (t.setP n m).sent = t.sent := by unfold Troupe.setP; split <;> rfl
@[simp] theorem Troupe.setP_phLives (t : Troupe) (n : Nat) (m : Mask) : (t.setP n m).phLives = t.phLives := by unfold Troupe.setP; split <;> rfl
@[simp] theorem Troupe.setP_lastIssue (t : Troupe) (n : Nat) (m : Mask) : (t.setP n m).lastIssue = t.lastIssue := by unfold Troupe.setP; split <;> rfl
@[simp] theorem Troupe.setP_freeAt (t : Troupe) (n : Nat) (m : Mask) : (t.setP n m).freeAt = t.freeAt := by unfold Troupe.setP; split <;> rfl
@[simp] theorem Troupe.setP_branched (t : Troupe) (n : Nat) (m : Mask) : (t.setP n m).branched = t.branched := by unfold Troupe.setP; split <;> rfl
@[simp] theorem Troupe.setP_exited (t : Troupe) (n : Nat) (m : Mask) : (t.setP n m).exited = t.exited := by unfold Troupe.setP; split <;> rfl
@[simp] theorem Troupe.setP_stopped (t : Troupe) (n : Nat) (m : Mask) : (t.setP n m).stopped = t.stopped := by unfold Troupe.setP; split <;> rfl
@[simp] theorem Troupe.setP_atYield (t : Troupe) (n : Nat) (m : Mask) : (t.setP n m).atYield = t.atYield := by unfold Troupe.setP; split <;> rfl
@[simp] theorem Troupe.setP_idCore (t : Troupe) (n : Nat) (m : Mask) : (t.setP n m).idCore = t.idCore := by unfold Troupe.setP; split <;> rfl
@[simp] theorem Troupe.setP_idSlot (t : Troupe) (n : Nat) (m : Mask) : (t.setP n m).idSlot = t.idSlot := by unfold Troupe.setP; split <;> rfl
@[simp] theorem Troupe.setP_openBatch (t : Troupe) (n : Nat) (m : Mask) : (t.setP n m).openBatch = t.openBatch := by unfold Troupe.setP; split <;> rfl
@[simp] theorem Troupe.setP_batches (t : Troupe) (n : Nat) (m : Mask) : (t.setP n m).batches = t.batches := by unfold Troupe.setP; split <;> rfl
@[simp] theorem Troupe.setP_joint (t : Troupe) (n : Nat) (m : Mask) : (t.setP n m).joint = t.joint := by unfold Troupe.setP; split <;> rfl
@[simp] theorem Troupe.setP_atJoint (t : Troupe) (n : Nat) (m : Mask) : (t.setP n m).atJoint = t.atJoint := by unfold Troupe.setP; split <;> rfl
@[simp] theorem Troupe.setP_unready (t : Troupe) (n : Nat) (m : Mask) : (t.setP n m).unready = t.unready := by unfold Troupe.setP; split <;> rfl
@[simp] theorem Troupe.setP_unreadyPad (t : Troupe) (n : Nat) (m : Mask) : (t.setP n m).unreadyPad = t.unreadyPad := by unfold Troupe.setP; split <;> rfl
@[simp] theorem Troupe.setP_barGen (t : Troupe) (n : Nat) (m : Mask) : (t.setP n m).barGen = t.barGen := by unfold Troupe.setP; split <;> rfl
@[simp] theorem Troupe.setP_badS (t : Troupe) (n : Nat) (m : Mask) : (t.setP n m).badS = t.badS := by unfold Troupe.setP; split <;> rfl
@[simp] theorem Troupe.setP_arrived (t : Troupe) (n : Nat) (m : Mask) : (t.setP n m).arrived = t.arrived := by unfold Troupe.setP; split <;> rfl

@[simp] theorem Troupe.setSs_wg (t : Troupe) (ws : List (Nat × Word)) : (t.setSs ws).wg = t.wg := by
  unfold Troupe.setSs
  induction ws generalizing t with
  | nil => rfl
  | cons w ws ih => simp [List.foldl_cons, ih]
@[simp] theorem Troupe.setSs_trix (t : Troupe) (ws : List (Nat × Word)) : (t.setSs ws).trix = t.trix := by
  unfold Troupe.setSs
  induction ws generalizing t with
  | nil => rfl
  | cons w ws ih => simp [List.foldl_cons, ih]
@[simp] theorem Troupe.setSs_pipe (t : Troupe) (ws : List (Nat × Word)) : (t.setSs ws).pipe = t.pipe := by
  unfold Troupe.setSs
  induction ws generalizing t with
  | nil => rfl
  | cons w ws ih => simp [List.foldl_cons, ih]
@[simp] theorem Troupe.setSs_slot (t : Troupe) (ws : List (Nat × Word)) : (t.setSs ws).slot = t.slot := by
  unfold Troupe.setSs
  induction ws generalizing t with
  | nil => rfl
  | cons w ws ih => simp [List.foldl_cons, ih]
@[simp] theorem Troupe.setSs_pc (t : Troupe) (ws : List (Nat × Word)) : (t.setSs ws).pc = t.pc := by
  unfold Troupe.setSs
  induction ws generalizing t with
  | nil => rfl
  | cons w ws ih => simp [List.foldl_cons, ih]
@[simp] theorem Troupe.setSs_preds (t : Troupe) (ws : List (Nat × Word)) : (t.setSs ws).preds = t.preds := by
  unfold Troupe.setSs
  induction ws generalizing t with
  | nil => rfl
  | cons w ws ih => simp [List.foldl_cons, ih]
@[simp] theorem Troupe.setSs_flags (t : Troupe) (ws : List (Nat × Word)) : (t.setSs ws).flags = t.flags := by
  unfold Troupe.setSs
  induction ws generalizing t with
  | nil => rfl
  | cons w ws ih => simp [List.foldl_cons, ih]
@[simp] theorem Troupe.setSs_acs (t : Troupe) (ws : List (Nat × Word)) : (t.setSs ws).acs = t.acs := by
  unfold Troupe.setSs
  induction ws generalizing t with
  | nil => rfl
  | cons w ws ih => simp [List.foldl_cons, ih]
@[simp] theorem Troupe.setSs_sph (t : Troupe) (ws : List (Nat × Word)) : (t.setSs ws).sph = t.sph := by
  unfold Troupe.setSs
  induction ws generalizing t with
  | nil => rfl
  | cons w ws ih => simp [List.foldl_cons, ih]
@[simp] theorem Troupe.setSs_pcfg (t : Troupe) (ws : List (Nat × Word)) : (t.setSs ws).pcfg = t.pcfg := by
  unfold Troupe.setSs
  induction ws generalizing t with
  | nil => rfl
  | cons w ws ih => simp [List.foldl_cons, ih]
@[simp] theorem Troupe.setSs_allot (t : Troupe) (ws : List (Nat × Word)) : (t.setSs ws).allot = t.allot := by
  unfold Troupe.setSs
  induction ws generalizing t with
  | nil => rfl
  | cons w ws ih => simp [List.foldl_cons, ih]
@[simp] theorem Troupe.setSs_regs (t : Troupe) (ws : List (Nat × Word)) : (t.setSs ws).regs = t.regs := by
  unfold Troupe.setSs
  induction ws generalizing t with
  | nil => rfl
  | cons w ws ih => simp [List.foldl_cons, ih]
@[simp] theorem Troupe.setSs_errpend (t : Troupe) (ws : List (Nat × Word)) : (t.setSs ws).errpend = t.errpend := by
  unfold Troupe.setSs
  induction ws generalizing t with
  | nil => rfl
  | cons w ws ih => simp [List.foldl_cons, ih]
@[simp] theorem Troupe.setSs_stfail (t : Troupe) (ws : List (Nat × Word)) : (t.setSs ws).stfail = t.stfail := by
  unfold Troupe.setSs
  induction ws generalizing t with
  | nil => rfl
  | cons w ws ih => simp [List.foldl_cons, ih]
@[simp] theorem Troupe.setSs_intrap (t : Troupe) (ws : List (Nat × Word)) : (t.setSs ws).intrap = t.intrap := by
  unfold Troupe.setSs
  induction ws generalizing t with
  | nil => rfl
  | cons w ws ih => simp [List.foldl_cons, ih]
@[simp] theorem Troupe.setSs_cause (t : Troupe) (ws : List (Nat × Word)) : (t.setSs ws).cause = t.cause := by
  unfold Troupe.setSs
  induction ws generalizing t with
  | nil => rfl
  | cons w ws ih => simp [List.foldl_cons, ih]
@[simp] theorem Troupe.setSs_taddr (t : Troupe) (ws : List (Nat × Word)) : (t.setSs ws).taddr = t.taddr := by
  unfold Troupe.setSs
  induction ws generalizing t with
  | nil => rfl
  | cons w ws ih => simp [List.foldl_cons, ih]
@[simp] theorem Troupe.setSs_tpc (t : Troupe) (ws : List (Nat × Word)) : (t.setSs ws).tpc = t.tpc := by
  unfold Troupe.setSs
  induction ws generalizing t with
  | nil => rfl
  | cons w ws ih => simp [List.foldl_cons, ih]
@[simp] theorem Troupe.setSs_tlanes (t : Troupe) (ws : List (Nat × Word)) : (t.setSs ws).tlanes = t.tlanes := by
  unfold Troupe.setSs
  induction ws generalizing t with
  | nil => rfl
  | cons w ws ih => simp [List.foldl_cons, ih]
@[simp] theorem Troupe.setSs_faults (t : Troupe) (ws : List (Nat × Word)) : (t.setSs ws).faults = t.faults := by
  unfold Troupe.setSs
  induction ws generalizing t with
  | nil => rfl
  | cons w ws ih => simp [List.foldl_cons, ih]
@[simp] theorem Troupe.setSs_hazards (t : Troupe) (ws : List (Nat × Word)) : (t.setSs ws).hazards = t.hazards := by
  unfold Troupe.setSs
  induction ws generalizing t with
  | nil => rfl
  | cons w ws ih => simp [List.foldl_cons, ih]
@[simp] theorem Troupe.setSs_pend (t : Troupe) (ws : List (Nat × Word)) : (t.setSs ws).pend = t.pend := by
  unfold Troupe.setSs
  induction ws generalizing t with
  | nil => rfl
  | cons w ws ih => simp [List.foldl_cons, ih]
@[simp] theorem Troupe.setSs_wait (t : Troupe) (ws : List (Nat × Word)) : (t.setSs ws).wait = t.wait := by
  unfold Troupe.setSs
  induction ws generalizing t with
  | nil => rfl
  | cons w ws ih => simp [List.foldl_cons, ih]
@[simp] theorem Troupe.setSs_lrecs (t : Troupe) (ws : List (Nat × Word)) : (t.setSs ws).lrecs = t.lrecs := by
  unfold Troupe.setSs
  induction ws generalizing t with
  | nil => rfl
  | cons w ws ih => simp [List.foldl_cons, ih]
@[simp] theorem Troupe.setSs_deqs (t : Troupe) (ws : List (Nat × Word)) : (t.setSs ws).deqs = t.deqs := by
  unfold Troupe.setSs
  induction ws generalizing t with
  | nil => rfl
  | cons w ws ih => simp [List.foldl_cons, ih]
@[simp] theorem Troupe.setSs_sent (t : Troupe) (ws : List (Nat × Word)) : (t.setSs ws).sent = t.sent := by
  unfold Troupe.setSs
  induction ws generalizing t with
  | nil => rfl
  | cons w ws ih => simp [List.foldl_cons, ih]
@[simp] theorem Troupe.setSs_phLives (t : Troupe) (ws : List (Nat × Word)) : (t.setSs ws).phLives = t.phLives := by
  unfold Troupe.setSs
  induction ws generalizing t with
  | nil => rfl
  | cons w ws ih => simp [List.foldl_cons, ih]
@[simp] theorem Troupe.setSs_lastIssue (t : Troupe) (ws : List (Nat × Word)) : (t.setSs ws).lastIssue = t.lastIssue := by
  unfold Troupe.setSs
  induction ws generalizing t with
  | nil => rfl
  | cons w ws ih => simp [List.foldl_cons, ih]
@[simp] theorem Troupe.setSs_freeAt (t : Troupe) (ws : List (Nat × Word)) : (t.setSs ws).freeAt = t.freeAt := by
  unfold Troupe.setSs
  induction ws generalizing t with
  | nil => rfl
  | cons w ws ih => simp [List.foldl_cons, ih]
@[simp] theorem Troupe.setSs_branched (t : Troupe) (ws : List (Nat × Word)) : (t.setSs ws).branched = t.branched := by
  unfold Troupe.setSs
  induction ws generalizing t with
  | nil => rfl
  | cons w ws ih => simp [List.foldl_cons, ih]
@[simp] theorem Troupe.setSs_exited (t : Troupe) (ws : List (Nat × Word)) : (t.setSs ws).exited = t.exited := by
  unfold Troupe.setSs
  induction ws generalizing t with
  | nil => rfl
  | cons w ws ih => simp [List.foldl_cons, ih]
@[simp] theorem Troupe.setSs_stopped (t : Troupe) (ws : List (Nat × Word)) : (t.setSs ws).stopped = t.stopped := by
  unfold Troupe.setSs
  induction ws generalizing t with
  | nil => rfl
  | cons w ws ih => simp [List.foldl_cons, ih]
@[simp] theorem Troupe.setSs_atYield (t : Troupe) (ws : List (Nat × Word)) : (t.setSs ws).atYield = t.atYield := by
  unfold Troupe.setSs
  induction ws generalizing t with
  | nil => rfl
  | cons w ws ih => simp [List.foldl_cons, ih]
@[simp] theorem Troupe.setSs_idCore (t : Troupe) (ws : List (Nat × Word)) : (t.setSs ws).idCore = t.idCore := by
  unfold Troupe.setSs
  induction ws generalizing t with
  | nil => rfl
  | cons w ws ih => simp [List.foldl_cons, ih]
@[simp] theorem Troupe.setSs_idSlot (t : Troupe) (ws : List (Nat × Word)) : (t.setSs ws).idSlot = t.idSlot := by
  unfold Troupe.setSs
  induction ws generalizing t with
  | nil => rfl
  | cons w ws ih => simp [List.foldl_cons, ih]
@[simp] theorem Troupe.setSs_openBatch (t : Troupe) (ws : List (Nat × Word)) : (t.setSs ws).openBatch = t.openBatch := by
  unfold Troupe.setSs
  induction ws generalizing t with
  | nil => rfl
  | cons w ws ih => simp [List.foldl_cons, ih]
@[simp] theorem Troupe.setSs_batches (t : Troupe) (ws : List (Nat × Word)) : (t.setSs ws).batches = t.batches := by
  unfold Troupe.setSs
  induction ws generalizing t with
  | nil => rfl
  | cons w ws ih => simp [List.foldl_cons, ih]
@[simp] theorem Troupe.setSs_joint (t : Troupe) (ws : List (Nat × Word)) : (t.setSs ws).joint = t.joint := by
  unfold Troupe.setSs
  induction ws generalizing t with
  | nil => rfl
  | cons w ws ih => simp [List.foldl_cons, ih]
@[simp] theorem Troupe.setSs_atJoint (t : Troupe) (ws : List (Nat × Word)) : (t.setSs ws).atJoint = t.atJoint := by
  unfold Troupe.setSs
  induction ws generalizing t with
  | nil => rfl
  | cons w ws ih => simp [List.foldl_cons, ih]
@[simp] theorem Troupe.setSs_unready (t : Troupe) (ws : List (Nat × Word)) : (t.setSs ws).unready = t.unready := by
  unfold Troupe.setSs
  induction ws generalizing t with
  | nil => rfl
  | cons w ws ih => simp [List.foldl_cons, ih]
@[simp] theorem Troupe.setSs_unreadyPad (t : Troupe) (ws : List (Nat × Word)) : (t.setSs ws).unreadyPad = t.unreadyPad := by
  unfold Troupe.setSs
  induction ws generalizing t with
  | nil => rfl
  | cons w ws ih => simp [List.foldl_cons, ih]
@[simp] theorem Troupe.setSs_barGen (t : Troupe) (ws : List (Nat × Word)) : (t.setSs ws).barGen = t.barGen := by
  unfold Troupe.setSs
  induction ws generalizing t with
  | nil => rfl
  | cons w ws ih => simp [List.foldl_cons, ih]
@[simp] theorem Troupe.setSs_badS (t : Troupe) (ws : List (Nat × Word)) : (t.setSs ws).badS = t.badS := by
  unfold Troupe.setSs
  induction ws generalizing t with
  | nil => rfl
  | cons w ws ih => simp [List.foldl_cons, ih]
@[simp] theorem Troupe.setSs_arrived (t : Troupe) (ws : List (Nat × Word)) : (t.setSs ws).arrived = t.arrived := by
  unfold Troupe.setSs
  induction ws generalizing t with
  | nil => rfl
  | cons w ws ih => simp [List.foldl_cons, ih]

@[simp] theorem Troupe.setVs_wg (t : Troupe) (m : Mask) (ws : List (Nat × Lanes)) : (t.setVs m ws).wg = t.wg := by
  unfold Troupe.setVs
  induction ws generalizing t with
  | nil => rfl
  | cons w ws ih => simp [List.foldl_cons, ih]
@[simp] theorem Troupe.setVs_trix (t : Troupe) (m : Mask) (ws : List (Nat × Lanes)) : (t.setVs m ws).trix = t.trix := by
  unfold Troupe.setVs
  induction ws generalizing t with
  | nil => rfl
  | cons w ws ih => simp [List.foldl_cons, ih]
@[simp] theorem Troupe.setVs_pipe (t : Troupe) (m : Mask) (ws : List (Nat × Lanes)) : (t.setVs m ws).pipe = t.pipe := by
  unfold Troupe.setVs
  induction ws generalizing t with
  | nil => rfl
  | cons w ws ih => simp [List.foldl_cons, ih]
@[simp] theorem Troupe.setVs_slot (t : Troupe) (m : Mask) (ws : List (Nat × Lanes)) : (t.setVs m ws).slot = t.slot := by
  unfold Troupe.setVs
  induction ws generalizing t with
  | nil => rfl
  | cons w ws ih => simp [List.foldl_cons, ih]
@[simp] theorem Troupe.setVs_pc (t : Troupe) (m : Mask) (ws : List (Nat × Lanes)) : (t.setVs m ws).pc = t.pc := by
  unfold Troupe.setVs
  induction ws generalizing t with
  | nil => rfl
  | cons w ws ih => simp [List.foldl_cons, ih]
@[simp] theorem Troupe.setVs_sregs (t : Troupe) (m : Mask) (ws : List (Nat × Lanes)) : (t.setVs m ws).sregs = t.sregs := by
  unfold Troupe.setVs
  induction ws generalizing t with
  | nil => rfl
  | cons w ws ih => simp [List.foldl_cons, ih]
@[simp] theorem Troupe.setVs_preds (t : Troupe) (m : Mask) (ws : List (Nat × Lanes)) : (t.setVs m ws).preds = t.preds := by
  unfold Troupe.setVs
  induction ws generalizing t with
  | nil => rfl
  | cons w ws ih => simp [List.foldl_cons, ih]
@[simp] theorem Troupe.setVs_flags (t : Troupe) (m : Mask) (ws : List (Nat × Lanes)) : (t.setVs m ws).flags = t.flags := by
  unfold Troupe.setVs
  induction ws generalizing t with
  | nil => rfl
  | cons w ws ih => simp [List.foldl_cons, ih]
@[simp] theorem Troupe.setVs_acs (t : Troupe) (m : Mask) (ws : List (Nat × Lanes)) : (t.setVs m ws).acs = t.acs := by
  unfold Troupe.setVs
  induction ws generalizing t with
  | nil => rfl
  | cons w ws ih => simp [List.foldl_cons, ih]
@[simp] theorem Troupe.setVs_sph (t : Troupe) (m : Mask) (ws : List (Nat × Lanes)) : (t.setVs m ws).sph = t.sph := by
  unfold Troupe.setVs
  induction ws generalizing t with
  | nil => rfl
  | cons w ws ih => simp [List.foldl_cons, ih]
@[simp] theorem Troupe.setVs_pcfg (t : Troupe) (m : Mask) (ws : List (Nat × Lanes)) : (t.setVs m ws).pcfg = t.pcfg := by
  unfold Troupe.setVs
  induction ws generalizing t with
  | nil => rfl
  | cons w ws ih => simp [List.foldl_cons, ih]
@[simp] theorem Troupe.setVs_allot (t : Troupe) (m : Mask) (ws : List (Nat × Lanes)) : (t.setVs m ws).allot = t.allot := by
  unfold Troupe.setVs
  induction ws generalizing t with
  | nil => rfl
  | cons w ws ih => simp [List.foldl_cons, ih]
@[simp] theorem Troupe.setVs_errpend (t : Troupe) (m : Mask) (ws : List (Nat × Lanes)) : (t.setVs m ws).errpend = t.errpend := by
  unfold Troupe.setVs
  induction ws generalizing t with
  | nil => rfl
  | cons w ws ih => simp [List.foldl_cons, ih]
@[simp] theorem Troupe.setVs_stfail (t : Troupe) (m : Mask) (ws : List (Nat × Lanes)) : (t.setVs m ws).stfail = t.stfail := by
  unfold Troupe.setVs
  induction ws generalizing t with
  | nil => rfl
  | cons w ws ih => simp [List.foldl_cons, ih]
@[simp] theorem Troupe.setVs_intrap (t : Troupe) (m : Mask) (ws : List (Nat × Lanes)) : (t.setVs m ws).intrap = t.intrap := by
  unfold Troupe.setVs
  induction ws generalizing t with
  | nil => rfl
  | cons w ws ih => simp [List.foldl_cons, ih]
@[simp] theorem Troupe.setVs_cause (t : Troupe) (m : Mask) (ws : List (Nat × Lanes)) : (t.setVs m ws).cause = t.cause := by
  unfold Troupe.setVs
  induction ws generalizing t with
  | nil => rfl
  | cons w ws ih => simp [List.foldl_cons, ih]
@[simp] theorem Troupe.setVs_taddr (t : Troupe) (m : Mask) (ws : List (Nat × Lanes)) : (t.setVs m ws).taddr = t.taddr := by
  unfold Troupe.setVs
  induction ws generalizing t with
  | nil => rfl
  | cons w ws ih => simp [List.foldl_cons, ih]
@[simp] theorem Troupe.setVs_tpc (t : Troupe) (m : Mask) (ws : List (Nat × Lanes)) : (t.setVs m ws).tpc = t.tpc := by
  unfold Troupe.setVs
  induction ws generalizing t with
  | nil => rfl
  | cons w ws ih => simp [List.foldl_cons, ih]
@[simp] theorem Troupe.setVs_tlanes (t : Troupe) (m : Mask) (ws : List (Nat × Lanes)) : (t.setVs m ws).tlanes = t.tlanes := by
  unfold Troupe.setVs
  induction ws generalizing t with
  | nil => rfl
  | cons w ws ih => simp [List.foldl_cons, ih]
@[simp] theorem Troupe.setVs_faults (t : Troupe) (m : Mask) (ws : List (Nat × Lanes)) : (t.setVs m ws).faults = t.faults := by
  unfold Troupe.setVs
  induction ws generalizing t with
  | nil => rfl
  | cons w ws ih => simp [List.foldl_cons, ih]
@[simp] theorem Troupe.setVs_hazards (t : Troupe) (m : Mask) (ws : List (Nat × Lanes)) : (t.setVs m ws).hazards = t.hazards := by
  unfold Troupe.setVs
  induction ws generalizing t with
  | nil => rfl
  | cons w ws ih => simp [List.foldl_cons, ih]
@[simp] theorem Troupe.setVs_pend (t : Troupe) (m : Mask) (ws : List (Nat × Lanes)) : (t.setVs m ws).pend = t.pend := by
  unfold Troupe.setVs
  induction ws generalizing t with
  | nil => rfl
  | cons w ws ih => simp [List.foldl_cons, ih]
@[simp] theorem Troupe.setVs_wait (t : Troupe) (m : Mask) (ws : List (Nat × Lanes)) : (t.setVs m ws).wait = t.wait := by
  unfold Troupe.setVs
  induction ws generalizing t with
  | nil => rfl
  | cons w ws ih => simp [List.foldl_cons, ih]
@[simp] theorem Troupe.setVs_lrecs (t : Troupe) (m : Mask) (ws : List (Nat × Lanes)) : (t.setVs m ws).lrecs = t.lrecs := by
  unfold Troupe.setVs
  induction ws generalizing t with
  | nil => rfl
  | cons w ws ih => simp [List.foldl_cons, ih]
@[simp] theorem Troupe.setVs_deqs (t : Troupe) (m : Mask) (ws : List (Nat × Lanes)) : (t.setVs m ws).deqs = t.deqs := by
  unfold Troupe.setVs
  induction ws generalizing t with
  | nil => rfl
  | cons w ws ih => simp [List.foldl_cons, ih]
@[simp] theorem Troupe.setVs_sent (t : Troupe) (m : Mask) (ws : List (Nat × Lanes)) : (t.setVs m ws).sent = t.sent := by
  unfold Troupe.setVs
  induction ws generalizing t with
  | nil => rfl
  | cons w ws ih => simp [List.foldl_cons, ih]
@[simp] theorem Troupe.setVs_phLives (t : Troupe) (m : Mask) (ws : List (Nat × Lanes)) : (t.setVs m ws).phLives = t.phLives := by
  unfold Troupe.setVs
  induction ws generalizing t with
  | nil => rfl
  | cons w ws ih => simp [List.foldl_cons, ih]
@[simp] theorem Troupe.setVs_lastIssue (t : Troupe) (m : Mask) (ws : List (Nat × Lanes)) : (t.setVs m ws).lastIssue = t.lastIssue := by
  unfold Troupe.setVs
  induction ws generalizing t with
  | nil => rfl
  | cons w ws ih => simp [List.foldl_cons, ih]
@[simp] theorem Troupe.setVs_freeAt (t : Troupe) (m : Mask) (ws : List (Nat × Lanes)) : (t.setVs m ws).freeAt = t.freeAt := by
  unfold Troupe.setVs
  induction ws generalizing t with
  | nil => rfl
  | cons w ws ih => simp [List.foldl_cons, ih]
@[simp] theorem Troupe.setVs_branched (t : Troupe) (m : Mask) (ws : List (Nat × Lanes)) : (t.setVs m ws).branched = t.branched := by
  unfold Troupe.setVs
  induction ws generalizing t with
  | nil => rfl
  | cons w ws ih => simp [List.foldl_cons, ih]
@[simp] theorem Troupe.setVs_exited (t : Troupe) (m : Mask) (ws : List (Nat × Lanes)) : (t.setVs m ws).exited = t.exited := by
  unfold Troupe.setVs
  induction ws generalizing t with
  | nil => rfl
  | cons w ws ih => simp [List.foldl_cons, ih]
@[simp] theorem Troupe.setVs_stopped (t : Troupe) (m : Mask) (ws : List (Nat × Lanes)) : (t.setVs m ws).stopped = t.stopped := by
  unfold Troupe.setVs
  induction ws generalizing t with
  | nil => rfl
  | cons w ws ih => simp [List.foldl_cons, ih]
@[simp] theorem Troupe.setVs_atYield (t : Troupe) (m : Mask) (ws : List (Nat × Lanes)) : (t.setVs m ws).atYield = t.atYield := by
  unfold Troupe.setVs
  induction ws generalizing t with
  | nil => rfl
  | cons w ws ih => simp [List.foldl_cons, ih]
@[simp] theorem Troupe.setVs_idCore (t : Troupe) (m : Mask) (ws : List (Nat × Lanes)) : (t.setVs m ws).idCore = t.idCore := by
  unfold Troupe.setVs
  induction ws generalizing t with
  | nil => rfl
  | cons w ws ih => simp [List.foldl_cons, ih]
@[simp] theorem Troupe.setVs_idSlot (t : Troupe) (m : Mask) (ws : List (Nat × Lanes)) : (t.setVs m ws).idSlot = t.idSlot := by
  unfold Troupe.setVs
  induction ws generalizing t with
  | nil => rfl
  | cons w ws ih => simp [List.foldl_cons, ih]
@[simp] theorem Troupe.setVs_openBatch (t : Troupe) (m : Mask) (ws : List (Nat × Lanes)) : (t.setVs m ws).openBatch = t.openBatch := by
  unfold Troupe.setVs
  induction ws generalizing t with
  | nil => rfl
  | cons w ws ih => simp [List.foldl_cons, ih]
@[simp] theorem Troupe.setVs_batches (t : Troupe) (m : Mask) (ws : List (Nat × Lanes)) : (t.setVs m ws).batches = t.batches := by
  unfold Troupe.setVs
  induction ws generalizing t with
  | nil => rfl
  | cons w ws ih => simp [List.foldl_cons, ih]
@[simp] theorem Troupe.setVs_joint (t : Troupe) (m : Mask) (ws : List (Nat × Lanes)) : (t.setVs m ws).joint = t.joint := by
  unfold Troupe.setVs
  induction ws generalizing t with
  | nil => rfl
  | cons w ws ih => simp [List.foldl_cons, ih]
@[simp] theorem Troupe.setVs_atJoint (t : Troupe) (m : Mask) (ws : List (Nat × Lanes)) : (t.setVs m ws).atJoint = t.atJoint := by
  unfold Troupe.setVs
  induction ws generalizing t with
  | nil => rfl
  | cons w ws ih => simp [List.foldl_cons, ih]
@[simp] theorem Troupe.setVs_unready (t : Troupe) (m : Mask) (ws : List (Nat × Lanes)) : (t.setVs m ws).unready = t.unready := by
  unfold Troupe.setVs
  induction ws generalizing t with
  | nil => rfl
  | cons w ws ih => simp [List.foldl_cons, ih]
@[simp] theorem Troupe.setVs_unreadyPad (t : Troupe) (m : Mask) (ws : List (Nat × Lanes)) : (t.setVs m ws).unreadyPad = t.unreadyPad := by
  unfold Troupe.setVs
  induction ws generalizing t with
  | nil => rfl
  | cons w ws ih => simp [List.foldl_cons, ih]
@[simp] theorem Troupe.setVs_barGen (t : Troupe) (m : Mask) (ws : List (Nat × Lanes)) : (t.setVs m ws).barGen = t.barGen := by
  unfold Troupe.setVs
  induction ws generalizing t with
  | nil => rfl
  | cons w ws ih => simp [List.foldl_cons, ih]
@[simp] theorem Troupe.setVs_badS (t : Troupe) (m : Mask) (ws : List (Nat × Lanes)) : (t.setVs m ws).badS = t.badS := by
  unfold Troupe.setVs
  induction ws generalizing t with
  | nil => rfl
  | cons w ws ih => simp [List.foldl_cons, ih]
@[simp] theorem Troupe.setVs_arrived (t : Troupe) (m : Mask) (ws : List (Nat × Lanes)) : (t.setVs m ws).arrived = t.arrived := by
  unfold Troupe.setVs
  induction ws generalizing t with
  | nil => rfl
  | cons w ws ih => simp [List.foldl_cons, ih]

end Sys2Proof.Machine
end

