-- ==== Sys2Proof/Laws/Issue.lean ====
section
/-! SUPPORT. What the shared operations of issue do, said once: finding and storing a troupe, starting an instruction, the results
it commits, and the skeleton `operate`. -/

namespace Sys2Proof.Machine

/-! ## Finding and storing a troupe -/

theorem troupe?_name {s : State} {a b : Nat} {t : Troupe} (h : s.troupe? a b = some t) : t.wg = a ∧ t.trix = b := by
  have := List.find?_some h
  simpa using this

theorem cur?_troupe {s : State} {t : Troupe} (h : s.cur? = some t) : s.troupe? t.wg t.trix = some t := by
  obtain ⟨h1, h2⟩ := troupe?_name h
  simpa [State.cur?, h1, h2] using h

theorem find?_replace_same {α : Type} {p : α → Bool} {x : α} (hx : p x = true) (l : List α) (h : (l.find? p).isSome = true) :
    (l.map fun u => if p u then x else u).find? p = some x := by
  induction l with
  | nil => simp at h
  | cons u l ih =>
    cases hu : p u with
    | true => rw [List.map_cons, hu, if_pos rfl, List.find?_cons_of_pos hx]
    | false =>
      rw [List.find?_cons_of_neg (by simp [hu])] at h
      rw [List.map_cons, hu, if_neg (by simp), List.find?_cons_of_neg (by simp [hu])]
      exact ih h

theorem find?_replace_other {α : Type} {p q : α → Bool} {x : α} (hx : q x = false) (hpq : ∀ u, p u = true → q u = false)
    (l : List α) : (l.map fun u => if p u then x else u).find? q = l.find? q := by
  induction l with
  | nil => rfl
  | cons u l ih =>
    cases hu : p u with
    | true =>
      rw [List.map_cons, hu, if_pos rfl, List.find?_cons_of_neg (by simp [hx]), List.find?_cons_of_neg (by simp [hpq u hu])]
      exact ih
    | false =>
      rw [List.map_cons, hu, if_neg (by simp), List.find?_cons, List.find?_cons, ih]

/-- A troupe stored under its name is found there. -/
theorem troupe?_setTroupe {s : State} {t t' : Troupe} (h : (s.troupe? t.wg t.trix).isSome = true) (hw : t'.wg = t.wg)
    (hx : t'.trix = t.trix) : (s.setTroupe t').troupe? t.wg t.trix = some t' := by
  unfold State.setTroupe State.troupe?
  simp only [hw, hx]
  exact find?_replace_same (by simp [hw, hx]) s.troupes h

/-- The other troupes are found as before. -/
theorem troupe?_setTroupe_other (s : State) {t' : Troupe} {a b : Nat} (hn : ¬(a = t'.wg ∧ b = t'.trix)) :
    (s.setTroupe t').troupe? a b = s.troupe? a b := by
  unfold State.setTroupe State.troupe?
  refine find?_replace_other ?_ ?_ s.troupes
  · simp only [Bool.and_eq_false_iff, beq_eq_false_iff_ne]
    by_cases h : t'.wg = a
    · exact .inr fun h2 => hn ⟨h.symm, h2.symm⟩
    · exact .inl h
  · intro u hu
    simp only [Bool.and_eq_true, beq_iff_eq] at hu
    simp only [Bool.and_eq_false_iff, beq_eq_false_iff_ne, hu.1, hu.2]
    by_cases h : t'.wg = a
    · exact .inr fun h2 => hn ⟨h.symm, h2.symm⟩
    · exact .inl h

theorem troupe?_of_troupes {s s' : State} (h : s'.troupes = s.troupes) (a b : Nat) : s'.troupe? a b = s.troupe? a b := by
  simp [State.troupe?, h]

theorem ctx?_of_ctxs {s s' : State} (h : s'.ctxs = s.ctxs) (k : Nat) : s'.ctx? k = s.ctx? k := by simp [State.ctx?, h]

/-! ## Starting an instruction -/

theorem unheld_modAt (ps : List Pipe) (k : Nat) (f : Pipe → Pipe) (h : ∀ p, (f p).unheld = p.unheld) :
    (modAt ps k f).map Pipe.unheld = ps.map Pipe.unheld := by
  apply List.ext_getElem? 
  intro i
  rw [List.getElem?_map, List.getElem?_map, modAt, List.getElem?_modify]
  cases ps[i]? with
  | none => rfl
  | some p => by_cases hk : k = i <;> simp [hk, h]

theorem restKept_of_pipes {s s' : State} (h : { s' with troupes := s.troupes, pipes := s.pipes, free := s.free, fresh := s.fresh } = s)
    (hp : s'.pipes = s.pipes) : s.restKept s' := ⟨h, by rw [hp]⟩

/-- What a release leaves alone, and what it takes away. -/
theorem release_spec (s : State) (t : Troupe) (names : List Nat) :
    State.restKept s (s.release t names).1 ∧ (s.release t names).1.troupes = s.troupes ∧ (s.release t names).1.free = s.free
      ∧ (s.release t names).1.fresh = s.fresh ∧ (s.release t names).1.cur = s.cur ∧ (s.release t names).1.dies = s.dies
      ∧ (s.release t names).2 = { t with
          regs := t.regs.filter fun r => !names.contains r.name
          hazards := (s.release t names).2.hazards
          openBatch := (s.release t names).2.openBatch, batches := (s.release t names).2.batches } :=
  ⟨⟨rfl, unheld_modAt s.pipes t.pipe _ fun _ => rfl⟩, rfl, rfl, rfl, rfl, rfl, rfl⟩

/-- The mappings that an instruction's start leaves: those it does not release, and its first writes with lanes that read 0. -/
theorem mapNames_names {used : List Nat} {tok : Nat} {ns : List Nat} {rs : List VReg} (h : mapNames used tok ns = some rs) :
    rs.map VReg.name = ns ∧ ∀ r ∈ rs, r.val = lanesOf (fun _ => 0) ∧ r.damaged = false := by
  induction ns generalizing used tok rs with
  | nil => simp [mapNames] at h; subst h; simp
  | cons n ns ih =>
    simp only [mapNames] at h
    split at h
    · cases h
    · rename_i p _
      cases hr : mapNames (p :: used) (tok + 1) ns with
      | none => rw [hr] at h; cases h
      | some rs' =>
        rw [hr] at h
        simp only [Option.map_some, Option.some.injEq] at h
        subst h
        obtain ⟨h1, h2⟩ := ih hr
        refine ⟨by simp [h1], ?_⟩
        intro r hr'
        rcases List.mem_cons.mp hr' with rfl | h3
        · exact ⟨rfl, rfl⟩
        · exact h2 r h3

/-- What issuing does to the state and the troupe, before the instruction's own effect (R133, R136, R142). -/
structure Started (s : State) (t : Troupe) (c : Ctl) (b : Nat) (rel fresh : List Nat) (s' : State) (t' : Troupe) : Prop where
  rest : State.restKept s s'
  troupes : s'.troupes = s.troupes
  free : s'.free = s.free + 1
  cur : s'.cur = s.cur
  dies : s'.dies = s.dies
  wg : t'.wg = t.wg
  trix : t'.trix = t.trix
  pipe : t'.pipe = t.pipe
  pc : t'.pc = t.pc + 12
  flags : t'.flags = t.flagged c
  lastIssue : t'.lastIssue = some (s.now t)
  specials : t'.specials = t.specials
  sregs : t'.sregs = t.sregs
  preds : t'.preds = t.preds
  regs : ∃ rs, t'.regs = (t.regs.filter fun r => !rel.contains r.name) ++ rs ∧ rs.map VReg.name = fresh
    ∧ ∀ r ∈ rs, r.val = lanesOf (fun _ => 0) ∧ r.damaged = false
  pend : t'.pend = t.pend
  unready : t'.unready = t.unready
  hazards : ∀ h ∈ t'.hazards, h ∈ t.hazards
  hazardsS : ∀ h ∈ t.hazards, (∀ n, h.reg ≠ .v n) → h ∈ t'.hazards
  hazardsR : ∀ h ∈ t'.hazards, ∀ n ∈ rel, h.reg ≠ .v n

theorem start_spec {s : State} {t : Troupe} {c : Ctl} {b : Nat} {rel fresh : List Nat} {s' : State} {t' : Troupe}
    (h : s.start t c b rel fresh = some (s', t')) : Started s t c b rel fresh s' t' := by
  unfold State.start at h
  by_cases hr : rel = []
  · subst hr
    simp only [if_true] at h
    split at h
    · cases h
    · rename_i rs hm
      simp only [Option.some.injEq, Prod.mk.injEq] at h
      obtain ⟨rfl, rfl⟩ := h
      obtain ⟨h1, h2⟩ := mapNames_names hm
      exact {
        rest := ⟨rfl, rfl⟩, troupes := rfl, free := rfl, cur := rfl, dies := rfl, wg := rfl, trix := rfl, pipe := rfl, pc := rfl
        flags := rfl, lastIssue := rfl, specials := rfl, sregs := rfl, preds := rfl
        regs := ⟨rs, by simp [List.filter_eq_self.mpr], h1, h2⟩, pend := rfl, unready := rfl, hazards := fun _ h => h, hazardsS := fun _ h _ => h
        hazardsR := by simp }
  · simp only [hr, if_false] at h
    split at h
    · cases h
    · rename_i rs hm
      simp only [Option.some.injEq, Prod.mk.injEq] at h
      obtain ⟨rfl, rfl⟩ := h
      obtain ⟨h1, h2⟩ := mapNames_names hm
      refine {
        rest := ⟨rfl, unheld_modAt s.pipes t.pipe _ fun _ => rfl⟩, troupes := rfl, free := rfl, cur := rfl, dies := rfl, wg := rfl, trix := rfl, pipe := rfl, pc := rfl
        flags := rfl, lastIssue := rfl, specials := rfl, sregs := rfl, preds := rfl
        regs := ⟨rs, rfl, h1, h2⟩, pend := rfl, unready := rfl, hazards := fun h hh => ?_, hazardsS := fun h hh hn => ?_
        hazardsR := fun h hh n hn he => ?_ }
      · exact (List.mem_filter.mp hh).1
      · refine List.mem_filter.mpr ⟨hh, ?_⟩
        cases hreg : h.reg with
        | v n => exact absurd hreg (hn n)
        | s n => rfl
        | p n => rfl
      · have := (List.mem_filter.mp hh).2
        rw [he] at this
        simp [hn] at this

/-! ## The skeleton of a meaning -/

/-- An instruction whose hints do not let it issue changes nothing (R142). -/
theorem run_waits {s : State} {t : Troupe} {c : Ctl} {body : State → Troupe → Plan} (h : s.cur? = some t)
    (hr : s.ready t c = false) : s.run c body = .next s := by simp [State.run, h, hr]

theorem run_issues {s : State} {t : Troupe} {c : Ctl} {body : State → Troupe → Plan} (h : s.mayIssue t c) :
    s.run c body = match body s (s.atIssue t) with
      | .trap i tpc => .next (s.takeTrap t i tpc)
      | .go s' => .next s' := by
  simp only [State.run, State.atIssue, h.1, h.2, if_true]
  all_goals cases body s (t.tick (s.now t)) <;> rfl

/-- An instruction that a check of R302 stops takes the trap, precisely. -/
theorem operateS_traps {s : State} {t : Troupe} {c : Ctl} {bts : State → Troupe → Nat} {o : State → Troupe → Opnds}
    {mod : Troupe → Bool} {late : State → Troupe → Option TrapInfo} {hold : State → Troupe → Bool}
    {act : State → Troupe → State → Troupe → State} {i : TrapInfo} (h : s.mayIssue t c)
    (hc : s.check (s.atIssue t) (o s (s.atIssue t)) (mod (s.atIssue t)) = some i) :
    s.operateS c bts o mod late hold act = .next (s.takeTrap t i t.pc) := by
  unfold State.operateS
  rw [run_issues h]
  simp only [hc]
  rfl

/-- An instruction that passes every check and that nothing holds has its effect on the started state. -/
theorem operateS_acts {s : State} {t : Troupe} {c : Ctl} {bts : State → Troupe → Nat} {o : State → Troupe → Opnds}
    {mod : Troupe → Bool} {late : State → Troupe → Option TrapInfo} {hold : State → Troupe → Bool}
    {act : State → Troupe → State → Troupe → State} (h : s.issuesWith t c (o s (s.atIssue t)) (mod (s.atIssue t)))
    (hl : late s (s.atIssue t) = none) (hh : hold s (s.atIssue t) = false) :
    ∃ s' t' u, Started s (s.atIssue t) c (bts s (s.atIssue t)) ((o s (s.atIssue t)).rel (s.atIssue t))
        ((o s (s.atIssue t)).fresh (s.atIssue t)) s' t'
      ∧ u = s.touched (s.atIssue t) c t' ((o s (s.atIssue t)).src (s.atIssue t) ++ (o s (s.atIssue t)).dst (s.atIssue t))
      ∧ s.operateS c bts o mod late hold act = .next (act s (s.atIssue t) s' u) := by
  obtain ⟨hm, hc, hs⟩ := h
  have hs' := hs c (bts s (s.atIssue t))
  rw [Option.isSome_iff_exists] at hs'
  obtain ⟨⟨s', t'⟩, hs'⟩ := hs'
  refine ⟨s', t', _, start_spec hs', rfl, ?_⟩
  unfold State.operateS
  rw [run_issues hm]
  simp only [hc, hl, hh, hs', Bool.false_eq_true, if_false]

/-! ## Committing results -/

/-- The state `u` is `s` with the troupe `t` replaced by `t'`. -/
structure Replaced (s : State) (t : Troupe) (u : State) (t' : Troupe) : Prop where
  rest : State.restKept s u
  now : u.becomes t t'
  others : State.othersKept s u t

theorem replaced_setTroupe {s s' : State} {t t' : Troupe} (h : (s.troupe? t.wg t.trix).isSome = true)
    (hr : State.restKept s s') (ht : s'.troupes = s.troupes) (hw : t'.wg = t.wg) (hx : t'.trix = t.trix) :
    Replaced s t (s'.setTroupe t') t' where
  rest := by
    refine ⟨?_, hr.2⟩
    conv => rhs; rw [← hr.1]
    rfl
  now := troupe?_setTroupe (by rw [troupe?_of_troupes ht]; exact h) hw hx
  others := fun a b hn => by
    rw [troupe?_setTroupe_other s' (by rw [hw, hx]; exact hn), troupe?_of_troupes ht]

theorem restKept_trans {s s' u : State} (h : State.restKept s s') (h' : State.restKept s' u) : State.restKept s u := by
  refine ⟨?_, h'.2.trans h.2⟩
  conv => rhs; rw [← h.1, ← h'.1]

/-- The bookkeeping of a flag that clears later: an entry of `pend` and a name. -/
theorem clearLater_spec (s : State) (t : Troupe) (c : Ctl) :
    State.restKept s (s.clearLater t c).1 ∧ (s.clearLater t c).1.troupes = s.troupes
      ∧ ∃ p, (s.clearLater t c).2 = { t with pend := p } := by
  unfold State.clearLater
  cases c.flag
  · exact ⟨⟨rfl, rfl⟩, rfl, t.pend, rfl⟩
  · exact ⟨⟨rfl, rfl⟩, rfl, _, rfl⟩

/-- The troupe `t2` stored at the end of an instruction of `t`: only its list of instructions under way may grow. -/
theorem commit_spec {s : State} {t t2 : Troupe} (c : Ctl) (h : (s.troupe? t.wg t.trix).isSome = true)
    (hw : t2.wg = t.wg) (hx : t2.trix = t.trix) : ∃ p, Replaced s t (s.commit t2 c) { t2 with pend := p } := by
  obtain ⟨h1, h2, p, h3⟩ := clearLater_spec s t2 c
  refine ⟨p, ?_⟩
  rw [← h3]
  exact replaced_setTroupe h h1 h2 ((congrArg Troupe.wg h3).trans hw) ((congrArg Troupe.trix h3).trans hx)

/-- Waiting for the activity mask changes one field: the next cycle in which the troupe may issue. -/
theorem awaitMask_spec (t : Troupe) (ns : List Nat) (e : Nat) : ∃ k, t.awaitMask ns e = { t with freeAt := k } := by
  unfold Troupe.awaitMask
  split
  · exact ⟨_, rfl⟩
  · exact ⟨t.freeAt, rfl⟩

/-- Scalar results of a fixed latency. -/
theorem commitS_spec {s : State} {t : Troupe} (c : Ctl) (lat : Nat) (ws : List (Nat × Word))
    (h : (s.troupe? t.wg t.trix).isSome = true) :
    ∃ p z k, Replaced s t (s.commitS t c lat ws)
      { (t.setSs (ws.map fun w => (w.1, s.settleS t w.1 (s.now t + lat) w.2))).addHazards z with pend := p, freeAt := k } := by
  obtain ⟨k, hk⟩ := awaitMask_spec ((t.setSs (ws.map fun w => (w.1, s.settleS t w.1 (s.now t + lat) w.2))).addHazards
    (sHazards (ws.map Prod.fst) (.cycle (s.now t + lat) (c.flag.map fun _ => s.fresh)))) (ws.map Prod.fst) (s.now t + lat)
  obtain ⟨p, hp⟩ := commit_spec (t2 := { (t.setSs (ws.map fun w => (w.1, s.settleS t w.1 (s.now t + lat) w.2))).addHazards
    (sHazards (ws.map Prod.fst) (.cycle (s.now t + lat) (c.flag.map fun _ => s.fresh))) with freeAt := k }) c h
    (Troupe.setSs_wg ..) (Troupe.setSs_trix ..)
  refine ⟨p, sHazards (ws.map Prod.fst) (.cycle (s.now t + lat) (c.flag.map fun _ => s.fresh)), k, ?_⟩
  show Replaced s t (s.commit (Troupe.awaitMask _ _ _) c) _
  rw [hk]
  exact hp

/-- Scalar results that `VARIABLE_RESULT_WRITE` writes. -/
theorem commitSLater_spec {s : State} {t : Troupe} (c : Ctl) (ws : List (Nat × Word))
    (h : (s.troupe? t.wg t.trix).isSome = true) :
    Replaced s t (s.commitSLater t c ws) { t.addHazards (sHazards (ws.map Prod.fst) (.pend s.fresh)) with
      pend := t.pend ++ [⟨s.fresh, c.flag, .sregs ws, false⟩] } :=
  replaced_setTroupe h ⟨rfl, rfl⟩ rfl rfl rfl

/-- A predicate result. -/
theorem commitP_spec {s : State} {t : Troupe} (c : Ctl) (lat n : Nat) (m v : Mask)
    (h : (s.troupe? t.wg t.trix).isSome = true) :
    ∃ p z, Replaced s t (s.commitP t c lat n m v)
      { (t.setP n ((t.pred n &&& ~~~m) ||| (s.settleP t n (s.now t + lat) v &&& m))).addHazards z with pend := p } := by
  obtain ⟨p, hp⟩ := commit_spec
    (t2 := (t.setP n ((t.pred n &&& ~~~m) ||| (s.settleP t n (s.now t + lat) v &&& m))).addHazards
      (if n < 7 then [⟨.p n, m, .cycle (s.now t + lat) (c.flag.map fun _ => s.fresh)⟩] else [])) c h
    (Troupe.setP_wg ..) (Troupe.setP_trix ..)
  exact ⟨p, _, hp⟩

/-- Vector results of a fixed latency. -/
theorem commitV_spec {s : State} {t : Troupe} (c : Ctl) (lat : Nat) (m : Mask) (ws : List (Nat × Lanes))
    (h : (s.troupe? t.wg t.trix).isSome = true) :
    ∃ p z, Replaced s t (s.commitV t c lat m ws)
      { ((t.wrote (ws.map Prod.fst)).setVs m (ws.map fun w => (w.1, s.settleV t w.1 (s.now t + lat) w.2))).addHazards z with
        pend := p } := by
  obtain ⟨p, hp⟩ := commit_spec
    (t2 := ((t.wrote (ws.map Prod.fst)).setVs m (ws.map fun w => (w.1, s.settleV t w.1 (s.now t + lat) w.2))).addHazards
      ((ws.filter fun w => w.1 != 255).map fun w => ⟨.v w.1, m, .cycle (s.now t + lat) (c.flag.map fun _ => s.fresh)⟩)) c h
    (Troupe.setVs_wg ..) (Troupe.setVs_trix ..)
  exact ⟨p, _, hp⟩

/-- Vector results that `VARIABLE_RESULT_WRITE` writes. -/
theorem commitVLater_spec {s : State} {t : Troupe} (c : Ctl) (m : Mask) (ws : List (Nat × Lanes))
    (h : (s.troupe? t.wg t.trix).isSome = true) :
    Replaced s t (s.commitVLater t c m ws)
      { (t.wrote (ws.map Prod.fst)).addHazards ((ws.filter fun w => w.1 != 255).map fun w => ⟨.v w.1, m, .pend s.fresh⟩) with
        pend := t.pend ++ [⟨s.fresh, c.flag, .vregs (ws.map fun w => (w.1, t.token w.1)) m (ws.map Prod.snd), false⟩] } :=
  replaced_setTroupe h ⟨rfl, rfl⟩ rfl rfl rfl

/-! ## Earlier results on their way (R144) -/

theorem lands_mono {t : Troupe} {p q : Nat → Bool} {r : RegId} {l : Nat} (h : ∀ n, p n = true → q n = true)
    (hq : t.lands q r l = false) : t.lands p r l = false := by
  unfold Troupe.lands at *
  rw [List.any_eq_false] at *
  intro x hx
  have := hq x hx
  revert this
  cases x.order with
  | cycle n k => simp only [Bool.and_eq_true, not_and]; intro h1 h2 h3; exact h1 h2 (h n h3)
  | pend k => simp
  | split k => simp
  | batch => simp

/-- What lands after the issue cycle is not affected by what has landed before it. -/
theorem lands_tick {t : Troupe} {now : Nat} {p : Nat → Bool} (r : RegId) (l : Nat) (hp : ∀ n, p n = true → now < n) :
    (t.tick now).lands p r l = t.lands p r l := by
  unfold Troupe.lands Troupe.tick
  simp only [List.any_filter]
  congr 1
  funext x
  cases hx : x.order with
  | cycle n k =>
    by_cases hn : p n = true
    · have := hp n hn
      simp [HazOrd.past, hn, show ¬ n ≤ now by omega]
    · simp [hn]
  | pend k => simp
  | split k => simp
  | batch => simp

theorem lands_hazards {t t' : Troupe} (h : t'.hazards = t.hazards) (p : Nat → Bool) (r : RegId) (l : Nat) :
    t'.lands p r l = t.lands p r l := by simp [Troupe.lands, h]

/-- A scalar result lands as computed when no earlier one lands with it or after it. -/
theorem settleS_last {s : State} {t : Troupe} {n e : Nat} {v : Word} (h : t.landsLast (.s n) e 0) : s.settleS t n e v = v := by
  have h1 : t.after (.s n) e 0 = false := lands_mono (fun m hm => by simp at hm ⊢; omega) h
  have h2 : t.lands (· == e) (.s n) 0 = false := lands_mono (fun m hm => by simp at hm ⊢; omega) h
  simp [State.settleS, Troupe.keeps, h1, h2]

theorem settleS_after {s : State} {t : Troupe} {n e : Nat} {v : Word} (h : t.after (.s n) e 0 = true) :
    s.settleS t n e v = t.sregs.getD n 0 := by simp [State.settleS, Troupe.keeps, h]

theorem landsLast_issued {s : State} {t : Troupe} {c : Ctl} {b : Nat} {r : RegId} {k l : Nat} (hk : 0 < k)
    (h : t.landsLast r (s.now t + k) l) : ((s.atIssue t).issued c (s.now t) b).landsLast r (s.now t + k) l := by
  unfold Troupe.landsLast at *
  rw [← h]
  exact (lands_hazards (t := s.atIssue t) rfl ..).trans (lands_tick _ _ fun n hn => by simp at hn; omega)

theorem after_issued {s : State} {t : Troupe} {c : Ctl} {b : Nat} {r : RegId} {k l : Nat}
    (h : t.after r (s.now t + k) l = true) : ((s.atIssue t).issued c (s.now t) b).after r (s.now t + k) l = true := by
  unfold Troupe.after at *
  rw [← h]
  exact (lands_hazards (t := s.atIssue t) rfl ..).trans (lands_tick _ _ fun n hn => by simp at hn; omega)

theorem set_getD_self (l : List Word) (n : Nat) : l.set n (l.getD n 0) = l := by
  apply List.ext_getElem (by simp)
  intro i h1 h2
  rw [List.getElem_set]
  split
  · subst_vars
    simp [List.getD_eq_getElem?_getD, List.getElem?_eq_getElem h2]
  · rfl

theorem sregs_setS (t : Troupe) (n : Nat) (v : Word) (h : n < 64) : (t.setS n v).sregs = t.sregs.set n v := by
  simp [Troupe.setS, h]

end Sys2Proof.Machine
end

