-- ==== Sys2Proof/Laws/Memory.lean ====
section
/-! SUPPORT. The laws of memory: a read after a write, the bytes a write leaves alone, and the canonical form that every memory
operation keeps. -/

namespace Sys2Proof.Machine

/-! ## One byte -/

theorem cellGet_below {lo a : Nat} {m : List Host.Cell} (hw : Memory.wfFrom lo m = true) (h : a < lo) :
    cellGet m a = emptyByte := by
  cases m with
  | nil => rfl
  | cons c m =>
    obtain ⟨b, w⟩ := c
    simp only [Memory.wfFrom, Bool.and_eq_true, decide_eq_true_eq] at hw
    have h1 : b ≠ a := by omega
    have h2 : a < b := by omega
    simp [cellGet, h1, h2]

theorem wfFrom_mono {lo lo' : Nat} {m : List Host.Cell} (h : lo' ≤ lo) (hw : Memory.wfFrom lo m = true) :
    Memory.wfFrom lo' m = true := by
  cases m with
  | nil => rfl
  | cons c m =>
    simp only [Memory.wfFrom, Bool.and_eq_true, decide_eq_true_eq] at hw ⊢
    exact ⟨⟨Nat.le_trans h hw.1.1, hw.1.2⟩, hw.2⟩

theorem cellSet_wfFrom {lo a : Nat} {m : List Host.Cell} (v : Byte) (hw : Memory.wfFrom lo m = true) (h : lo ≤ a) :
    Memory.wfFrom lo (cellSet m a v) = true := by
  induction m generalizing lo with
  | nil => by_cases hv : v = emptyByte <;> simp [cellSet, Memory.wfFrom, hv, h]
  | cons c m ih =>
    obtain ⟨b, w⟩ := c
    simp only [Memory.wfFrom, Bool.and_eq_true, decide_eq_true_eq] at hw
    obtain ⟨⟨hlo, hne⟩, hm⟩ := hw
    by_cases hb : b = a
    · subst hb
      by_cases hv : v = emptyByte
      · simpa [cellSet, hv] using wfFrom_mono (by omega) hm
      · simp [cellSet, Memory.wfFrom, hv, hlo, hm]
    · by_cases hlt : a < b
      · by_cases hv : v = emptyByte
        · simpa [cellSet, Memory.wfFrom, hb, hlt, hv, hm, hlo] using hne
        · have h' : a + 1 ≤ b := hlt
          simpa [cellSet, Memory.wfFrom, hb, hlt, hv, h, hm, h'] using hne
      · have h' : b + 1 ≤ a := by omega
        simpa [cellSet, Memory.wfFrom, hb, hlt, hlo, ih hm h'] using hne

theorem cellSet_wf {m : List Host.Cell} (a : Nat) (v : Byte) (hw : Memory.wf m = true) : Memory.wf (cellSet m a v) = true :=
  cellSet_wfFrom v hw (Nat.zero_le a)

theorem cellGet_cellSet_same {lo a : Nat} {m : List Host.Cell} (v : Byte) (hw : Memory.wfFrom lo m = true) (h : lo ≤ a) :
    cellGet (cellSet m a v) a = v := by
  induction m generalizing lo with
  | nil => by_cases hv : v = emptyByte <;> simp [cellSet, cellGet, hv]
  | cons c m ih =>
    obtain ⟨b, w⟩ := c
    simp only [Memory.wfFrom, Bool.and_eq_true, decide_eq_true_eq] at hw
    by_cases hb : b = a
    · subst hb
      by_cases hv : v = emptyByte
      · simpa [cellSet, hv] using cellGet_below hw.2 (Nat.lt_succ_self b)
      · simp [cellSet, cellGet, hv]
    · by_cases hlt : a < b
      · by_cases hv : v = emptyByte <;> simp [cellSet, cellGet, hb, hlt, hv]
      · simpa [cellSet, cellGet, hb, hlt] using ih hw.2 (by omega)

theorem cellGet_cellSet_other {lo a a' : Nat} {m : List Host.Cell} (v : Byte) (hw : Memory.wfFrom lo m = true) (h : a' ≠ a) :
    cellGet (cellSet m a v) a' = cellGet m a' := by
  induction m generalizing lo with
  | nil =>
    by_cases hv : v = emptyByte
    · simp [cellSet, hv]
    · by_cases hlt : a' < a <;> simp [cellSet, cellGet, hv, Ne.symm h]
  | cons c m ih =>
    obtain ⟨b, w⟩ := c
    simp only [Memory.wfFrom, Bool.and_eq_true, decide_eq_true_eq] at hw
    by_cases hb : b = a
    · subst hb
      by_cases hv : v = emptyByte
      · by_cases hlt : a' < b
        · simpa [cellSet, cellGet, hv, Ne.symm h, hlt] using cellGet_below hw.2 (by omega)
        · simp [cellSet, cellGet, hv, Ne.symm h, hlt]
      · simp [cellSet, cellGet, hv, Ne.symm h]
    · by_cases hlt : a < b
      · by_cases hv : v = emptyByte
        · simp [cellSet, hb, hlt, hv]
        · by_cases h1 : a' < a
          · have : a' < b := by omega
            have : b ≠ a' := by omega
            simp [cellSet, cellGet, Ne.symm h, *]
          · simp [cellSet, cellGet, hb, hlt, hv, Ne.symm h, h1]
      · simp [cellSet, cellGet, hb, hlt, ih hw.2]

/-! ## Ranges of bytes -/

theorem cellsSet_wf {m : List Host.Cell} (a : Nat) (bs : List Byte) (hw : Memory.wf m = true) :
    Memory.wf (cellsSet m a bs) = true := by
  induction bs generalizing m a with
  | nil => exact hw
  | cons b bs ih => exact ih (a + 1) (cellSet_wf a b hw)

theorem cellGet_cellsSet_outside {m : List Host.Cell} (a : Nat) (bs : List Byte) (x : Nat) (hw : Memory.wf m = true)
    (h : x < a ∨ a + bs.length ≤ x) : cellGet (cellsSet m a bs) x = cellGet m x := by
  induction bs generalizing m a with
  | nil => rfl
  | cons b bs ih =>
    simp only [List.length_cons] at h
    rw [cellsSet, ih (a + 1) (cellSet_wf a b hw) (by omega), cellGet_cellSet_other b hw (by omega)]

theorem cellGet_cellsSet_inside {m : List Host.Cell} (a : Nat) (bs : List Byte) (i : Nat) (hw : Memory.wf m = true)
    (h : i < bs.length) : cellGet (cellsSet m a bs) (a + i) = bs.getD i 0 := by
  induction bs generalizing m a i with
  | nil => simp at h
  | cons b bs ih =>
    cases i with
    | zero =>
      rw [cellsSet, cellGet_cellsSet_outside _ _ _ (cellSet_wf a b hw) (by omega)]
      exact cellGet_cellSet_same b hw (Nat.zero_le _)
    | succ i =>
      have := ih (a + 1) i (cellSet_wf a b hw) (by simpa using h)
      rw [cellsSet, show a + (i + 1) = a + 1 + i by omega, this]
      rfl

/-- Taking bytes away keeps the form. -/
theorem filter_wf {m : List Host.Cell} (p : Host.Cell → Bool) (hw : Memory.wf m = true) : Memory.wf (m.filter p) = true := by
  suffices h : ∀ lo, Memory.wfFrom lo m = true → Memory.wfFrom lo (m.filter p) = true from h 0 hw
  clear hw
  induction m with
  | nil => intro lo h; exact h
  | cons c m ih =>
    intro lo h
    simp only [Memory.wfFrom, Bool.and_eq_true, decide_eq_true_eq] at h
    by_cases hp : p c = true
    · simp only [List.filter_cons, hp, if_true, Memory.wfFrom, Bool.and_eq_true, decide_eq_true_eq]
      exact ⟨h.1, ih _ h.2⟩
    · simp only [List.filter_cons, hp]
      exact wfFrom_mono (by omega) (ih _ h.2)

/-! ## Writes at the coherence point -/

theorem recallLine_wf {s : State} (ln : Nat) (hw : Memory.wf s.mem = true) : Memory.wf (s.recallLine ln).mem = true := by
  simp only [State.recallLine]
  split
  · exact cellsSet_wf _ _ hw
  · exact hw

@[simp] theorem undamage_mem (s : State) (ln : Nat) : (s.undamage ln).mem = s.mem := by
  unfold State.undamage
  split <;> rfl

theorem foldl_recallLine_wf {s : State} (ls : List Nat) (hw : Memory.wf s.mem = true) :
    Memory.wf (ls.foldl State.recallLine s).mem = true := by
  induction ls generalizing s with
  | nil => exact hw
  | cons l ls ih => exact ih (recallLine_wf l hw)

@[simp] theorem foldl_undamage_mem (s : State) (ls : List Nat) : (ls.foldl State.undamage s).mem = s.mem := by
  induction ls generalizing s with
  | nil => rfl
  | cons l ls ih => simp [List.foldl_cons, ih]

/-- A line in its slice: memory is as before. -/
@[simp] theorem inSlice_mem (s : State) (ln : Nat) (wr : Bool) : (s.inSlice ln wr).mem = s.mem := by
  unfold State.inSlice
  split
  · rfl
  split
  · rfl
  dsimp only
  split
  · split <;> rfl
  · rfl

@[simp] theorem foldl_inSlice_mem (s : State) (ls : List Nat) (wr : Bool) :
    (ls.foldl (fun s ln => s.inSlice ln wr) s).mem = s.mem := by
  induction ls generalizing s with
  | nil => rfl
  | cons l ls ih => simp [List.foldl_cons, ih]

theorem viewWrite_wf {s : State} (loc : Nat) (bs : List Byte) (hw : Memory.wf s.mem = true) :
    Memory.wf (s.viewWrite loc bs).mem = true := by
  simp only [State.viewWrite]
  exact cellsSet_wf _ _ (by simpa using foldl_recallLine_wf _ hw)

theorem reset_mem_wf : Memory.wf State.reset.mem = true := rfl

end Sys2Proof.Machine
end

