-- ==== Sys2Proof/Laws/PerInstr.lean ====
section
/-! SUPPORT. The opcode of every instruction, one lemma per constructor: the decoder reads the form that an instruction carries,
under the opcode that the encoder gives it, as that instruction, whatever the two other readings of the word hold. -/

namespace Sys2Proof.Laws.Opcode

/-- The decoder's table undoes the encoder's for one instruction (R286, R288). -/
def Statement (i : Instr) : Prop :=
  match fieldsOf i with
  | some (.o code f) => code < 2 ^ 10 ∧ ∀ m c, decodeOpcode code f m c = some i
  | some (.m code m) => code < 2 ^ 10 ∧ ∀ f c, decodeOpcode code f m c = some i
  | some (.c code c) => code < 2 ^ 10 ∧ ∀ f m, decodeOpcode code f m c = some i
  | none => True

theorem sadd (f : OForm) : Statement (.sadd f) := ⟨by decide, fun _ _ => rfl⟩
theorem ssub (f : OForm) : Statement (.ssub f) := ⟨by decide, fun _ _ => rfl⟩
theorem smul (f : OForm) : Statement (.smul f) := ⟨by decide, fun _ _ => rfl⟩
theorem smulh (u : Bool) (f : OForm) : Statement (.smulh u f) := by
  cases u <;> first | exact trivial | exact ⟨by decide, fun _ _ => rfl⟩
theorem sdiv (u : Bool) (f : OForm) : Statement (.sdiv u f) := by
  cases u <;> first | exact trivial | exact ⟨by decide, fun _ _ => rfl⟩
theorem srem (u : Bool) (f : OForm) : Statement (.srem u f) := by
  cases u <;> first | exact trivial | exact ⟨by decide, fun _ _ => rfl⟩
theorem sand (f : OForm) : Statement (.sand f) := ⟨by decide, fun _ _ => rfl⟩
theorem sor (f : OForm) : Statement (.sor f) := ⟨by decide, fun _ _ => rfl⟩
theorem sxor (f : OForm) : Statement (.sxor f) := ⟨by decide, fun _ _ => rfl⟩
theorem sshl (f : OForm) : Statement (.sshl f) := ⟨by decide, fun _ _ => rfl⟩
theorem sshr (f : OForm) : Statement (.sshr f) := ⟨by decide, fun _ _ => rfl⟩
theorem ssra (f : OForm) : Statement (.ssra f) := ⟨by decide, fun _ _ => rfl⟩
theorem smin (u : Bool) (f : OForm) : Statement (.smin u f) := by
  cases u <;> first | exact trivial | exact ⟨by decide, fun _ _ => rfl⟩
theorem smax (u : Bool) (f : OForm) : Statement (.smax u f) := by
  cases u <;> first | exact trivial | exact ⟨by decide, fun _ _ => rfl⟩
theorem scmp (f : OForm) : Statement (.scmp f) := ⟨by decide, fun _ _ => rfl⟩
theorem ssel (f : OForm) : Statement (.ssel f) := ⟨by decide, fun _ _ => rfl⟩
theorem smov (f : OForm) : Statement (.smov f) := ⟨by decide, fun _ _ => rfl⟩
theorem smovh (f : OForm) : Statement (.smovh f) := ⟨by decide, fun _ _ => rfl⟩
theorem sld (f : MForm) : Statement (.sld f) := ⟨by decide, fun _ _ => rfl⟩
theorem sst (f : MForm) : Statement (.sst f) := ⟨by decide, fun _ _ => rfl⟩
theorem br (f : CForm) : Statement (.br f) := ⟨by decide, fun _ _ => rfl⟩
theorem brz (f : CForm) : Statement (.brz f) := ⟨by decide, fun _ _ => rfl⟩
theorem brnz (f : CForm) : Statement (.brnz f) := ⟨by decide, fun _ _ => rfl⟩
theorem bany (f : CForm) : Statement (.bany f) := ⟨by decide, fun _ _ => rfl⟩
theorem ball (f : CForm) : Statement (.ball f) := ⟨by decide, fun _ _ => rfl⟩
theorem bnone (f : CForm) : Statement (.bnone f) := ⟨by decide, fun _ _ => rfl⟩
theorem call (f : CForm) : Statement (.call f) := ⟨by decide, fun _ _ => rfl⟩
theorem ret (f : OForm) : Statement (.ret f) := ⟨by decide, fun _ _ => rfl⟩
theorem jmp (f : OForm) : Statement (.jmp f) := ⟨by decide, fun _ _ => rfl⟩
theorem exit (f : OForm) : Statement (.exit f) := ⟨by decide, fun _ _ => rfl⟩
theorem yield (f : OForm) : Statement (.yield f) := ⟨by decide, fun _ _ => rfl⟩
theorem nop (f : OForm) : Statement (.nop f) := ⟨by decide, fun _ _ => rfl⟩
theorem pand (f : OForm) : Statement (.pand f) := ⟨by decide, fun _ _ => rfl⟩
theorem por (f : OForm) : Statement (.por f) := ⟨by decide, fun _ _ => rfl⟩
theorem pxor (f : OForm) : Statement (.pxor f) := ⟨by decide, fun _ _ => rfl⟩
theorem pnot (f : OForm) : Statement (.pnot f) := ⟨by decide, fun _ _ => rfl⟩
theorem pmov (f : OForm) : Statement (.pmov f) := ⟨by decide, fun _ _ => rfl⟩
theorem pcnt (f : OForm) : Statement (.pcnt f) := ⟨by decide, fun _ _ => rfl⟩
theorem pfirst (f : OForm) : Statement (.pfirst f) := ⟨by decide, fun _ _ => rfl⟩
theorem pfroms (f : OForm) : Statement (.pfroms f) := ⟨by decide, fun _ _ => rfl⟩
theorem ptos (f : OForm) : Statement (.ptos f) := ⟨by decide, fun _ _ => rfl⟩
theorem vadd (f : OForm) : Statement (.vadd f) := ⟨by decide, fun _ _ => rfl⟩
theorem vsub (f : OForm) : Statement (.vsub f) := ⟨by decide, fun _ _ => rfl⟩
theorem vadds (u : Bool) (f : OForm) : Statement (.vadds u f) := by
  cases u <;> first | exact trivial | exact ⟨by decide, fun _ _ => rfl⟩
theorem vsubs (u : Bool) (f : OForm) : Statement (.vsubs u f) := by
  cases u <;> first | exact trivial | exact ⟨by decide, fun _ _ => rfl⟩
theorem vaddc (f : OForm) : Statement (.vaddc f) := ⟨by decide, fun _ _ => rfl⟩
theorem vmul (f : OForm) : Statement (.vmul f) := ⟨by decide, fun _ _ => rfl⟩
theorem vmulh (u : Bool) (f : OForm) : Statement (.vmulh u f) := by
  cases u <;> first | exact trivial | exact ⟨by decide, fun _ _ => rfl⟩
theorem vmad (f : OForm) : Statement (.vmad f) := ⟨by decide, fun _ _ => rfl⟩
theorem vdiv (u : Bool) (f : OForm) : Statement (.vdiv u f) := by
  cases u <;> first | exact trivial | exact ⟨by decide, fun _ _ => rfl⟩
theorem vrem (u : Bool) (f : OForm) : Statement (.vrem u f) := by
  cases u <;> first | exact trivial | exact ⟨by decide, fun _ _ => rfl⟩
theorem vand (f : OForm) : Statement (.vand f) := ⟨by decide, fun _ _ => rfl⟩
theorem vor (f : OForm) : Statement (.vor f) := ⟨by decide, fun _ _ => rfl⟩
theorem vxor (f : OForm) : Statement (.vxor f) := ⟨by decide, fun _ _ => rfl⟩
theorem vnot (f : OForm) : Statement (.vnot f) := ⟨by decide, fun _ _ => rfl⟩
theorem vshl (f : OForm) : Statement (.vshl f) := ⟨by decide, fun _ _ => rfl⟩
theorem vshr (f : OForm) : Statement (.vshr f) := ⟨by decide, fun _ _ => rfl⟩
theorem vsra (f : OForm) : Statement (.vsra f) := ⟨by decide, fun _ _ => rfl⟩
theorem vmin (u : Bool) (f : OForm) : Statement (.vmin u f) := by
  cases u <;> first | exact trivial | exact ⟨by decide, fun _ _ => rfl⟩
theorem vmax (u : Bool) (f : OForm) : Statement (.vmax u f) := by
  cases u <;> first | exact trivial | exact ⟨by decide, fun _ _ => rfl⟩
theorem vabs (f : OForm) : Statement (.vabs f) := ⟨by decide, fun _ _ => rfl⟩
theorem vneg (f : OForm) : Statement (.vneg f) := ⟨by decide, fun _ _ => rfl⟩
theorem vcmp (f : OForm) : Statement (.vcmp f) := ⟨by decide, fun _ _ => rfl⟩
theorem vsel (f : OForm) : Statement (.vsel f) := ⟨by decide, fun _ _ => rfl⟩
theorem vmov (f : OForm) : Statement (.vmov f) := ⟨by decide, fun _ _ => rfl⟩
theorem vmovh (f : OForm) : Statement (.vmovh f) := ⟨by decide, fun _ _ => rfl⟩
theorem vlane (f : OForm) : Statement (.vlane f) := ⟨by decide, fun _ _ => rfl⟩
theorem vscan (f : OForm) : Statement (.vscan f) := ⟨by decide, fun _ _ => rfl⟩
theorem vred (f : OForm) : Statement (.vred f) := ⟨by decide, fun _ _ => rfl⟩
theorem vmatch (f : OForm) : Statement (.vmatch f) := ⟨by decide, fun _ _ => rfl⟩
theorem vbfe (u : Bool) (f : OForm) : Statement (.vbfe u f) := by
  cases u <;> first | exact trivial | exact ⟨by decide, fun _ _ => rfl⟩
theorem vbfi (f : OForm) : Statement (.vbfi f) := ⟨by decide, fun _ _ => rfl⟩
theorem vpop (f : OForm) : Statement (.vpop f) := ⟨by decide, fun _ _ => rfl⟩
theorem vclz (f : OForm) : Statement (.vclz f) := ⟨by decide, fun _ _ => rfl⟩
theorem vctz (f : OForm) : Statement (.vctz f) := ⟨by decide, fun _ _ => rfl⟩
theorem vbrev (f : OForm) : Statement (.vbrev f) := ⟨by decide, fun _ _ => rfl⟩
theorem vfunnel (f : OForm) : Statement (.vfunnel f) := ⟨by decide, fun _ _ => rfl⟩
theorem vbperm (f : OForm) : Statement (.vbperm f) := ⟨by decide, fun _ _ => rfl⟩
theorem fadd (t : FTy) (f : OForm) : Statement (.fadd t f) := by
  cases t <;> first | exact trivial | exact ⟨by decide, fun _ _ => rfl⟩
theorem fsub (t : FTy) (f : OForm) : Statement (.fsub t f) := by
  cases t <;> first | exact trivial | exact ⟨by decide, fun _ _ => rfl⟩
theorem fmul (t : FTy) (f : OForm) : Statement (.fmul t f) := by
  cases t <;> first | exact trivial | exact ⟨by decide, fun _ _ => rfl⟩
theorem ffma (t : FTy) (f : OForm) : Statement (.ffma t f) := by
  cases t <;> first | exact trivial | exact ⟨by decide, fun _ _ => rfl⟩
theorem ffms (t : FTy) (f : OForm) : Statement (.ffms t f) := by
  cases t <;> first | exact trivial | exact ⟨by decide, fun _ _ => rfl⟩
theorem fnma (t : FTy) (f : OForm) : Statement (.fnma t f) := by
  cases t <;> first | exact trivial | exact ⟨by decide, fun _ _ => rfl⟩
theorem fnms (t : FTy) (f : OForm) : Statement (.fnms t f) := by
  cases t <;> first | exact trivial | exact ⟨by decide, fun _ _ => rfl⟩
theorem fmin (t : FTy) (f : OForm) : Statement (.fmin t f) := by
  cases t <;> first | exact trivial | exact ⟨by decide, fun _ _ => rfl⟩
theorem fmax (t : FTy) (f : OForm) : Statement (.fmax t f) := by
  cases t <;> first | exact trivial | exact ⟨by decide, fun _ _ => rfl⟩
theorem fabs (t : FTy) (f : OForm) : Statement (.fabs t f) := by
  cases t <;> first | exact trivial | exact ⟨by decide, fun _ _ => rfl⟩
theorem fneg (t : FTy) (f : OForm) : Statement (.fneg t f) := by
  cases t <;> first | exact trivial | exact ⟨by decide, fun _ _ => rfl⟩
theorem fcmp (f : OForm) : Statement (.fcmp f) := ⟨by decide, fun _ _ => rfl⟩
theorem fclass (f : OForm) : Statement (.fclass f) := ⟨by decide, fun _ _ => rfl⟩
theorem fround (f : OForm) : Statement (.fround f) := ⟨by decide, fun _ _ => rfl⟩
theorem fcvt (f : OForm) : Statement (.fcvt f) := ⟨by decide, fun _ _ => rfl⟩
theorem fcvtn (f : OForm) : Statement (.fcvtn f) := ⟨by decide, fun _ _ => rfl⟩
theorem fpack (f : OForm) : Statement (.fpack f) := ⟨by decide, fun _ _ => rfl⟩
theorem fscale (f : OForm) : Statement (.fscale f) := ⟨by decide, fun _ _ => rfl⟩
theorem fdiv (f : OForm) : Statement (.fdiv f) := ⟨by decide, fun _ _ => rfl⟩
theorem fsqrt (f : OForm) : Statement (.fsqrt f) := ⟨by decide, fun _ _ => rfl⟩
theorem frcp (f : OForm) : Statement (.frcp f) := ⟨by decide, fun _ _ => rfl⟩
theorem frsq (f : OForm) : Statement (.frsq f) := ⟨by decide, fun _ _ => rfl⟩
theorem fexp2 (f : OForm) : Statement (.fexp2 f) := ⟨by decide, fun _ _ => rfl⟩
theorem flog2 (f : OForm) : Statement (.flog2 f) := ⟨by decide, fun _ _ => rfl⟩
theorem fsin (f : OForm) : Statement (.fsin f) := ⟨by decide, fun _ _ => rfl⟩
theorem fcos (f : OForm) : Statement (.fcos f) := ⟨by decide, fun _ _ => rfl⟩
theorem fdot2 (bf : Bool) (f : OForm) : Statement (.fdot2 bf f) := by
  cases bf <;> first | exact trivial | exact ⟨by decide, fun _ _ => rfl⟩
theorem vpadd (w : VpW) (f : OForm) : Statement (.vpadd w f) := by
  cases w <;> first | exact trivial | exact ⟨by decide, fun _ _ => rfl⟩
theorem vpsub (w : VpW) (f : OForm) : Statement (.vpsub w f) := by
  cases w <;> first | exact trivial | exact ⟨by decide, fun _ _ => rfl⟩
theorem vpmul (w : VpW) (f : OForm) : Statement (.vpmul w f) := by
  cases w <;> first | exact trivial | exact ⟨by decide, fun _ _ => rfl⟩
theorem vpfma (w : VpW) (f : OForm) : Statement (.vpfma w f) := by
  cases w <;> first | exact trivial | exact ⟨by decide, fun _ _ => rfl⟩
theorem vpdiv (w : VpW) (f : OForm) : Statement (.vpdiv w f) := by
  cases w <;> first | exact trivial | exact ⟨by decide, fun _ _ => rfl⟩
theorem vpsqrt (w : VpW) (f : OForm) : Statement (.vpsqrt w f) := by
  cases w <;> first | exact trivial | exact ⟨by decide, fun _ _ => rfl⟩
theorem vpexp (w : VpW) (f : OForm) : Statement (.vpexp w f) := by
  cases w <;> first | exact trivial | exact ⟨by decide, fun _ _ => rfl⟩
theorem vpcmp (w : VpW) (f : OForm) : Statement (.vpcmp w f) := by
  cases w <;> first | exact trivial | exact ⟨by decide, fun _ _ => rfl⟩
theorem vpcvt (w : VpW) (f : OForm) : Statement (.vpcvt w f) := by
  cases w <;> first | exact trivial | exact ⟨by decide, fun _ _ => rfl⟩
theorem vpround (w : VpW) (f : OForm) : Statement (.vpround w f) := by
  cases w <;> first | exact trivial | exact ⟨by decide, fun _ _ => rfl⟩
theorem vpld (w : VpW) (f : MForm) : Statement (.vpld w f) := by
  cases w <;> first | exact trivial | exact ⟨by decide, fun _ _ => rfl⟩
theorem vpst (w : VpW) (f : MForm) : Statement (.vpst w f) := by
  cases w <;> first | exact trivial | exact ⟨by decide, fun _ _ => rfl⟩
theorem vpsetl (f : OForm) : Statement (.vpsetl f) := ⟨by decide, fun _ _ => rfl⟩
theorem vpgetl (f : OForm) : Statement (.vpgetl f) := ⟨by decide, fun _ _ => rfl⟩
theorem ld (f : MForm) : Statement (.ld f) := ⟨by decide, fun _ _ => rfl⟩
theorem st (f : MForm) : Statement (.st f) := ⟨by decide, fun _ _ => rfl⟩
theorem ldsp (f : MForm) : Statement (.ldsp f) := ⟨by decide, fun _ _ => rfl⟩
theorem stsp (f : MForm) : Statement (.stsp f) := ⟨by decide, fun _ _ => rfl⟩
theorem tld (f : MForm) : Statement (.tld f) := ⟨by decide, fun _ _ => rfl⟩
theorem tst (f : MForm) : Statement (.tst f) := ⟨by decide, fun _ _ => rfl⟩
theorem waitac (f : OForm) : Statement (.waitac f) := ⟨by decide, fun _ _ => rfl⟩
theorem waitmem (f : MForm) : Statement (.waitmem f) := ⟨by decide, fun _ _ => rfl⟩
theorem fence (f : MForm) : Statement (.fence f) := ⟨by decide, fun _ _ => rfl⟩
theorem phadv (f : OForm) : Statement (.phadv f) := ⟨by decide, fun _ _ => rfl⟩
theorem phwait (f : OForm) : Statement (.phwait f) := ⟨by decide, fun _ _ => rfl⟩
theorem cwb (f : OForm) : Statement (.cwb f) := ⟨by decide, fun _ _ => rfl⟩
theorem cinv (f : OForm) : Statement (.cinv f) := ⟨by decide, fun _ _ => rfl⟩
theorem cinvd (f : OForm) : Statement (.cinvd f) := ⟨by decide, fun _ _ => rfl⟩
theorem cpf (f : MForm) : Statement (.cpf f) := ⟨by decide, fun _ _ => rfl⟩
theorem shflush (f : OForm) : Statement (.shflush f) := ⟨by decide, fun _ _ => rfl⟩
theorem atomAdd (t : AtomTy) (f : MForm) : Statement (.atomAdd t f) := by
  cases t <;> first | exact trivial | exact ⟨by decide, fun _ _ => rfl⟩
theorem atomSub (t : AtomTy) (f : MForm) : Statement (.atomSub t f) := by
  cases t <;> first | exact trivial | exact ⟨by decide, fun _ _ => rfl⟩
theorem atomMin (t : AtomTy) (f : MForm) : Statement (.atomMin t f) := by
  cases t <;> first | exact trivial | exact ⟨by decide, fun _ _ => rfl⟩
theorem atomMax (t : AtomTy) (f : MForm) : Statement (.atomMax t f) := by
  cases t <;> first | exact trivial | exact ⟨by decide, fun _ _ => rfl⟩
theorem atomAnd (f : MForm) : Statement (.atomAnd f) := ⟨by decide, fun _ _ => rfl⟩
theorem atomOr (f : MForm) : Statement (.atomOr f) := ⟨by decide, fun _ _ => rfl⟩
theorem atomXor (f : MForm) : Statement (.atomXor f) := ⟨by decide, fun _ _ => rfl⟩
theorem atomXchg (f : MForm) : Statement (.atomXchg f) := ⟨by decide, fun _ _ => rfl⟩
theorem atomCas (f : MForm) : Statement (.atomCas f) := ⟨by decide, fun _ _ => rfl⟩
theorem atomInc (f : MForm) : Statement (.atomInc f) := ⟨by decide, fun _ _ => rfl⟩
theorem atomDec (f : MForm) : Statement (.atomDec f) := ⟨by decide, fun _ _ => rfl⟩
theorem barw (f : OForm) : Statement (.barw f) := ⟨by decide, fun _ _ => rfl⟩
theorem barr (f : OForm) : Statement (.barr f) := ⟨by decide, fun _ _ => rfl⟩
theorem barwt (f : OForm) : Statement (.barwt f) := ⟨by decide, fun _ _ => rfl⟩
theorem barinit (f : OForm) : Statement (.barinit f) := ⟨by decide, fun _ _ => rfl⟩
theorem barinval (f : OForm) : Statement (.barinval f) := ⟨by decide, fun _ _ => rfl⟩
theorem bosig (f : MForm) : Statement (.bosig f) := ⟨by decide, fun _ _ => rfl⟩
theorem bowait (f : MForm) : Statement (.bowait f) := ⟨by decide, fun _ _ => rfl⟩
theorem cpy (f : OForm) : Statement (.cpy f) := ⟨by decide, fun _ _ => rfl⟩
theorem arm (f : OForm) : Statement (.arm f) := ⟨by decide, fun _ _ => rfl⟩
theorem tagwany (f : OForm) : Statement (.tagwany f) := ⟨by decide, fun _ _ => rfl⟩
theorem tagwall (f : OForm) : Statement (.tagwall f) := ⟨by decide, fun _ _ => rfl⟩
theorem tagfirst (f : OForm) : Statement (.tagfirst f) := ⟨by decide, fun _ _ => rfl⟩
theorem tagclr (f : OForm) : Statement (.tagclr f) := ⟨by decide, fun _ _ => rfl⟩
theorem rcnt (f : OForm) : Statement (.rcnt f) := ⟨by decide, fun _ _ => rfl⟩
theorem rcntadd (f : OForm) : Statement (.rcntadd f) := ⟨by decide, fun _ _ => rfl⟩
theorem bget (f : OForm) : Statement (.bget f) := ⟨by decide, fun _ _ => rfl⟩
theorem bgive (f : OForm) : Statement (.bgive f) := ⟨by decide, fun _ _ => rfl⟩
theorem bfree (f : OForm) : Statement (.bfree f) := ⟨by decide, fun _ _ => rfl⟩
theorem mma (t : MFmt) (f : OForm) : Statement (.mma t f) := by
  cases t <;> first | exact trivial | exact ⟨by decide, fun _ _ => rfl⟩
theorem mmaSp (t : MFmt) (f : OForm) : Statement (.mmaSp t f) := by
  cases t <;> first | exact trivial | exact ⟨by decide, fun _ _ => rfl⟩
theorem mldb (f : MForm) : Statement (.mldb f) := ⟨by decide, fun _ _ => rfl⟩
theorem mrdy (f : OForm) : Statement (.mrdy f) := ⟨by decide, fun _ _ => rfl⟩
theorem mfence (f : OForm) : Statement (.mfence f) := ⟨by decide, fun _ _ => rfl⟩
theorem mwait (f : OForm) : Statement (.mwait f) := ⟨by decide, fun _ _ => rfl⟩
theorem mwaitT (f : OForm) : Statement (.mwaitT f) := ⟨by decide, fun _ _ => rfl⟩
theorem mclr (f : OForm) : Statement (.mclr f) := ⟨by decide, fun _ _ => rfl⟩
theorem mbscale (f : OForm) : Statement (.mbscale f) := ⟨by decide, fun _ _ => rfl⟩
theorem remit (f : OForm) : Statement (.remit f) := ⟨by decide, fun _ _ => rfl⟩
theorem tenq (f : OForm) : Statement (.tenq f) := ⟨by decide, fun _ _ => rfl⟩
theorem tdeq (f : OForm) : Statement (.tdeq f) := ⟨by decide, fun _ _ => rfl⟩
theorem depinit (f : MForm) : Statement (.depinit f) := ⟨by decide, fun _ _ => rfl⟩
theorem depdec (f : MForm) : Statement (.depdec f) := ⟨by decide, fun _ _ => rfl⟩
theorem chunk (f : MForm) : Statement (.chunk f) := ⟨by decide, fun _ _ => rfl⟩
theorem lvlid (f : OForm) : Statement (.lvlid f) := ⟨by decide, fun _ _ => rfl⟩
theorem lvlcancel (f : OForm) : Statement (.lvlcancel f) := ⟨by decide, fun _ _ => rfl⟩
theorem gexit (f : OForm) : Statement (.gexit f) := ⟨by decide, fun _ _ => rfl⟩
theorem trap (f : OForm) : Statement (.trap f) := ⟨by decide, fun _ _ => rfl⟩
theorem tret (f : OForm) : Statement (.tret f) := ⟨by decide, fun _ _ => rfl⟩
theorem sreg (f : OForm) : Statement (.sreg f) := ⟨by decide, fun _ _ => rfl⟩
theorem swreg (f : OForm) : Statement (.swreg f) := ⟨by decide, fun _ _ => rfl⟩
theorem shrink (f : OForm) : Statement (.shrink f) := ⟨by decide, fun _ _ => rfl⟩
theorem grow (f : OForm) : Statement (.grow f) := ⟨by decide, fun _ _ => rfl⟩
theorem bkpt (f : OForm) : Statement (.bkpt f) := ⟨by decide, fun _ _ => rfl⟩
theorem halt (f : OForm) : Statement (.halt f) := ⟨by decide, fun _ _ => rfl⟩
theorem faultrd (f : OForm) : Statement (.faultrd f) := ⟨by decide, fun _ _ => rfl⟩
theorem pcfgrd (f : OForm) : Statement (.pcfgrd f) := ⟨by decide, fun _ _ => rfl⟩
theorem unassignedOpcode (w : IWord) : Statement (.unassignedOpcode w) := trivial
theorem instructionFetchFault (code : BitVec 8) : Statement (.instructionFetchFault code) := trivial
theorem powerOn : Statement (.powerOn) := trivial
theorem moduleReset : Statement (.moduleReset) := trivial
theorem dieReset (die : Nat) : Statement (.dieReset die) := trivial
theorem resetBroadcast (die : Nat) : Statement (.resetBroadcast die) := trivial
theorem packetArrival (pkt : Nat) : Statement (.packetArrival pkt) := trivial
theorem responseArrival (pkt : Nat) : Statement (.responseArrival pkt) := trivial
theorem nackResend (src dst : Nat) : Statement (.nackResend src dst) := trivial
theorem escapeMove (pkt : Nat) : Statement (.escapeMove pkt) := trivial
theorem linkFailure (a b : Nat) : Statement (.linkFailure a b) := trivial
theorem linkUp (a b : Nat) : Statement (.linkUp a b) := trivial
theorem linkStateNotice (router : Nat) (epoch : BitVec 16) : Statement (.linkStateNotice router epoch) := trivial
theorem linkStateAck (router : Nat) (epoch : BitVec 16) : Statement (.linkStateAck router epoch) := trivial
theorem settledNotice (router : Nat) (epoch : BitVec 16) : Statement (.settledNotice router epoch) := trivial
theorem completionTimeout (req : Nat) : Statement (.completionTimeout req) := trivial
theorem fabricPortFailure (port : Nat) : Statement (.fabricPortFailure port) := trivial
theorem peerRequest (r : PeerReq) : Statement (.peerRequest r) := trivial
theorem ethernetPortDown (port : Nat) : Statement (.ethernetPortDown port) := trivial
theorem ethReadRequest (port tag : Nat) : Statement (.ethReadRequest port tag) := trivial
theorem cxlLinkLoss (port : Nat) : Statement (.cxlLinkLoss port) := trivial
theorem cxlRetrainDone (port : Nat) : Statement (.cxlRetrainDone port) := trivial
theorem hostWindowAccess (part : Nat) (a : OutsideAccess) : Statement (.hostWindowAccess part a) := trivial
theorem mgmtPortRequest (q : MgmtItem) : Statement (.mgmtPortRequest q) := trivial
theorem energyCredit (die : Nat) : Statement (.energyCredit die) := trivial
theorem energyAdmit (part : Nat) : Statement (.energyAdmit part) := trivial
theorem mailboxSend (die core : Nat) (m : Message) : Statement (.mailboxSend die core m) := trivial
theorem mailboxReceive (die core : Nat) : Statement (.mailboxReceive die core) := trivial
theorem mailboxRemoteDeliver (pkt : Nat) : Statement (.mailboxRemoteDeliver pkt) := trivial
theorem jqnotifyWrite (part q : Nat) (h : Half) (v : DWord) : Statement (.jqnotifyWrite part q h v) := trivial
theorem jqctlEnSet (part q : Nat) (h : Half) (v : DWord) : Statement (.jqctlEnSet part q h v) := trivial
theorem jqctlEnClear (part q : Nat) (h : Half) (v : DWord) : Statement (.jqctlEnClear part q h v) := trivial
theorem jqctlErrClear (part q : Nat) (h : Half) (v : DWord) : Statement (.jqctlErrClear part q h v) := trivial
theorem jqConfigWrite (part q : Nat) (base : Bool) (h : Half) (v : DWord) : Statement (.jqConfigWrite part q base h v) := trivial
theorem parserReadPacket (part dev : Nat) : Statement (.parserReadPacket part dev) := trivial
theorem jobNoop (job : Nat) : Statement (.jobNoop job) := trivial
theorem jobGraph (job : Nat) : Statement (.jobGraph job) := trivial
theorem jobStep (job : Nat) : Statement (.jobStep job) := trivial
theorem jobWait (job : Nat) : Statement (.jobWait job) := trivial
theorem waitPacketRecheck (job : Nat) : Statement (.waitPacketRecheck job) := trivial
theorem jobCancel (job : Nat) : Statement (.jobCancel job) := trivial
theorem mqsubmitWrite (part : Nat) (h : Half) (v : DWord) : Statement (.mqsubmitWrite part h v) := trivial
theorem mqdoneClear (part : Nat) (h : Half) (v : DWord) : Statement (.mqdoneClear part h v) := trivial
theorem ctxcreate (part : Nat) : Statement (.ctxcreate part) := trivial
theorem ctxdestroy (part : Nat) : Statement (.ctxdestroy part) := trivial
theorem mgmtMap (part : Nat) : Statement (.mgmtMap part) := trivial
theorem mgmtUnmap (part : Nat) : Statement (.mgmtUnmap part) := trivial
theorem migrate (part : Nat) : Statement (.migrate part) := trivial
theorem setreg (part : Nat) : Statement (.setreg part) := trivial
theorem shardgrp (part : Nat) : Statement (.shardgrp part) := trivial
theorem mgmtPeer (part : Nat) : Statement (.mgmtPeer part) := trivial
theorem mgmtExport (part : Nat) : Statement (.mgmtExport part) := trivial
theorem hostwin (part : Nat) : Statement (.hostwin part) := trivial
theorem mgmtDebug (part : Nat) : Statement (.mgmtDebug part) := trivial
theorem attest (part : Nat) : Statement (.attest part) := trivial
theorem registerWrite (part ofs : Nat) (src : WindowAgent) (h : Half) (v : DWord) : Statement (.registerWrite part ofs src h v) := trivial
theorem kernelLaunchAdmit (lvl : Nat) : Statement (.kernelLaunchAdmit lvl) := trivial
theorem graphAdmit (lvl : Nat) : Statement (.graphAdmit lvl) := trivial
theorem stepMemberStart (lvl : Nat) : Statement (.stepMemberStart lvl) := trivial
theorem workgroupStart (die : Nat) : Statement (.workgroupStart die) := trivial
theorem resumption (die : Nat) : Statement (.resumption die) := trivial
theorem resumeCheck (die : Nat) : Statement (.resumeCheck die) := trivial
theorem preemptStop (wg : Nat) : Statement (.preemptStop wg) := trivial
theorem preemptSave (wg : Nat) : Statement (.preemptSave wg) := trivial
theorem contextSwitch (ctx : Nat) : Statement (.contextSwitch ctx) := trivial
theorem ptStateSaveDone (ctx : Nat) : Statement (.ptStateSaveDone ctx) := trivial
theorem contextReturn (ctx : Nat) : Statement (.contextReturn ctx) := trivial
theorem debugRelease (wg : Nat) : Statement (.debugRelease wg) := trivial
theorem workgroupRetire (wg : Nat) : Statement (.workgroupRetire wg) := trivial
theorem levelEnd (lvl : Nat) : Statement (.levelEnd lvl) := trivial
theorem levelCancelApply (part : Nat) : Statement (.levelCancelApply part) := trivial
theorem stealRequest (die core : Nat) : Statement (.stealRequest die core) := trivial
theorem stealReply (id : Nat) : Statement (.stealReply id) := trivial
theorem stealArrive (id : Nat) : Statement (.stealArrive id) := trivial
theorem stealAck (id : Nat) : Statement (.stealAck id) := trivial
theorem stealBackoff (die core : Nat) : Statement (.stealBackoff die core) := trivial
theorem recordCountAck (id : Nat) : Statement (.recordCountAck id) := trivial
theorem holdLapse (lvl node core : Nat) : Statement (.holdLapse lvl node core) := trivial
theorem nodeGroupStart (die : Nat) : Statement (.nodeGroupStart die) := trivial
theorem graphDrainOrder (lvl : Nat) : Statement (.graphDrainOrder lvl) := trivial
theorem translationMiss (req : Nat) : Statement (.translationMiss req) := trivial
theorem walkComplete (walk : Nat) : Statement (.walkComplete walk) := trivial
theorem resolverFinish (ctx page : Nat) : Statement (.resolverFinish ctx page) := trivial
theorem translationInvalidate (die : Nat) : Statement (.translationInvalidate die) := trivial
theorem migrationLineFetch (die frame line : Nat) : Statement (.migrationLineFetch die frame line) := trivial
theorem hbmIdlePrecharge (die bank : Nat) : Statement (.hbmIdlePrecharge die bank) := trivial
theorem hbmRefresh (die bank : Nat) : Statement (.hbmRefresh die bank) := trivial
theorem eccError (e : EccEvent) : Statement (.eccError e) := trivial
theorem orderNetworkNotice (die : Nat) : Statement (.orderNetworkNotice die) := trivial
theorem homeRequest (req : Nat) : Statement (.homeRequest req) := trivial
theorem invalidationReceive (txn die : Nat) : Statement (.invalidationReceive txn die) := trivial
theorem recallReceive (txn die : Nat) : Statement (.recallReceive txn die) := trivial
theorem grantReceive (txn : Nat) : Statement (.grantReceive txn) := trivial
theorem homeAckReceive (txn die : Nat) : Statement (.homeAckReceive txn die) := trivial
theorem writeBackArrival (id : Nat) : Statement (.writeBackArrival id) := trivial
theorem lineEviction (die : Nat) (core : Option Nat) (line : Nat) : Statement (.lineEviction die core line) := trivial
theorem regionMerge (die base : Nat) : Statement (.regionMerge die base) := trivial
theorem rdcCombineFlush (die line : Nat) : Statement (.rdcCombineFlush die line) := trivial
theorem leaseRenewalSend (die home : Nat) : Statement (.leaseRenewalSend die home) := trivial
theorem leaseRenewalReceive (home die : Nat) : Statement (.leaseRenewalReceive home die) := trivial
theorem renewalAckReceive (die home : Nat) : Statement (.renewalAckReceive die home) := trivial
theorem leaseLapse (home die : Nat) : Statement (.leaseLapse home die) := trivial
theorem leaseDrop (die home : Nat) : Statement (.leaseDrop die home) := trivial
theorem backinvalTimeout (txn : Nat) : Statement (.backinvalTimeout txn) := trivial
theorem gatherReceive (m : ShardMsg) : Statement (.gatherReceive m) := trivial
theorem dataReceive (m : ShardMsg) : Statement (.dataReceive m) := trivial
theorem deferredReceive (m : ShardMsg) : Statement (.deferredReceive m) := trivial
theorem lifeReceive (m : ShardMsg) : Statement (.lifeReceive m) := trivial
theorem lostReceive (m : ShardMsg) : Statement (.lostReceive m) := trivial
theorem openReceive (m : ShardMsg) : Statement (.openReceive m) := trivial
theorem openokReceive (m : ShardMsg) : Statement (.openokReceive m) := trivial
theorem busyReceive (m : ShardMsg) : Statement (.busyReceive m) := trivial
theorem busyResend (ctx page member : Nat) : Statement (.busyResend ctx page member) := trivial
theorem deliverReceive (m : ShardMsg) : Statement (.deliverReceive m) := trivial
theorem delackReceive (m : ShardMsg) : Statement (.delackReceive m) := trivial
theorem closeReceive (m : ShardMsg) : Statement (.closeReceive m) := trivial
theorem doneReceive (m : ShardMsg) : Statement (.doneReceive m) := trivial
theorem renewSend (ctx group : Nat) : Statement (.renewSend ctx group) := trivial
theorem renewReceive (m : ShardMsg) : Statement (.renewReceive m) := trivial
theorem memberDead (ctx group member : Nat) : Statement (.memberDead ctx group member) := trivial
theorem copyEngineStart (copy : Nat) : Statement (.copyEngineStart copy) := trivial
theorem copyComplete (copy : Nat) : Statement (.copyComplete copy) := trivial
theorem receiveCounterSignal (ctx idx : Nat) : Statement (.receiveCounterSignal ctx idx) := trivial
theorem matrixOpPerform (pipe : Nat) : Statement (.matrixOpPerform pipe) := trivial
theorem tileFillComplete (fill : Nat) : Statement (.tileFillComplete fill) := trivial
theorem laneReply (req : Nat) : Statement (.laneReply req) := trivial
theorem storeAck (req : Nat) : Statement (.storeAck req) := trivial
theorem variableResultWrite (wg trix k : Nat) : Statement (.variableResultWrite wg trix k) := trivial
theorem queueEngineReply (wg trix k : Nat) : Statement (.queueEngineReply wg trix k) := trivial
theorem waitmemRecheck (wg trix : Nat) : Statement (.waitmemRecheck wg trix) := trivial
theorem bowaitRecheck (wg trix : Nat) : Statement (.bowaitRecheck wg trix) := trivial
theorem powerLoss (midWrite : Bool) : Statement (.powerLoss midWrite) := trivial
theorem xDieReset (x : Nat) : Statement (.xDieReset x) := trivial

end Sys2Proof.Laws.Opcode
end

