-- ==== Sys2Proof/Laws/Scalar.lean ====
section
/-! SUPPORT. What the shared operations of the scalar unit do: an instruction whose operands are scalar registers, immediates and
predicates maps and releases no vector name, and changes its troupe only. -/

namespace Sys2Proof.Machine

/-! ## Operands that name no vector register -/

/-- A use that names no vector register. -/
def Acc.plain : Acc → Bool
  | .vw _ _ => false
  | .vd _ _ => false
  | .vx _ _ => false
  | .vc => false
  | .vr _ _ => false
  | _ => true

theorem use_mem {t : Troupe} {o : Operand} {l : List Acc} {a : Acc} (h : t.use o l = some a) : a ∈ l :=
  List.mem_of_find?_eq_some h

theorem use_ok {t : Troupe} {o : Operand} {l : List Acc} {a : Acc} (h : t.use o l = some a) : t.accOk o a = true := by
  simpa using List.find?_some h

/-- A use that names no vector register reads, releases and writes none. -/
theorem plain_names {t : Troupe} {o : Operand} {l : List Acc} (hl : l.all Acc.plain = true) :
    srcNames o (t.use o l) = [] ∧ dstNames o (t.use o l) = [] ∧ lastNames o (t.use o l) = [] := by
  cases h : t.use o l with
  | none => simp [srcNames, dstNames, lastNames]
  | some a =>
    have hp := List.all_eq_true.mp hl a (use_mem h)
    cases a <;> simp_all [Acc.plain, srcNames, dstNames, lastNames]

/-- A shape whose every use is plain. -/
def Shape.plain (sh : Shape) : Bool := sh.d.all Acc.plain && sh.a.all Acc.plain && sh.b.all Acc.plain

theorem plain_opnds {o : Opnds} (t : Troupe) (h : o.sh.plain = true) :
    o.rel t = [] ∧ o.fresh t = [] ∧ o.src t = [] ∧ o.dst t = [] := by
  simp only [Shape.plain, Bool.and_eq_true] at h
  obtain ⟨⟨hd, ha⟩, hb⟩ := h
  obtain ⟨d1, d2, d3⟩ := plain_names (t := t) (o := o.d) hd
  obtain ⟨a1, _, a3⟩ := plain_names (t := t) (o := o.a) ha
  have hub : srcNames o.b (o.ub t) = [] ∧ lastNames o.b (o.ub t) = [] := by
    unfold Opnds.ub
    split
    · simp [srcNames, lastNames]
    · exact ⟨(plain_names (t := t) hb).1, (plain_names (t := t) hb).2.2⟩
  have h1 : o.rel t = [] := by simp [Opnds.rel, Opnds.ud, Opnds.ua, d3, a3, hub.2]
  have h2 : o.dst t = [] := d2
  exact ⟨h1, by simp [Opnds.fresh, h2], by simp [Opnds.src, Opnds.ud, Opnds.ua, d1, a1, hub.1], h2⟩

theorem touch_nil (t : Troupe) : t.touch [] = t := by simp [Troupe.touch, Batch.touch]

theorem touched_nil (s : State) (t : Troupe) (c : Ctl) (t' : Troupe) : s.touched t c t' [] = t' := by
  simp [State.touched, touch_nil]

/-- An instruction of plain operands that passes its checks acts on the troupe issued and on the state with one more free value
drawn. -/
theorem plain_acts {s : State} {t : Troupe} {c : Ctl} {bts : State → Troupe → Nat} {o : Troupe → Opnds}
    {mod : Troupe → Bool} {late : State → Troupe → Option TrapInfo} {hold : State → Troupe → Bool}
    {act : State → Troupe → State → Troupe → State} (h : s.issuesWith t c (o (s.atIssue t)) (mod (s.atIssue t)))
    (hp : (o (s.atIssue t)).sh.plain = true) (hl : late s (s.atIssue t) = none) (hh : hold s (s.atIssue t) = false) :
    s.operate c bts o mod late hold act
      = .next (act s (s.atIssue t) { s with free := s.free + 1 }
          ((s.atIssue t).issued c (s.now t) (bts s (s.atIssue t)))) := by
  obtain ⟨hm, hc, _⟩ := h
  obtain ⟨h1, h2, h3, h4⟩ := plain_opnds (s.atIssue t) hp
  unfold State.operate State.operateS
  rw [run_issues hm]
  simp only [hc, hl, hh, h1, h2, h3, h4, State.start, mapNames, List.append_nil, touched_nil, if_true, List.length_nil,
    Nat.add_zero, Bool.false_eq_true, if_false]
  rfl

/-! ## Results of the scalar unit -/

theorem setSs_one (t : Troupe) (n : Nat) (v : Word) : t.setSs [(n, v)] = t.setS n v := rfl

/-- What stands between a troupe and the one that its instruction stores. -/
theorem issueKeeps_of {s s' u : State} {t t0 t1 : Troupe} {c : Ctl} (hu : Replaced s' t0 u t1)
    (hr : State.restKept s s') (ht : s'.troupes = s.troupes) (h1 : t0.wg = t.wg) (h2 : t0.trix = t.trix) (hi : s.issuedTo t t1 c) :
    s.issueKeeps t c u t1 where
  rest := restKept_trans hr hu.rest
  others := fun a b hn => by rw [hu.others a b (by rw [h1, h2]; exact hn), troupe?_of_troupes ht]
  now := by have := hu.now; unfold State.becomes at this ⊢; rw [← h1, ← h2]; exact this
  issued := hi

theorem found_of_issues {s : State} {t : Troupe} {c : Ctl} (h : s.mayIssue t c) : (s.troupe? t.wg t.trix).isSome = true := by
  rw [cur?_troupe h.1]; rfl

theorem specials_setS (t : Troupe) (n : Nat) (v : Word) : (t.setS n v).specials = t.specials := by
  unfold Troupe.setS; split <;> rfl

theorem specials_setSs (t : Troupe) (ws : List (Nat × Word)) : (t.setSs ws).specials = t.specials := by
  unfold Troupe.setSs
  induction ws generalizing t with
  | nil => rfl
  | cons w ws ih => rw [List.foldl_cons, ih, specials_setS]

theorem specials_setP (t : Troupe) (n : Nat) (m : Mask) : (t.setP n m).specials = t.specials := by
  unfold Troupe.setP; split <;> rfl

/-- A troupe issued and then changed outside what `issuedTo` speaks of is still the troupe issued. -/
theorem issuedTo_of {s : State} {t t1 : Troupe} {c : Ctl} {b : Nat} (h1 : t1.pc = ((s.atIssue t).issued c (s.now t) b).pc)
    (h2 : t1.flags = ((s.atIssue t).issued c (s.now t) b).flags) (h3 : t1.lastIssue = some (s.now t))
    (h4 : t1.specials = ((s.atIssue t).issued c (s.now t) b).specials) : s.issuedTo t t1 c :=
  ⟨h1, h2, h3, h4⟩

/-- The state that an instruction of plain operands acts on: one more free value is drawn. -/
theorem drawn_kept (s : State) : s.restKept { s with free := s.free + 1 } := ⟨rfl, rfl⟩

/-- An instruction that commits nothing. -/
theorem commit_keeps {s : State} {t : Troupe} {c : Ctl} {b : Nat} (h : s.mayIssue t c) :
    ∃ t', s.issueKeeps t c (({ s with free := s.free + 1 } : State).commit ((s.atIssue t).issued c (s.now t) b) c) t'
      ∧ t.regsKept t' := by
  have hf0 := found_of_issues h
  have hf : (({ s with free := s.free + 1 } : State).troupe? ((s.atIssue t).issued c (s.now t) b).wg
      ((s.atIssue t).issued c (s.now t) b).trix).isSome = true := hf0
  obtain ⟨p, hr⟩ := commit_spec c hf rfl rfl
  exact ⟨_, issueKeeps_of hr ⟨rfl, rfl⟩ rfl rfl rfl (issuedTo_of (b := b) rfl rfl rfl rfl), rfl, rfl, rfl⟩

theorem sregs_setSs_other {ws : List (Nat × Word)} {n : Nat} (h : ∀ w ∈ ws, w.1 ≠ n) (t : Troupe) :
    (t.setSs ws).sregs[n]? = t.sregs[n]? := by
  induction ws generalizing t with
  | nil => rfl
  | cons w ws ih =>
    have h1 : w.1 ≠ n := h w (by simp)
    have h2 := ih (fun v hv => h v (by simp [hv])) (t.setS w.1 w.2)
    show (Troupe.setSs (t.setS w.1 w.2) ws).sregs[n]? = _
    rw [h2]
    unfold Troupe.setS
    split
    · simp [h1]
    · rfl

theorem sregs_setSs_at {ws : List (Nat × Word)} (hn : (ws.map Prod.fst).Nodup) {w : Nat × Word} (hw : w ∈ ws) (h64 : w.1 < 64)
    (t : Troupe) : (t.setSs ws).sregs[w.1]? = t.sregs[w.1]?.map fun _ => w.2 := by
  induction ws generalizing t with
  | nil => cases hw
  | cons v ws ih =>
    rw [List.map_cons, List.nodup_cons] at hn
    show (Troupe.setSs (t.setS v.1 v.2) ws).sregs[w.1]? = _
    rcases List.mem_cons.mp hw with rfl | hw'
    · rw [sregs_setSs_other (fun u hu he => hn.1 (List.mem_map.mpr ⟨u, hu, he⟩)), sregs_setS _ _ _ h64]
      rw [List.getElem?_set_self']
      cases t.sregs[w.1]? <;> rfl
    · rw [ih hn.2 hw']
      have : v.1 ≠ w.1 := fun he => hn.1 (List.mem_map.mpr ⟨w, hw', he.symm⟩)
      unfold Troupe.setS
      split
      · simp [this]
      · rfl

/-- An instruction that commits scalar results. -/
theorem commitS_keeps {s : State} {t : Troupe} {c : Ctl} {b lat : Nat} {ws : List (Nat × Word)} (h : s.mayIssue t c)
    (hl : 0 < lat) (hn : (ws.map Prod.fst).Nodup) (h64 : ∀ w ∈ ws, w.1 < 64) :
    ∃ t', s.issueKeeps t c (({ s with free := s.free + 1 } : State).commitS ((s.atIssue t).issued c (s.now t) b) c lat ws) t'
      ∧ t'.regs = t.regs ∧ t.scalarsSet t' (s.now t + lat) ws := by
  have hf0 := found_of_issues h
  have hf : (({ s with free := s.free + 1 } : State).troupe? ((s.atIssue t).issued c (s.now t) b).wg
      ((s.atIssue t).issued c (s.now t) b).trix).isSome = true := hf0
  obtain ⟨p, z, k, hr⟩ := commitS_spec c lat ws hf
  have hn' : ((ws.map fun w => (w.1, State.settleS { s with free := s.free + 1 } ((s.atIssue t).issued c (s.now t) b) w.1
      (State.now { s with free := s.free + 1 } ((s.atIssue t).issued c (s.now t) b) + lat) w.2)).map Prod.fst).Nodup := by
    rw [List.map_map]; exact hn
  refine ⟨_, issueKeeps_of hr ⟨rfl, rfl⟩ rfl rfl rfl (issuedTo_of (b := b) ?_ ?_ ?_ ?_), ?_, ?_, ?_, ?_, ?_⟩
  · exact Troupe.setSs_pc ..
  · exact Troupe.setSs_flags ..
  · exact Troupe.setSs_lastIssue ..
  · exact specials_setSs ..
  · exact Troupe.setSs_regs ..
  · exact Troupe.setSs_preds ..
  · intro n hne
    refine sregs_setSs_other (t := (s.atIssue t).issued c (s.now t) b) ?_
    intro w hw
    obtain ⟨v, hv, rfl⟩ := List.mem_map.mp hw
    exact hne v hv
  · intro w hw hk
    refine (sregs_setSs_at hn' (List.mem_map_of_mem hw) (h64 w hw) _).trans ?_
    exact congrArg (fun v => Option.map (fun _ => v) _) (settleS_last (landsLast_issued hl hk))
  · intro w hw hk
    refine (sregs_setSs_at hn' (List.mem_map_of_mem hw) (h64 w hw) _).trans ?_
    refine (congrArg (fun v => Option.map (fun _ => v) _) (settleS_after (after_issued hk))).trans ?_
    show Option.map (fun _ => t.sregs.getD w.1 0) t.sregs[w.1]? = t.sregs[w.1]?
    rw [List.getD_eq_getElem?_getD]
    cases t.sregs[w.1]? <;> rfl

/-- Fields that the checks pass are used in some way. -/
theorem ok_of_passes {s : State} {t : Troupe} {o : Opnds} {mod : Bool} (h : s.operandsPass t o mod) : o.ok (s.atIssue t) = true := by
  cases hne : o.ok (s.atIssue t) with
  | true => rfl
  | false => have := h.1; simp [State.check, hne] at this

theorem mod_of_passes {s : State} {t : Troupe} {o : Opnds} {mod : Bool} (h : s.operandsPass t o mod) : mod = true := by
  cases mod with
  | true => rfl
  | false => have := h.1; simp [State.check] at this

/-- Which use a field that the checks pass has. -/
theorem uses_of_ok {t : Troupe} {o : Opnds} (h : o.ok t = true) :
    ∃ a b c, t.use o.d o.sh.d = some a ∧ t.use o.a o.sh.a = some b ∧ o.ub t = some c := by
  unfold Opnds.ok Opnds.ud Opnds.ua at h
  simp only [Bool.and_eq_true, Option.isSome_iff_exists] at h
  obtain ⟨⟨⟨a, ha⟩, b, hb⟩, c, hc⟩ := h
  exact ⟨a, b, c, ha, hb, hc⟩

/-- A window of scalar registers that is written lies below s64. -/
theorem scalarDest {l : List Acc} {w : Nat} (hl : ∀ a ∈ l, ∃ hi, hi ≤ 63 ∧ (a = .sw w hi ∨ a = .sd w hi)) {o : Operand}
    {t : Troupe} (h : (t.use o l).isSome = true) : numOf o + w ≤ 64 := by
  rw [Option.isSome_iff_exists] at h
  obtain ⟨a, h⟩ := h
  have hok := use_ok h
  obtain ⟨hi, h63, rfl | rfl⟩ := hl a (use_mem h) <;> cases o <;> simp_all [Troupe.accOk, numOf] <;> omega

/-- A scalar instruction writes its destination register and nothing else. -/
theorem scalarOp_spec {sh : Shape} {f : OForm} {val : State → Troupe → Word} {s : State} {t : Troupe} (hp : sh.plain = true)
    (hd : ∀ a ∈ sh.d, ∃ hi, hi ≤ 63 ∧ (a = .sw 1 hi ∨ a = .sd 1 hi)) (h : s.issuesWith t f.c ⟨f.d, f.a, f.b, sh⟩ true) :
    ∃ u t', scalarOp sh f val s = .next u ∧ s.issueKeeps t f.c u t' ∧ t'.regs = t.regs
      ∧ (s.takesOf (s.atIssue t) f.c = false → t.regsKept t')
      ∧ (s.takesOf (s.atIssue t) f.c = true → t.scalarsSet t' (s.now t + scalarLat) [(numOf f.d, val s (s.atIssue t))]) := by
  obtain ⟨a, _, _, ha, _, _⟩ := uses_of_ok (ok_of_passes h.2)
  have hn := scalarDest hd (t := s.atIssue t) (o := f.d) (by simp_all)
  unfold scalarOp
  rw [plain_acts h hp rfl rfl]
  cases ht : s.takesOf (s.atIssue t) f.c with
  | true =>
    obtain ⟨t', h1, h0, h2⟩ := commitS_keeps (b := oneBeat s (s.atIssue t)) (lat := scalarLat)
      (ws := [(numOf f.d, val s (s.atIssue t))]) h.1 (by decide) (by simp) (by simp; omega)
    exact ⟨_, t', rfl, h1, h0, by simp, fun _ => h2⟩
  | false =>
    obtain ⟨t', h1, h2⟩ := commit_keeps (b := oneBeat s (s.atIssue t)) h.1
    exact ⟨_, t', rfl, h1, h2.regs, fun _ => h2, by simp⟩

/-! ## Predicates -/

/-- A predicate result lands as computed when no earlier one lands with it or after it. -/
theorem settleP_last {s : State} {t : Troupe} {n e l : Nat} {v : Mask} (hl : l < 96) (h : t.landsLast (.p n) e l) :
    (s.settleP t n e v).getLsbD l = v.getLsbD l := by
  unfold State.settleP
  split
  · have h1 : t.after (.p n) e l = false := lands_mono (fun m hm => by simp at hm ⊢; omega) h
    have h2 : t.lands (· == e) (.p n) l = false := lands_mono (fun m hm => by simp at hm ⊢; omega) h
    rw [maskOf_bit _ hl]
    simp [Troupe.keeps, h1, h2]
  · rfl

/-- An instruction that commits a predicate result. -/
theorem commitP_keeps {s : State} {t : Troupe} {c : Ctl} {b lat n : Nat} {m v : Mask} (h : s.mayIssue t c) (hl : 0 < lat) :
    ∃ t', s.issueKeeps t c (({ s with free := s.free + 1 } : State).commitP ((s.atIssue t).issued c (s.now t) b) c lat n m v) t'
      ∧ t'.regs = t.regs ∧ t.predSet t' (s.now t + lat) n m v := by
  have hf0 := found_of_issues h
  have hf : (({ s with free := s.free + 1 } : State).troupe? ((s.atIssue t).issued c (s.now t) b).wg
      ((s.atIssue t).issued c (s.now t) b).trix).isSome = true := hf0
  obtain ⟨p, z, hr⟩ := commitP_spec c lat n m v hf
  refine ⟨_, issueKeeps_of hr ⟨rfl, rfl⟩ rfl rfl rfl (issuedTo_of (b := b) ?_ ?_ ?_ ?_), ?_, ?_, ?_, ?_, ?_⟩
  · exact Troupe.setP_pc ..
  · exact Troupe.setP_flags ..
  · exact Troupe.setP_lastIssue ..
  · exact specials_setP ..
  · exact Troupe.setP_regs ..
  · exact Troupe.setP_sregs ..
  · intro k hk
    show (Troupe.setP _ n _).preds[k]? = _
    unfold Troupe.setP
    split
    · exact List.getElem?_set_ne (Ne.symm hk)
    · rfl
  · intro h7
    show (Troupe.setP _ n _).preds = _
    rw [Troupe.setP, if_neg (by omega)]
    rfl
  · intro h7 x hx
    have hp : ((s.atIssue t).issued c (s.now t) b).pred n = x := by
      rw [Troupe.pred, if_pos h7]
      show t.preds.getD n 0 = x
      rw [List.getD_eq_getElem?_getD, hx]; rfl
    refine ⟨(x &&& ~~~m) ||| (State.settleP { s with free := s.free + 1 } ((s.atIssue t).issued c (s.now t) b) n
      (s.now t + lat) v &&& m), ?_, fun l hl96 => ⟨fun hm => ?_, fun hm hk => ?_⟩⟩
    · show (Troupe.setP _ n _).preds[n]? = _
      rw [Troupe.setP, if_pos h7, hp]
      show (t.preds.set n _)[n]? = _
      have : n < t.preds.length := (List.getElem?_eq_some_iff.mp hx).1
      simp [this]
      rfl
    · rw [bits_merge, hm]; simp
    · rw [bits_merge, hm, if_pos rfl]
      exact settleP_last hl96 (landsLast_issued hl hk)

/-- An instruction of a predicate result writes that predicate and nothing else. -/
theorem predOp_spec {sh : Shape} {f : OForm} {val : State → Troupe → Mask} {s : State} {t : Troupe} (hp : sh.plain = true)
    (h : s.issuesWith t f.c ⟨f.d, f.a, f.b, sh⟩ true) :
    ∃ u t', predOp sh f val s = .next u ∧ s.issueKeeps t f.c u t' ∧ t'.regs = t.regs
      ∧ (s.takesOf (s.atIssue t) f.c = false → t.regsKept t')
      ∧ (s.takesOf (s.atIssue t) f.c = true → t.predSet t' (s.now t + scalarLat) (numOf f.d) allLanes (val s (s.atIssue t))) := by
  unfold predOp
  rw [plain_acts h hp rfl rfl]
  cases ht : s.takesOf (s.atIssue t) f.c with
  | true =>
    obtain ⟨t', h1, h0, h2⟩ := commitP_keeps (b := oneBeat s (s.atIssue t)) (lat := scalarLat) (n := numOf f.d) (m := allLanes)
      (v := val s (s.atIssue t)) h.1 (by decide)
    exact ⟨_, t', rfl, h1, h0, by simp, fun _ => h2⟩
  | false =>
    obtain ⟨t', h1, h2⟩ := commit_keeps (b := oneBeat s (s.atIssue t)) h.1
    exact ⟨_, t', rfl, h1, h2.regs, fun _ => h2, by simp⟩

/-! ## Results of variable latency -/

theorem hazardous_of_mem {t : Troupe} {h : Hazard} {r : RegId} (hm : h ∈ t.hazards) (hr : h.reg = r) : t.hazardous r = true := by
  unfold Troupe.hazardous
  rw [List.any_eq_true]
  exact ⟨h, hm, by simp [hr]⟩

theorem sHazards_mem {ns : List Nat} {o : HazOrd} {n : Nat} (hn : n ∈ ns) (h : n < 61) : ⟨.s n, allLanes, o⟩ ∈ sHazards ns o := by
  simp [sHazards, hn, h]

/-- An instruction whose scalar results `VARIABLE_RESULT_WRITE` writes. -/
theorem commitSLater_keeps {s : State} {t : Troupe} {c : Ctl} {b : Nat} {ws : List (Nat × Word)} (h : s.mayIssue t c) :
    ∃ t', s.issueKeeps t c (({ s with free := s.free + 1 } : State).commitSLater ((s.atIssue t).issued c (s.now t) b) c ws) t'
      ∧ t.regsKept t' ∧ t.underWay t' c (.sregs ws) ((ws.map Prod.fst).filter (· < 61) |>.map RegId.s) := by
  have hf0 := found_of_issues h
  have hf : (({ s with free := s.free + 1 } : State).troupe? ((s.atIssue t).issued c (s.now t) b).wg
      ((s.atIssue t).issued c (s.now t) b).trix).isSome = true := hf0
  have hr := commitSLater_spec c ws hf
  refine ⟨_, issueKeeps_of hr ⟨rfl, rfl⟩ rfl rfl rfl (issuedTo_of (b := b) rfl rfl rfl rfl), ⟨rfl, rfl, rfl⟩,
    ⟨_, rfl⟩, ?_⟩
  intro r hm
  obtain ⟨n, hn, rfl⟩ := List.mem_map.mp hm
  rw [List.mem_filter] at hn
  refine hazardous_of_mem (h := ⟨.s n, allLanes, .pend s.fresh⟩) ?_ rfl
  exact List.mem_append_right _ (sHazards_mem hn.1 (by simpa using hn.2))

/-! ## Transfers -/

/-- The troupe after a taken transfer to `pc` (R145, R287): as `issuedTo`, but for the program counter. -/
theorem jump_keeps {s : State} {t : Troupe} {c : Ctl} {b : Nat} {pc : DWord} (h : s.mayIssue t c) :
    ∃ t', Replaced s t (({ s with free := s.free + 1 } : State).commit (((s.atIssue t).issued c (s.now t) b).jump pc) c) t'
      ∧ t'.pc = alignPc pc ∧ t'.flags = t.flagged c ∧ t'.specials = t.specials ∧ t.regsKept t' := by
  have hf0 := found_of_issues h
  have hf : (({ s with free := s.free + 1 } : State).troupe? (((s.atIssue t).issued c (s.now t) b).jump pc).wg
      (((s.atIssue t).issued c (s.now t) b).jump pc).trix).isSome = true := hf0
  obtain ⟨p, hr⟩ := commit_spec c hf rfl rfl
  exact ⟨_, ⟨restKept_trans (drawn_kept s) hr.rest, hr.now, hr.others⟩, rfl, rfl, rfl, rfl, rfl, rfl⟩

end Sys2Proof.Machine
end

