-- ==== Sys2Proof/Laws/Vector.lean ====
section
/-! SUPPORT. What the shared operations of vector results do: the mappings after releases and first writes, and the lanes that a
commit writes. -/

namespace Sys2Proof.Machine

/-! ## Reading a name after writes -/

theorem find?_modWhere_other {α : Type} {p q : α → Bool} {f : α → α} (hf : ∀ x, p x = true → q x = false ∧ q (f x) = false)
    (l : List α) : (modWhere l p f).find? q = l.find? q := by
  unfold modWhere
  induction l with
  | nil => rfl
  | cons x l ih =>
    rw [List.map_cons]
    by_cases hp : p x = true
    · rw [if_pos hp, List.find?_cons_of_neg (by simp [(hf x hp).2]), List.find?_cons_of_neg (by simp [(hf x hp).1]), ih]
    · rw [if_neg hp, List.find?_cons, List.find?_cons, ih]

theorem find?_modWhere_same {α : Type} {p : α → Bool} {f : α → α} (hf : ∀ x, p x = true → p (f x) = true) (l : List α) :
    (modWhere l p f).find? p = (l.find? p).map f := by
  unfold modWhere
  induction l with
  | nil => rfl
  | cons x l ih =>
    rw [List.map_cons]
    by_cases hp : p x = true
    · rw [if_pos hp, List.find?_cons_of_pos (hf x hp), List.find?_cons_of_pos hp]; rfl
    · rw [if_neg hp, List.find?_cons_of_neg hp, List.find?_cons_of_neg hp, ih]

theorem vreg?_setV_other (t : Troupe) {n k : Nat} (m : Mask) (v : Lanes) (h : n ≠ k) : (t.setV n m v).vreg? k = t.vreg? k := by
  unfold Troupe.vreg? Troupe.setV
  refine find?_modWhere_other (fun x hx => ?_) t.regs
  simp only [beq_iff_eq] at hx
  simp [hx, h]

theorem vreg?_setV_same (t : Troupe) (n : Nat) (m : Mask) (v : Lanes) :
    (t.setV n m v).vreg? n = (t.vreg? n).map fun r => { r with val := mergeLanes m r.val v } := by
  unfold Troupe.vreg? Troupe.setV
  exact find?_modWhere_same (p := fun r : VReg => r.name == n) (f := fun r => { r with val := mergeLanes m r.val v })
    (fun _ hx => hx) t.regs

theorem vreg?_setVs_other (m : Mask) {ws : List (Nat × Lanes)} {k : Nat} (h : ∀ w ∈ ws, w.1 ≠ k) (t : Troupe) :
    (t.setVs m ws).vreg? k = t.vreg? k := by
  induction ws generalizing t with
  | nil => rfl
  | cons w ws ih =>
    show (Troupe.setVs (t.setV w.1 m w.2) m ws).vreg? k = _
    rw [ih (fun v hv => h v (by simp [hv])), vreg?_setV_other t m w.2 (h w (by simp))]

theorem vreg?_setVs_at (m : Mask) {ws : List (Nat × Lanes)} (hn : (ws.map Prod.fst).Nodup) {w : Nat × Lanes} (hw : w ∈ ws)
    (t : Troupe) : (t.setVs m ws).vreg? w.1 = (t.vreg? w.1).map fun r => { r with val := mergeLanes m r.val w.2 } := by
  induction ws generalizing t with
  | nil => cases hw
  | cons v ws ih =>
    rw [List.map_cons, List.nodup_cons] at hn
    show (Troupe.setVs (t.setV v.1 m v.2) m ws).vreg? w.1 = _
    rcases List.mem_cons.mp hw with rfl | hw'
    · rw [vreg?_setVs_other m (fun u hu he => hn.1 (List.mem_map.mpr ⟨u, hu, he⟩)), vreg?_setV_same]
    · rw [ih hn.2 hw', vreg?_setV_other t m v.2 fun he => hn.1 (List.mem_map.mpr ⟨w, hw', he.symm⟩)]

theorem vreg?_none_setVs (m : Mask) {k : Nat} (ws : List (Nat × Lanes)) (t : Troupe) (h : t.vreg? k = none) :
    (t.setVs m ws).vreg? k = none := by
  induction ws generalizing t with
  | nil => exact h
  | cons w ws ih =>
    refine ih (t.setV w.1 m w.2) ?_
    by_cases hk : w.1 = k
    · rw [← hk, vreg?_setV_same, hk, h]; rfl
    · rw [vreg?_setV_other t m w.2 hk, h]

theorem specials_setV (t : Troupe) (n : Nat) (m : Mask) (v : Lanes) : (t.setV n m v).specials = t.specials := rfl

theorem specials_setVs (t : Troupe) (m : Mask) (ws : List (Nat × Lanes)) : (t.setVs m ws).specials = t.specials := by
  induction ws generalizing t with
  | nil => rfl
  | cons w ws ih => exact (ih _).trans (specials_setV t w.1 m w.2)

/-! ## The mappings when an instruction has started -/

theorem find?_rel {regs : List VReg} {rel : List Nat} {n : Nat} :
    (regs.filter fun r => !rel.contains r.name).find? (fun r => r.name == n)
      = if n ∈ rel then none else regs.find? fun r => r.name == n := by
  induction regs with
  | nil => simp
  | cons r regs ih =>
    by_cases hr : r.name ∈ rel
    · rw [List.filter_cons_of_neg (by simp [hr]), ih]
      split
      · rfl
      · rename_i hn
        rw [List.find?_cons_of_neg (by simp only [beq_iff_eq]; exact fun he => hn (he ▸ hr))]
    · rw [List.filter_cons_of_pos (by simp [hr])]
      by_cases he : r.name = n
      · rw [List.find?_cons_of_pos (by simp [he]), if_neg (by rw [← he]; exact hr), List.find?_cons_of_pos (by simp [he])]
      · rw [List.find?_cons_of_neg (by simp [he]), ih, List.find?_cons_of_neg (by simp [he])]

theorem find?_names {rs : List VReg} {n : Nat} (h : n ∈ rs.map VReg.name) :
    ∃ r, rs.find? (fun r => r.name == n) = some r ∧ r ∈ rs := by
  cases hf : rs.find? (fun r => r.name == n) with
  | none =>
    obtain ⟨r, hr, he⟩ := List.mem_map.mp h
    have := List.find?_eq_none.mp hf r hr
    simp [he] at this
  | some r => exact ⟨r, rfl, List.mem_of_find?_eq_some hf⟩

theorem find?_noName {rs : List VReg} {n : Nat} (h : n ∉ rs.map VReg.name) : rs.find? (fun r => r.name == n) = none := by
  rw [List.find?_eq_none]
  intro r hr he
  simp only [beq_iff_eq] at he
  exact h (he ▸ List.mem_map_of_mem hr)

theorem vreg?_isSome {t : Troupe} {n : Nat} : (t.vreg? n).isSome = t.mapped n := by
  unfold Troupe.vreg? Troupe.mapped
  induction t.regs with
  | nil => rfl
  | cons r rs ih => by_cases h : (r.name == n) = true <;> simp_all

/-- A name that is neither released nor first written keeps its mapping. -/
theorem started_other {s s' : State} {t t' : Troupe} {c : Ctl} {b : Nat} {rel fresh : List Nat}
    (h : Started s t c b rel fresh s' t') {n : Nat} (hn : n ∉ fresh) :
    t'.vreg? n = if n ∈ rel then none else t.vreg? n := by
  obtain ⟨rs, h1, h2, -⟩ := h.regs
  rw [Troupe.vreg?, h1, List.find?_append, find?_rel, find?_noName (rs := rs) (by rw [h2]; exact hn)]
  split <;> simp [Troupe.vreg?]

/-- A name that is first written is mapped and reads 0. -/
theorem started_fresh {s s' : State} {t t' : Troupe} {c : Ctl} {b : Nat} {rel fresh : List Nat}
    (h : Started s t c b rel fresh s' t') {n : Nat} (hn : n ∈ fresh) (hm : n ∈ rel ∨ t.vreg? n = none) :
    ∃ r, t'.vreg? n = some r ∧ r.val = lanesOf fun _ => 0 := by
  obtain ⟨rs, h1, h2, h3⟩ := h.regs
  obtain ⟨r, hr, hr'⟩ := find?_names (rs := rs) (n := n) (by rw [h2]; exact hn)
  refine ⟨r, ?_, (h3 r hr').1⟩
  rw [Troupe.vreg?, h1, List.find?_append, find?_rel, hr]
  rcases hm with hm | hm
  · rw [if_pos hm]; rfl
  · split
    · rfl
    · have : t.regs.find? (fun r => r.name == n) = none := hm
      rw [this]; rfl

/-! ## Vector results -/

/-- What reading and writing names under a batch marks touches nothing else. -/
theorem touched_fields (s : State) (t : Troupe) (c : Ctl) (t' : Troupe) (ns : List Nat) :
    s.touched t c t' ns = { t' with openBatch := (s.touched t c t' ns).openBatch, batches := (s.touched t c t' ns).batches } := by
  unfold State.touched
  split <;> rfl

theorem lands_subset {t u : Troupe} (h : ∀ x ∈ u.hazards, x ∈ t.hazards) {p : Nat → Bool} {r : RegId} {l : Nat}
    (ht : t.lands p r l = false) : u.lands p r l = false := by
  unfold Troupe.lands at *
  rw [List.any_eq_false] at *
  exact fun x hx => ht x (h x hx)

theorem lands_absent {u : Troupe} {p : Nat → Bool} {r : RegId} {l : Nat} (h : ∀ x ∈ u.hazards, x.reg ≠ r) :
    u.lands p r l = false := by
  unfold Troupe.lands
  rw [List.any_eq_false]
  intro x hx
  simp [h x hx]

theorem settleV_last {s : State} {t : Troupe} {n e l : Nat} {v : Lanes} (hl : l < 96) (h : t.landsLast (.v n) e l) :
    lane (s.settleV t n e v) l = lane v l := by
  unfold State.settleV
  split
  · have h1 : t.after (.v n) e l = false := lands_mono (fun m hm => by simp at hm ⊢; omega) h
    have h2 : t.lands (· == e) (.v n) l = false := lands_mono (fun m hm => by simp at hm ⊢; omega) h
    rw [lane_lanesOf _ hl]
    simp [Troupe.keeps, h1, h2]
  · rfl

theorem eq_of_key {α : Type} {ws : List (Nat × α)} (hn : (ws.map Prod.fst).Nodup) {a b : Nat × α} (ha : a ∈ ws) (hb : b ∈ ws)
    (h : a.1 = b.1) : a = b := by
  induction ws with
  | nil => cases ha
  | cons w ws ih =>
    rw [List.map_cons, List.nodup_cons] at hn
    rcases List.mem_cons.mp ha with rfl | ha' <;> rcases List.mem_cons.mp hb with rfl | hb'
    · rfl
    · exact absurd (List.mem_map.mpr ⟨b, hb', h.symm⟩) hn.1
    · exact absurd (List.mem_map.mpr ⟨a, ha', h⟩) hn.1
    · exact ih hn.2 ha' hb'

theorem lane_nil (l : Nat) : lane [] l = 0 := by simp [lane]

/-- The mapping of a destination name once its instruction has started. -/
theorem started_base {s s' : State} {t t' : Troupe} {c : Ctl} {b n : Nat} {rel fresh dst : List Nat}
    (h : Started s t c b rel fresh s' t') (hf : fresh = dst.filter fun n => !t.mapped n || rel.contains n) (hd : n ∈ dst) :
    ∃ r, t'.vreg? n = some r ∧ ∀ l, l < 96 → lane r.val l = if n ∈ rel then 0 else lane (t.vval n) l := by
  have hiff := vreg?_isSome (t := t) (n := n)
  by_cases hm : n ∈ rel ∨ t.vreg? n = none
  · obtain ⟨r, hr, hr'⟩ := started_fresh h (n := n) (by
      rw [hf, List.mem_filter]
      refine ⟨hd, ?_⟩
      rcases hm with hm | hm
      · simp [hm]
      · rw [hm] at hiff
        simp [← hiff]) hm
    refine ⟨r, hr, fun l hl => ?_⟩
    rw [hr', lane_lanesOf _ hl]
    split
    · rfl
    · rename_i hnr
      rw [Troupe.vval, hm.resolve_left hnr]
      exact (lane_nil l).symm
  · rw [not_or] at hm
    obtain ⟨r, hr⟩ := Option.ne_none_iff_exists'.mp hm.2
    refine ⟨r, ?_, fun l _ => ?_⟩
    · rw [started_other h (fun hmem => ?_), if_neg hm.1, hr]
      rw [hf, List.mem_filter] at hmem
      rw [hr] at hiff
      simp [← hiff, hm.1] at hmem
    · rw [if_neg hm.1, Troupe.vval, hr]

/-- Destination names mapped and not written yet. -/
theorem started_mapped {s s' : State} {t t' u : Troupe} {c : Ctl} {b e : Nat} {rel fresh dst : List Nat}
    {ws : List (Nat × Lanes)} (h : Started s t c b rel fresh s' t') (hf : fresh = dst.filter fun n => !t.mapped n || rel.contains n)
    (hd : ∀ n, n ∈ dst ↔ n ≠ 255 ∧ n ∈ ws.map Prod.fst) (hu : u.regs = t'.regs) (hs : u.sregs = t.sregs)
    (hp : u.preds = t.preds) : t.lanesSet u rel e 0 ws := by
  have hvreg : ∀ n, u.vreg? n = t'.vreg? n := fun n => by simp [Troupe.vreg?, hu]
  have notFresh : ∀ n, (∀ w ∈ ws, w.1 ≠ n) → n ∉ fresh := fun n h1 hm => by
    rw [hf, List.mem_filter, hd] at hm
    obtain ⟨w, hw, he⟩ := List.mem_map.mp hm.1.2
    exact h1 w hw he
  refine ⟨hs, hp, fun n h1 h2 => ?_, fun n h1 h2 => ?_, fun h0 => ?_, fun w hw h255 => ?_⟩
  · rw [hvreg, started_other h (notFresh n h2), if_neg h1]
  · rw [hvreg, started_other h (notFresh n h2), if_pos h1]
  · rw [hvreg, started_other h (by rw [hf, List.mem_filter, hd]; simp), h0]
    split <;> rfl
  · obtain ⟨r, hr, hrl⟩ := started_base h hf (n := w.1) ((hd w.1).mpr ⟨h255, List.mem_map_of_mem hw⟩)
    refine ⟨by rw [← vreg?_isSome, hvreg, hr]; rfl, fun l hl => ⟨fun _ => ?_, fun hm => by simp at hm⟩⟩
    rw [Troupe.vval, hvreg, hr]
    exact hrl l hl

/-- What a started instruction leaves of a troupe whose destination names are those of `ws`: the registers that the commit then
writes. -/
theorem started_lanes {s s' : State} {t t' u : Troupe} {c : Ctl} {b e : Nat} {rel fresh dst : List Nat} {m : Mask}
    {ws vs : List (Nat × Lanes)} (h : Started s t c b rel fresh s' t') (hf : fresh = dst.filter fun n => !t.mapped n || rel.contains n)
    (hd : ∀ n, n ∈ dst ↔ n ≠ 255 ∧ n ∈ ws.map Prod.fst) (hn : (ws.map Prod.fst).Nodup)
    (hu : u.regs = (t'.setVs m vs).regs) (hk : vs.map Prod.fst = ws.map Prod.fst)
    (hv : ∀ v ∈ vs, ∃ w ∈ ws, w.1 = v.1 ∧ ∀ l, l < 96 → (v.1 ∈ rel ∨ t.landsLast (.v v.1) e l) → lane v.2 l = lane w.2 l)
    (hs : u.sregs = t.sregs) (hp : u.preds = t.preds) : t.lanesSet u rel e m ws := by
  have hvreg : ∀ n, u.vreg? n = (t'.setVs m vs).vreg? n := fun n => by simp [Troupe.vreg?, hu]
  have key : ∀ n, (∀ w ∈ ws, w.1 ≠ n) → ∀ v ∈ vs, v.1 ≠ n := fun n h1 v hv' he => by
    have : n ∈ ws.map Prod.fst := hk ▸ List.mem_map.mpr ⟨v, hv', he⟩
    obtain ⟨w, hw, he'⟩ := List.mem_map.mp this
    exact h1 w hw he'
  have notFresh : ∀ n, (∀ w ∈ ws, w.1 ≠ n) → n ∉ fresh := fun n h1 hm => by
    rw [hf, List.mem_filter, hd] at hm
    obtain ⟨w, hw, he⟩ := List.mem_map.mp hm.1.2
    exact h1 w hw he
  refine ⟨hs, hp, fun n h1 h2 => ?_, fun n h1 h2 => ?_, fun h0 => ?_, fun w hw h255 => ?_⟩
  · rw [hvreg, vreg?_setVs_other m (key n h2), started_other h (notFresh n h2), if_neg h1]
  · rw [hvreg, vreg?_setVs_other m (key n h2), started_other h (notFresh n h2), if_pos h1]
  · rw [hvreg]
    refine vreg?_none_setVs m vs t' ?_
    rw [started_other h (by rw [hf, List.mem_filter, hd]; simp), h0]
    split <;> rfl
  · have hmem : w.1 ∈ ws.map Prod.fst := List.mem_map_of_mem hw
    rw [← hk] at hmem
    obtain ⟨v, hvm, hv1⟩ := List.mem_map.mp hmem
    obtain ⟨w', hw', hw1, hval⟩ := hv v hvm
    have hww : w' = w := eq_of_key hn hw' hw (hw1.trans hv1)
    subst hww
    have hat := vreg?_setVs_at m (hk ▸ hn) hvm t'
    rw [hv1, ← hvreg] at hat
    obtain ⟨r, hr, hrl⟩ := started_base h hf (n := w'.1) ((hd w'.1).mpr ⟨h255, List.mem_map_of_mem hw⟩)
    rw [hr] at hat
    have hvv : u.vval w'.1 = mergeLanes m r.val v.2 := by rw [Troupe.vval, hat]; rfl
    refine ⟨by rw [← vreg?_isSome, hat]; rfl, fun l hl => ⟨fun hml => ?_, fun hml hland => ?_⟩⟩
    · rw [hvv, lane_mergeLanes _ _ _ hl, hml]; exact hrl l hl
    · rw [hvv, lane_mergeLanes _ _ _ hl, hml, if_pos rfl]
      exact hval l hl (by rw [hv1]; exact hland)

theorem found_started {s s' : State} {t : Troupe} {c : Ctl} {b : Nat} {rel fresh : List Nat} {t' : Troupe} (hm : s.mayIssue t c)
    (h : Started s (s.atIssue t) c b rel fresh s' t') : (s'.troupe? t.wg t.trix).isSome = true := by
  rw [troupe?_of_troupes h.troupes]
  exact found_of_issues hm

/-- Lands of the started troupe: nothing is added, and released names have nothing on the way. -/
theorem started_lands {s s' : State} {t : Troupe} {c : Ctl} {b k n l : Nat} {rel fresh : List Nat} {t' : Troupe} (hk : 0 < k)
    (h : Started s (s.atIssue t) c b rel fresh s' t') (hl : n ∈ rel ∨ t.landsLast (.v n) (s.now t + k) l) :
    t'.landsLast (.v n) (s.now t + k) l := by
  rcases hl with hl | hl
  · exact lands_absent fun x hx => h.hazardsR x hx n hl
  · refine lands_subset h.hazards ?_
    exact (lands_tick (t := t) (now := s.now t) _ _ fun n hn => by simp at hn; omega).trans hl

/-- Marking batches changes nothing of what issue did. -/
theorem started_touched {s s' : State} {t t' : Troupe} {c : Ctl} {b : Nat} {rel fresh : List Nat}
    (h : Started s t c b rel fresh s' t') (ns : List Nat) : Started s t c b rel fresh s' (s.touched t c t' ns) := by
  rw [touched_fields]
  exact { h with }

theorem lanesSet_atIssue {s : State} {t u : Troupe} {rel : List Nat} {k : Nat} {m : Mask} {ws : List (Nat × Lanes)} (hk : 0 < k)
    (h : (s.atIssue t).lanesSet u rel (s.now t + k) m ws) : t.lanesSet u rel (s.now t + k) m ws where
  sregs := h.sregs
  preds := h.preds
  others := h.others
  released := h.released
  zero := h.zero
  value := fun w hw h255 => ⟨(h.value w hw h255).1, fun l hl => ⟨((h.value w hw h255).2 l hl).1, fun hm hlast =>
    ((h.value w hw h255).2 l hl).2 hm (hlast.imp id fun h1 =>
      (lands_tick (t := t) (now := s.now t) _ _ fun n hn => by simp at hn; omega).trans h1)⟩⟩

theorem regs_setVs {m : Mask} (vs : List (Nat × Lanes)) {u u' : Troupe} (h : u.regs = u'.regs) :
    (u.setVs m vs).regs = (u'.setVs m vs).regs := by
  induction vs generalizing u u' with
  | nil => exact h
  | cons v vs ih => exact ih (by simp [Troupe.setV, h])

theorem now_started {s s' : State} {t : Troupe} {c : Ctl} {b : Nat} {rel fresh : List Nat} {u : Troupe}
    (h : Started s (s.atIssue t) c b rel fresh s' u) : s'.now u = s.now t := by
  show (s'.die u.die).cycle = (s.die t.die).cycle
  rw [show u.die = t.die from congrArg pipeDie h.pipe, State.die, State.die, h.dies]

/-- An instruction that commits vector results of a fixed latency to its destination names. -/
theorem commitV_keeps {s s' : State} {t u : Troupe} {c : Ctl} {b lat : Nat} {rel dst : List Nat} {m : Mask}
    {ws : List (Nat × Lanes)} (hm : s.mayIssue t c)
    (h : Started s (s.atIssue t) c b rel (dst.filter fun n => !(s.atIssue t).mapped n || rel.contains n) s' u) (hl : 0 < lat)
    (hd : ∀ n, n ∈ dst ↔ n ≠ 255 ∧ n ∈ ws.map Prod.fst) (hn : (ws.map Prod.fst).Nodup) :
    ∃ t2, s.issueKeeps t c (s'.commitV u c lat m ws) t2 ∧ t.lanesSet t2 rel (s.now t + lat) m ws := by
  have hf : (s'.troupe? u.wg u.trix).isSome = true := by rw [h.wg, h.trix]; exact found_started (t := t) hm h
  obtain ⟨p, z, hr⟩ := commitV_spec c lat m ws hf
  rw [now_started h] at hr
  refine ⟨_, issueKeeps_of hr h.rest h.troupes h.wg h.trix ⟨?_, ?_, ?_, ?_⟩, lanesSet_atIssue hl ?_⟩
  · exact (Troupe.setVs_pc ..).trans h.pc
  · exact (Troupe.setVs_flags ..).trans h.flags
  · exact (Troupe.setVs_lastIssue ..).trans h.lastIssue
  · exact (specials_setVs ..).trans h.specials
  · refine started_lanes h rfl hd hn (regs_setVs _ rfl) (by rw [List.map_map]; rfl) ?_
      ((Troupe.setVs_sregs ..).trans h.sregs) ((Troupe.setVs_preds ..).trans h.preds)
    intro v hv
    obtain ⟨w, hw, rfl⟩ := List.mem_map.mp hv
    refine ⟨w, hw, rfl, fun l hl96 hlast => settleV_last hl96 (started_lands hl h (hlast.imp id fun h1 => ?_))⟩
    exact (lands_tick (t := t) (now := s.now t) _ _ fun n hn => by simp at hn; omega).symm.trans h1

/-- An instruction whose vector results a later event writes: its destination names are mapped now. -/
theorem commitVLater_keeps {s s' : State} {t u : Troupe} {c : Ctl} {b : Nat} {rel dst : List Nat} {m : Mask}
    {ws : List (Nat × Lanes)} (hm : s.mayIssue t c)
    (h : Started s (s.atIssue t) c b rel (dst.filter fun n => !(s.atIssue t).mapped n || rel.contains n) s' u)
    (hd : ∀ n, n ∈ dst ↔ n ≠ 255 ∧ n ∈ ws.map Prod.fst) :
    ∃ t2, s.issueKeeps t c (s'.commitVLater u c m ws) t2 ∧ t.lanesSet t2 rel (s.now t + 1) 0 ws
      ∧ t.underWay t2 c (.vregs (ws.map fun w => (w.1, t2.token w.1)) m (ws.map Prod.snd))
          (((ws.map Prod.fst).filter (· != 255)).map RegId.v) := by
  have hf : (s'.troupe? u.wg u.trix).isSome = true := by rw [h.wg, h.trix]; exact found_started (t := t) hm h
  have hr := commitVLater_spec c m ws hf
  refine ⟨_, issueKeeps_of hr h.rest h.troupes h.wg h.trix ⟨h.pc, h.flags, h.lastIssue, h.specials⟩,
    lanesSet_atIssue (by omega) ?_, ⟨_, congrArg (· ++ _) h.pend⟩, ?_⟩
  · exact started_mapped h rfl hd rfl h.sregs h.preds
  · intro r hr
    obtain ⟨n, hn', rfl⟩ := List.mem_map.mp hr
    obtain ⟨hn1, hn2⟩ := List.mem_filter.mp hn'
    obtain ⟨w, hw, rfl⟩ := List.mem_map.mp hn1
    refine hazardous_of_mem (h := ⟨.v w.1, m, .pend s'.fresh⟩) (List.mem_append_right _ ?_) rfl
    exact List.mem_map.mpr ⟨w, List.mem_filter.mpr ⟨hw, hn2⟩, rfl⟩

/-! ## Scalar and predicate results of instructions that read vector names -/

theorem started_released {s s' : State} {t u : Troupe} {c : Ctl} {b : Nat} {rel : List Nat}
    (h : Started s (s.atIssue t) c b rel [] s' u) : t.released u rel := by
  obtain ⟨rs, h1, h2, -⟩ := h.regs
  rw [Troupe.released, h1, List.map_eq_nil_iff.mp h2, List.append_nil]
  rfl

theorem started_landsS {s s' : State} {t u : Troupe} {c : Ctl} {b k l : Nat} {rel fresh : List Nat} {r : RegId} (hk : 0 < k)
    (h : Started s (s.atIssue t) c b rel fresh s' u) (hl : t.landsLast r (s.now t + k) l) : u.landsLast r (s.now t + k) l :=
  lands_subset h.hazards ((lands_tick (t := t) (now := s.now t) _ _ fun n hn => by simp at hn; omega).trans hl)

theorem started_after {s s' : State} {t u : Troupe} {c : Ctl} {b k l n : Nat} {rel fresh : List Nat}
    (h : Started s (s.atIssue t) c b rel fresh s' u) (hl : t.after (.s n) (s.now t + k) l = true) :
    u.after (.s n) (s.now t + k) l = true := by
  have h1 : (s.atIssue t).after (.s n) (s.now t + k) l = true :=
    (lands_tick (t := t) (now := s.now t) _ _ fun n hn => by simp at hn; omega).trans hl
  unfold Troupe.after Troupe.lands at h1 ⊢
  rw [List.any_eq_true] at h1 ⊢
  obtain ⟨x, hx, hp⟩ := h1
  refine ⟨x, h.hazardsS x hx fun m hm => ?_, hp⟩
  rw [hm] at hp
  simp at hp

theorem commit_started {s s' : State} {t u : Troupe} {c : Ctl} {b : Nat} {rel fresh : List Nat} (hm : s.mayIssue t c)
    (h : Started s (s.atIssue t) c b rel fresh s' u) :
    ∃ t2, s.issueKeeps t c (s'.commit u c) t2 ∧ t2.regs = u.regs ∧ t2.sregs = t.sregs ∧ t2.preds = t.preds := by
  have hf : (s'.troupe? u.wg u.trix).isSome = true := by rw [h.wg, h.trix]; exact found_started (t := t) hm h
  obtain ⟨p, hr⟩ := commit_spec c hf rfl rfl
  exact ⟨_, issueKeeps_of hr h.rest h.troupes h.wg h.trix ⟨h.pc, h.flags, h.lastIssue, h.specials⟩, rfl, h.sregs, h.preds⟩

theorem commitS_started {s s' : State} {t u : Troupe} {c : Ctl} {b lat : Nat} {rel : List Nat} {ws : List (Nat × Word)}
    (hm : s.mayIssue t c) (h : Started s (s.atIssue t) c b rel [] s' u) (hl : 0 < lat) (hn : (ws.map Prod.fst).Nodup)
    (h64 : ∀ w ∈ ws, w.1 < 64) :
    ∃ t2, s.issueKeeps t c (s'.commitS u c lat ws) t2 ∧ t.released t2 rel ∧ t.scalarsSet t2 (s.now t + lat) ws := by
  have hf : (s'.troupe? u.wg u.trix).isSome = true := by rw [h.wg, h.trix]; exact found_started (t := t) hm h
  obtain ⟨p, z, k, hr⟩ := commitS_spec c lat ws hf
  rw [now_started h] at hr
  have hn' : ((ws.map fun w => (w.1, s'.settleS u w.1 (s.now t + lat) w.2)).map Prod.fst).Nodup := by rw [List.map_map]; exact hn
  refine ⟨_, issueKeeps_of hr h.rest h.troupes h.wg h.trix ⟨?_, ?_, ?_, ?_⟩, ?_, ?_, ?_, ?_, ?_⟩
  · exact (Troupe.setSs_pc ..).trans h.pc
  · exact (Troupe.setSs_flags ..).trans h.flags
  · exact (Troupe.setSs_lastIssue ..).trans h.lastIssue
  · exact (specials_setSs ..).trans h.specials
  · exact (Troupe.setSs_regs ..).trans (started_released h)
  · exact (Troupe.setSs_preds ..).trans h.preds
  · intro n hne
    refine (sregs_setSs_other (t := u) ?_).trans (by rw [h.sregs]; rfl)
    intro w hw
    obtain ⟨v, hv, rfl⟩ := List.mem_map.mp hw
    exact hne v hv
  · intro w hw hk
    refine (sregs_setSs_at hn' (List.mem_map_of_mem hw) (h64 w hw) u).trans ?_
    show Option.map (fun _ => s'.settleS u w.1 (s.now t + lat) w.2) u.sregs[w.1]? = _
    rw [settleS_last (started_landsS hl h hk), h.sregs]
    rfl
  · intro w hw hk
    refine (sregs_setSs_at hn' (List.mem_map_of_mem hw) (h64 w hw) u).trans ?_
    show Option.map (fun _ => s'.settleS u w.1 (s.now t + lat) w.2) u.sregs[w.1]? = _
    rw [settleS_after (started_after h hk), h.sregs, List.getD_eq_getElem?_getD]
    show Option.map _ t.sregs[w.1]? = _
    cases hg : t.sregs[w.1]? <;> simp [State.atIssue, Troupe.tick, hg]

theorem commitP_started {s s' : State} {t u : Troupe} {c : Ctl} {b lat n : Nat} {rel : List Nat} {m v : Mask}
    (hm : s.mayIssue t c) (h : Started s (s.atIssue t) c b rel [] s' u) (hl : 0 < lat) :
    ∃ t2, s.issueKeeps t c (s'.commitP u c lat n m v) t2 ∧ t.released t2 rel ∧ t.predSet t2 (s.now t + lat) n m v := by
  have hf : (s'.troupe? u.wg u.trix).isSome = true := by rw [h.wg, h.trix]; exact found_started (t := t) hm h
  obtain ⟨p, z, hr⟩ := commitP_spec c lat n m v hf
  rw [now_started h] at hr
  refine ⟨_, issueKeeps_of hr h.rest h.troupes h.wg h.trix ⟨?_, ?_, ?_, ?_⟩, ?_, ?_, ?_, ?_, ?_⟩
  · exact (Troupe.setP_pc ..).trans h.pc
  · exact (Troupe.setP_flags ..).trans h.flags
  · exact (Troupe.setP_lastIssue ..).trans h.lastIssue
  · exact (specials_setP ..).trans h.specials
  · exact (Troupe.setP_regs ..).trans (started_released h)
  · exact (Troupe.setP_sregs ..).trans h.sregs
  · intro k hk
    show (Troupe.setP u n _).preds[k]? = _
    unfold Troupe.setP
    split
    · exact (List.getElem?_set_ne (Ne.symm hk)).trans (by rw [h.preds]; rfl)
    · rw [h.preds]; rfl
  · intro h7
    show (Troupe.setP u n _).preds = _
    rw [Troupe.setP, if_neg (by omega), h.preds]
    rfl
  · intro h7 x hx
    have hp : u.pred n = x := by
      rw [Troupe.pred, if_pos h7, h.preds]
      show t.preds.getD n 0 = x
      rw [List.getD_eq_getElem?_getD, hx]; rfl
    refine ⟨(x &&& ~~~m) ||| (s'.settleP u n (s.now t + lat) v &&& m), ?_, fun l hl96 => ⟨fun hm => ?_, fun hm hk => ?_⟩⟩
    · show (Troupe.setP u n _).preds[n]? = _
      rw [Troupe.setP, if_pos h7, hp]
      show (u.preds.set n _)[n]? = _
      rw [h.preds]
      show (t.preds.set n _)[n]? = _
      have : n < t.preds.length := (List.getElem?_eq_some_iff.mp hx).1
      simp [this]
    · rw [bits_merge, hm]; simp
    · rw [bits_merge, hm, if_pos rfl]
      exact settleP_last hl96 (started_landsS hl h hk)

/-! ## Instructions of vector operands -/

/-- An instruction that passes its checks, and that nothing holds, acts on the started state. -/
theorem operate_starts {s : State} {t : Troupe} {c : Ctl} {bts : State → Troupe → Nat} {o : Troupe → Opnds}
    {mod : Troupe → Bool} {late : State → Troupe → Option TrapInfo} {hold : State → Troupe → Bool}
    {act : State → Troupe → State → Troupe → State} (h : s.issuesWith t c (o (s.atIssue t)) (mod (s.atIssue t)))
    (hl : late s (s.atIssue t) = none) (hh : hold s (s.atIssue t) = false) :
    ∃ s' u b, Started s (s.atIssue t) c b ((o (s.atIssue t)).rel (s.atIssue t)) ((o (s.atIssue t)).fresh (s.atIssue t)) s' u
      ∧ s.operate c bts o mod late hold act = .next (act s (s.atIssue t) s' u) := by
  obtain ⟨s', t', u, h1, rfl, h3⟩ := operateS_acts (o := fun _ => o) (bts := bts) (act := act) h hl hh
  exact ⟨s', _, _, started_touched h1 _, h3⟩

/-- The names of a destination field that is a window of w names. -/
theorem destNames {t : Troupe} {o : Operand} {l : List Acc} {w : Nat} (hl : ∀ a ∈ l, ∃ vp, a = .vw w vp ∨ a = .vd w vp)
    (h : (t.use o l).isSome = true) : dstNames o (t.use o l) = (window (numOf o) w).filter (· != 255) := by
  rw [Option.isSome_iff_exists] at h
  obtain ⟨a, h⟩ := h
  have hok := use_ok h
  rw [h]
  obtain ⟨vp, rfl | rfl⟩ := hl a (use_mem h) <;> cases o <;> simp_all [Troupe.accOk, dstNames, vecNames, numOf]

theorem window_one (n : Nat) : window n 1 = [n] := rfl

theorem mem_window {n w k : Nat} : k ∈ window n w ↔ n ≤ k ∧ k < n + w := by
  simp only [window, List.mem_map, List.mem_range]
  exact ⟨fun ⟨i, hi, he⟩ => by omega, fun ⟨h1, h2⟩ => ⟨k - n, by omega, by omega⟩⟩

theorem window_nodup (n w : Nat) : (window n w).Nodup := by
  unfold window
  exact List.Pairwise.map _ (fun a b (hab : a ≠ b) (he : n + a = n + b) => hab (by omega)) List.nodup_range

theorem dst_window {o : Opnds} {t : Troupe} {w : Nat} (hl : ∀ a ∈ o.sh.d, ∃ vp, a = .vw w vp ∨ a = .vd w vp) (h : o.ok t = true)
    (n : Nat) : n ∈ o.dst t ↔ n ≠ 255 ∧ n ∈ window (numOf o.d) w := by
  obtain ⟨a, _, _, ha, _, _⟩ := uses_of_ok h
  rw [Opnds.dst, Opnds.ud, destNames hl (by rw [ha]; rfl), List.mem_filter]
  simp [and_comm]

/-- A vector instruction writes its destination name in the effective lanes and nothing else (R349). -/
theorem vecOp_spec {sh : Shape} {lat : Nat} {f : OForm} {val : State → Troupe → Lanes} {s : State} {t : Troupe}
    (hd : ∀ a ∈ sh.d, ∃ vp, a = .vw 1 vp ∨ a = .vd 1 vp) (hl : 0 < lat) (h : s.issuesWith t f.c ⟨f.d, f.a, f.b, sh⟩ true) :
    ∃ u t', vecOp sh lat f val s = .next u ∧ s.issueKeeps t f.c u t'
      ∧ t.lanesSet t' ((⟨f.d, f.a, f.b, sh⟩ : Opnds).rel (s.atIssue t)) (s.now t + lat) (s.effOf (s.atIssue t) f.c)
          [(numOf f.d, val s (s.atIssue t))] := by
  obtain ⟨s', u, b, h1, h2⟩ := operate_starts (bts := vecBeats f.c) (o := opndsO sh f) (mod := okMod) (late := noLate) (hold := noHold)
    (act := fun s t s' t' => s'.commitV t' f.c lat (s.effOf t f.c) [(numOf f.d, val s t)]) h rfl rfl
  obtain ⟨t2, h3, h4⟩ := commitV_keeps (lat := lat) (m := s.effOf (s.atIssue t) f.c) (ws := [(numOf f.d, val s (s.atIssue t))])
    h.1 h1 hl (fun n => (dst_window (o := ⟨f.d, f.a, f.b, sh⟩) hd (ok_of_passes h.2) n).trans (by rw [window_one]; rfl))
    (by simp)
  exact ⟨_, t2, h2, h3, h4⟩

end Sys2Proof.Machine
end

