-- ==== Sys2Proof/Tests/Slice0.lean ====
section
/-! SUPPORT. The model's own tests: terms that WellFormed refuses, words that decode, single steps on small states. -/

namespace Sys2Proof.Tests

open Sys2Proof Sys2Proof.Machine

set_option Elab.async false

/-! ## Well-formedness: a term for each check, which the check refuses -/

def plainT : Ctl := ⟨7, false, 0, 0, 15, false⟩

theorem test_wf_plain : (Instr.sadd ⟨plainT, .scal 1, .scal 2, .imm 3⟩).wf = true := by decide
theorem test_wf_operand : (Instr.sadd ⟨plainT, .bad 0, .scal 2, .imm 3⟩).wf = false := by decide
theorem test_wf_operand_a : (Instr.sadd ⟨plainT, .scal 1, .bad 2, .imm 3⟩).wf = false := by decide
theorem test_wf_operand_b : (Instr.sadd ⟨plainT, .scal 1, .scal 2, .bad 4⟩).wf = false := by decide
/-- A scalar field with a bit above [9:0] is a field that no other constructor reads. -/
theorem test_wf_bad_kept : (Instr.sadd ⟨plainT, .bad 0x401, .scal 2, .imm 3⟩).wf = true := by decide
theorem test_wf_sflag : (Instr.nop ⟨⟨7, false, 0, 0, 13, false⟩, .imm 0, .imm 0, .imm 0⟩).wf = false := by decide
theorem test_wf_sflag_m : (Instr.ld ⟨⟨7, false, 0, 0, 12, false⟩, .vec 0 false 0 0, .vec 1 false 0 0, ⟨0, 0, 0, 4, 0, 0⟩⟩).wf = false := by decide
theorem test_wf_sflag_c : (Instr.br ⟨⟨7, false, 0, 0, 14, false⟩, .imm 0, 1⟩).wf = false := by decide
theorem test_wf_operand_m : (Instr.ld ⟨plainT, .vec 0 false 0 0, .bad 6, ⟨0, 0, 0, 4, 0, 0⟩⟩).wf = false := by decide
theorem test_wf_operand_c : (Instr.brz ⟨plainT, .bad 9, 1⟩).wf = false := by decide
theorem test_wf_atom_type : (Instr.atomAdd .uint ⟨plainT, .vec 0 false 0 0, .scal 2, ⟨0, 0, 0, 4, 0, 0⟩⟩).wf = false := by decide
theorem test_wf_unassigned : (Instr.unassignedOpcode 0x3FF).wf = true := by decide
theorem test_wf_die : (Instr.dieReset 31).wf = true ∧ (Instr.dieReset 32).wf = false := by decide
theorem test_wf_socket : (Instr.linkUp 63 0).wf = true ∧ (Instr.linkUp 0 64).wf = false := by decide
theorem test_wf_core : (Instr.mailboxReceive 0 7).wf = true ∧ (Instr.mailboxReceive 0 8).wf = false := by decide
theorem test_wf_partition : (Instr.energyAdmit 31).wf = true ∧ (Instr.energyAdmit 32).wf = false := by decide
theorem test_wf_queue : (Instr.jqnotifyWrite 0 63 .low 0).wf = true ∧ (Instr.jqnotifyWrite 0 64 .low 0).wf = false := by decide
theorem test_wf_port : (Instr.fabricPortFailure 16).wf = false ∧ (Instr.ethernetPortDown 2).wf = false ∧ (Instr.cxlLinkLoss 2).wf = false := by
  decide
theorem test_wf_message : (Instr.mailboxSend 0 0 ⟨0, 0, 1, 7, 0, 0, 0, 0, List.replicate 55 0⟩).wf = false := by decide
theorem test_wf_ecc : (EccEvent.vreg 1 0 255 true).wf = false ∧ (EccEvent.weight 1024 0 true).wf = false
    ∧ (EccEvent.scratch 0 0 64 0 true).wf = false ∧ (EccEvent.cache 0 (some 8) 0 true).wf = false := by decide
theorem test_wf_member : (Instr.busyResend 0 0 64).wf = false ∧ (Instr.memberDead 0 16 0).wf = false ∧ (Instr.renewSend 0 16).wf = false := by
  decide
theorem test_wf_pipe : (Instr.matrixOpPerform 1024).wf = false ∧ (Instr.variableResultWrite 1 16 0).wf = false ∧ (Instr.xDieReset 4).wf = false := by
  decide

/-! ## Decoding

Each word below holds the same fields, written from R289, R291, R297 and R300 over the opcode of R307 to R315: guard !p3, dist 9, wmask
0x805, sflag f6, the pick hint. Format O and X: D = v7 with its last-read bit, pattern 5, parameter 0x21; A = s88; B = #-3. Format M: D = s14;
A = v250; OFS -2, `.acqrel`, ac13, SIZE 5, scope 4, policy 2. Format C: D = p6, offset -0x7654321. -/

def ctlT : Ctl := ⟨3, true, 9, 0x805, 6, true⟩
def oT : OForm := ⟨ctlT, .vec 7 true 5 0x21, .scal 88, .imm (-3)⟩
def mT : MForm := ⟨ctlT, .scal 14, .vec 250 false 0 0, ⟨-2, 3, 13, 5, 4, 2⟩⟩
def cT : CForm := ⟨ctlT, .special 6, -0x7654321⟩

/-- Words of the scalar and control instructions (R307). -/
def scalarWords : List (IWord × Instr) := [
  (0x5A0167FF_FD800586_1B072C01#96, .sadd oT),
  (0x5A0167FF_FD800586_1B072C02#96, .ssub oT),
  (0x5A0167FF_FD800586_1B072C03#96, .smul oT),
  (0x5A0167FF_FD800586_1B072C04#96, .smulh false oT),
  (0x5A0167FF_FD800586_1B072C05#96, .smulh true oT),
  (0x5A0167FF_FD800586_1B072C06#96, .sdiv false oT),
  (0x5A0167FF_FD800586_1B072C07#96, .sdiv true oT),
  (0x5A0167FF_FD800586_1B072C08#96, .srem false oT),
  (0x5A0167FF_FD800586_1B072C09#96, .srem true oT),
  (0x5A0167FF_FD800586_1B072C0A#96, .sand oT),
  (0x5A0167FF_FD800586_1B072C0B#96, .sor oT),
  (0x5A0167FF_FD800586_1B072C0C#96, .sxor oT),
  (0x5A0167FF_FD800586_1B072C0D#96, .sshl oT),
  (0x5A0167FF_FD800586_1B072C0E#96, .sshr oT),
  (0x5A0167FF_FD800586_1B072C0F#96, .ssra oT),
  (0x5A0167FF_FD800586_1B072C10#96, .smin false oT),
  (0x5A0167FF_FD800586_1B072C11#96, .smin true oT),
  (0x5A0167FF_FD800586_1B072C12#96, .smax false oT),
  (0x5A0167FF_FD800586_1B072C13#96, .smax true oT),
  (0x5A0167FF_FD800586_1B072C14#96, .scmp oT),
  (0x5A0167FF_FD800586_1B072C15#96, .ssel oT),
  (0x5A0167FF_FD800586_1B072C16#96, .smov oT),
  (0x5A0167FF_FD800586_1B072C17#96, .smovh oT),
  (0x5A0167EF_6C800FA0_000E6C18#96, .sld mT),
  (0x5A0167EF_6C800FA0_000E6C19#96, .sst mT),
  (0x5A0167FF_E26AF37C_0006EC20#96, .br cT),
  (0x5A0167FF_E26AF37C_0006EC21#96, .brz cT),
  (0x5A0167FF_E26AF37C_0006EC22#96, .brnz cT),
  (0x5A0167FF_E26AF37C_0006EC23#96, .bany cT),
  (0x5A0167FF_E26AF37C_0006EC24#96, .ball cT),
  (0x5A0167FF_E26AF37C_0006EC25#96, .bnone cT),
  (0x5A0167FF_E26AF37C_0006EC26#96, .call cT),
  (0x5A0167FF_FD800586_1B072C27#96, .ret oT),
  (0x5A0167FF_FD800586_1B072C28#96, .jmp oT),
  (0x5A0167FF_FD800586_1B072C29#96, .exit oT),
  (0x5A0167FF_FD800586_1B072C2A#96, .yield oT),
  (0x5A0167FF_FD800586_1B072C2B#96, .nop oT),
  (0x5A0167FF_FD800586_1B072C40#96, .pand oT),
  (0x5A0167FF_FD800586_1B072C41#96, .por oT),
  (0x5A0167FF_FD800586_1B072C42#96, .pxor oT),
  (0x5A0167FF_FD800586_1B072C43#96, .pnot oT),
  (0x5A0167FF_FD800586_1B072C44#96, .pmov oT),
  (0x5A0167FF_FD800586_1B072C45#96, .pcnt oT),
  (0x5A0167FF_FD800586_1B072C46#96, .pfirst oT),
  (0x5A0167FF_FD800586_1B072C47#96, .pfroms oT),
  (0x5A0167FF_FD800586_1B072C48#96, .ptos oT)]

theorem test_decode_scalar : (scalarWords.all fun w => decodeWord w.1 == w.2) = true := by decide +kernel

/-- Words of the vector integer and bit instructions (R308). -/
def vectorWords : List (IWord × Instr) := [
  (0x5A0167FF_FD800586_1B072C80#96, .vadd oT),
  (0x5A0167FF_FD800586_1B072C81#96, .vsub oT),
  (0x5A0167FF_FD800586_1B072C82#96, .vadds false oT),
  (0x5A0167FF_FD800586_1B072C83#96, .vadds true oT),
  (0x5A0167FF_FD800586_1B072C84#96, .vsubs false oT),
  (0x5A0167FF_FD800586_1B072C85#96, .vsubs true oT),
  (0x5A0167FF_FD800586_1B072C86#96, .vaddc oT),
  (0x5A0167FF_FD800586_1B072C87#96, .vmul oT),
  (0x5A0167FF_FD800586_1B072C88#96, .vmulh false oT),
  (0x5A0167FF_FD800586_1B072C89#96, .vmulh true oT),
  (0x5A0167FF_FD800586_1B072C8A#96, .vmad oT),
  (0x5A0167FF_FD800586_1B072C8B#96, .vdiv false oT),
  (0x5A0167FF_FD800586_1B072C8C#96, .vdiv true oT),
  (0x5A0167FF_FD800586_1B072C8D#96, .vrem false oT),
  (0x5A0167FF_FD800586_1B072C8E#96, .vrem true oT),
  (0x5A0167FF_FD800586_1B072C8F#96, .vand oT),
  (0x5A0167FF_FD800586_1B072C90#96, .vor oT),
  (0x5A0167FF_FD800586_1B072C91#96, .vxor oT),
  (0x5A0167FF_FD800586_1B072C92#96, .vnot oT),
  (0x5A0167FF_FD800586_1B072C93#96, .vshl oT),
  (0x5A0167FF_FD800586_1B072C94#96, .vshr oT),
  (0x5A0167FF_FD800586_1B072C95#96, .vsra oT),
  (0x5A0167FF_FD800586_1B072C96#96, .vmin false oT),
  (0x5A0167FF_FD800586_1B072C97#96, .vmin true oT),
  (0x5A0167FF_FD800586_1B072C98#96, .vmax false oT),
  (0x5A0167FF_FD800586_1B072C99#96, .vmax true oT),
  (0x5A0167FF_FD800586_1B072C9A#96, .vabs oT),
  (0x5A0167FF_FD800586_1B072C9B#96, .vneg oT),
  (0x5A0167FF_FD800586_1B072C9C#96, .vcmp oT),
  (0x5A0167FF_FD800586_1B072C9D#96, .vsel oT),
  (0x5A0167FF_FD800586_1B072C9E#96, .vmov oT),
  (0x5A0167FF_FD800586_1B072C9F#96, .vmovh oT),
  (0x5A0167FF_FD800586_1B072CA0#96, .vlane oT),
  (0x5A0167FF_FD800586_1B072CA1#96, .vscan oT),
  (0x5A0167FF_FD800586_1B072CA2#96, .vred oT),
  (0x5A0167FF_FD800586_1B072CA3#96, .vmatch oT),
  (0x5A0167FF_FD800586_1B072CC0#96, .vbfe false oT),
  (0x5A0167FF_FD800586_1B072CC1#96, .vbfe true oT),
  (0x5A0167FF_FD800586_1B072CC2#96, .vbfi oT),
  (0x5A0167FF_FD800586_1B072CC3#96, .vpop oT),
  (0x5A0167FF_FD800586_1B072CC4#96, .vclz oT),
  (0x5A0167FF_FD800586_1B072CC5#96, .vctz oT),
  (0x5A0167FF_FD800586_1B072CC6#96, .vbrev oT),
  (0x5A0167FF_FD800586_1B072CC7#96, .vfunnel oT),
  (0x5A0167FF_FD800586_1B072CC8#96, .vbperm oT)]

theorem test_decode_vector : (vectorWords.all fun w => decodeWord w.1 == w.2) = true := by decide +kernel

/-- Words of the floating-point arithmetic (R309). -/
def float1Words : List (IWord × Instr) := [
  (0x5A0167FF_FD800586_1B072D00#96, .fadd .f32 oT),
  (0x5A0167FF_FD800586_1B072D01#96, .fadd .f16 oT),
  (0x5A0167FF_FD800586_1B072D02#96, .fadd .bf16 oT),
  (0x5A0167FF_FD800586_1B072D03#96, .fadd .f16x2 oT),
  (0x5A0167FF_FD800586_1B072D04#96, .fadd .bf16x2 oT),
  (0x5A0167FF_FD800586_1B072D08#96, .fsub .f32 oT),
  (0x5A0167FF_FD800586_1B072D09#96, .fsub .f16 oT),
  (0x5A0167FF_FD800586_1B072D0A#96, .fsub .bf16 oT),
  (0x5A0167FF_FD800586_1B072D0B#96, .fsub .f16x2 oT),
  (0x5A0167FF_FD800586_1B072D0C#96, .fsub .bf16x2 oT),
  (0x5A0167FF_FD800586_1B072D10#96, .fmul .f32 oT),
  (0x5A0167FF_FD800586_1B072D11#96, .fmul .f16 oT),
  (0x5A0167FF_FD800586_1B072D12#96, .fmul .bf16 oT),
  (0x5A0167FF_FD800586_1B072D13#96, .fmul .f16x2 oT),
  (0x5A0167FF_FD800586_1B072D14#96, .fmul .bf16x2 oT),
  (0x5A0167FF_FD800586_1B072D18#96, .ffma .f32 oT),
  (0x5A0167FF_FD800586_1B072D19#96, .ffma .f16 oT),
  (0x5A0167FF_FD800586_1B072D1A#96, .ffma .bf16 oT),
  (0x5A0167FF_FD800586_1B072D1B#96, .ffma .f16x2 oT),
  (0x5A0167FF_FD800586_1B072D1C#96, .ffma .bf16x2 oT),
  (0x5A0167FF_FD800586_1B072D20#96, .ffms .f32 oT),
  (0x5A0167FF_FD800586_1B072D21#96, .ffms .f16 oT),
  (0x5A0167FF_FD800586_1B072D22#96, .ffms .bf16 oT),
  (0x5A0167FF_FD800586_1B072D23#96, .ffms .f16x2 oT),
  (0x5A0167FF_FD800586_1B072D24#96, .ffms .bf16x2 oT),
  (0x5A0167FF_FD800586_1B072D28#96, .fnma .f32 oT),
  (0x5A0167FF_FD800586_1B072D29#96, .fnma .f16 oT),
  (0x5A0167FF_FD800586_1B072D2A#96, .fnma .bf16 oT),
  (0x5A0167FF_FD800586_1B072D2B#96, .fnma .f16x2 oT),
  (0x5A0167FF_FD800586_1B072D2C#96, .fnma .bf16x2 oT),
  (0x5A0167FF_FD800586_1B072D30#96, .fnms .f32 oT),
  (0x5A0167FF_FD800586_1B072D31#96, .fnms .f16 oT),
  (0x5A0167FF_FD800586_1B072D32#96, .fnms .bf16 oT),
  (0x5A0167FF_FD800586_1B072D33#96, .fnms .f16x2 oT),
  (0x5A0167FF_FD800586_1B072D34#96, .fnms .bf16x2 oT),
  (0x5A0167FF_FD800586_1B072D38#96, .fmin .f32 oT),
  (0x5A0167FF_FD800586_1B072D39#96, .fmin .f16 oT),
  (0x5A0167FF_FD800586_1B072D3A#96, .fmin .bf16 oT),
  (0x5A0167FF_FD800586_1B072D3B#96, .fmin .f16x2 oT),
  (0x5A0167FF_FD800586_1B072D3C#96, .fmin .bf16x2 oT),
  (0x5A0167FF_FD800586_1B072D40#96, .fmax .f32 oT),
  (0x5A0167FF_FD800586_1B072D41#96, .fmax .f16 oT),
  (0x5A0167FF_FD800586_1B072D42#96, .fmax .bf16 oT),
  (0x5A0167FF_FD800586_1B072D43#96, .fmax .f16x2 oT),
  (0x5A0167FF_FD800586_1B072D44#96, .fmax .bf16x2 oT),
  (0x5A0167FF_FD800586_1B072D48#96, .fabs .f32 oT),
  (0x5A0167FF_FD800586_1B072D49#96, .fabs .f16 oT),
  (0x5A0167FF_FD800586_1B072D4A#96, .fabs .bf16 oT),
  (0x5A0167FF_FD800586_1B072D4B#96, .fabs .f16x2 oT),
  (0x5A0167FF_FD800586_1B072D4C#96, .fabs .bf16x2 oT),
  (0x5A0167FF_FD800586_1B072D50#96, .fneg .f32 oT),
  (0x5A0167FF_FD800586_1B072D51#96, .fneg .f16 oT),
  (0x5A0167FF_FD800586_1B072D52#96, .fneg .bf16 oT),
  (0x5A0167FF_FD800586_1B072D53#96, .fneg .f16x2 oT),
  (0x5A0167FF_FD800586_1B072D54#96, .fneg .bf16x2 oT)]

theorem test_decode_float1 : (float1Words.all fun w => decodeWord w.1 == w.2) = true := by decide +kernel

/-- Words of the the other floating-point instructions (R309). -/
def float2Words : List (IWord × Instr) := [
  (0x5A0167FF_FD800586_1B072D58#96, .fcmp oT),
  (0x5A0167FF_FD800586_1B072D59#96, .fclass oT),
  (0x5A0167FF_FD800586_1B072D5A#96, .fround oT),
  (0x5A0167FF_FD800586_1B072D5B#96, .fcvt oT),
  (0x5A0167FF_FD800586_1B072D5C#96, .fcvtn oT),
  (0x5A0167FF_FD800586_1B072D5D#96, .fpack oT),
  (0x5A0167FF_FD800586_1B072D5E#96, .fscale oT),
  (0x5A0167FF_FD800586_1B072D60#96, .fdiv oT),
  (0x5A0167FF_FD800586_1B072D61#96, .fsqrt oT),
  (0x5A0167FF_FD800586_1B072D62#96, .frcp oT),
  (0x5A0167FF_FD800586_1B072D63#96, .frsq oT),
  (0x5A0167FF_FD800586_1B072D64#96, .fexp2 oT),
  (0x5A0167FF_FD800586_1B072D65#96, .flog2 oT),
  (0x5A0167FF_FD800586_1B072D66#96, .fsin oT),
  (0x5A0167FF_FD800586_1B072D67#96, .fcos oT),
  (0x5A0167FF_FD800586_1B072D68#96, .fdot2 false oT),
  (0x5A0167FF_FD800586_1B072D69#96, .fdot2 true oT)]

theorem test_decode_float2 : (float2Words.all fun w => decodeWord w.1 == w.2) = true := by decide +kernel

/-- Words of the variable-precision instructions (R310). -/
def precisionWords : List (IWord × Instr) := [
  (0x5A0167FF_FD800586_1B072D80#96, .vpadd .w1 oT),
  (0x5A0167FF_FD800586_1B072D81#96, .vpadd .w2 oT),
  (0x5A0167FF_FD800586_1B072D82#96, .vpadd .w3 oT),
  (0x5A0167FF_FD800586_1B072D83#96, .vpadd .w4 oT),
  (0x5A0167FF_FD800586_1B072D84#96, .vpsub .w1 oT),
  (0x5A0167FF_FD800586_1B072D85#96, .vpsub .w2 oT),
  (0x5A0167FF_FD800586_1B072D86#96, .vpsub .w3 oT),
  (0x5A0167FF_FD800586_1B072D87#96, .vpsub .w4 oT),
  (0x5A0167FF_FD800586_1B072D88#96, .vpmul .w1 oT),
  (0x5A0167FF_FD800586_1B072D89#96, .vpmul .w2 oT),
  (0x5A0167FF_FD800586_1B072D8A#96, .vpmul .w3 oT),
  (0x5A0167FF_FD800586_1B072D8B#96, .vpmul .w4 oT),
  (0x5A0167FF_FD800586_1B072D8C#96, .vpfma .w1 oT),
  (0x5A0167FF_FD800586_1B072D8D#96, .vpfma .w2 oT),
  (0x5A0167FF_FD800586_1B072D8E#96, .vpfma .w3 oT),
  (0x5A0167FF_FD800586_1B072D8F#96, .vpfma .w4 oT),
  (0x5A0167FF_FD800586_1B072D90#96, .vpdiv .w1 oT),
  (0x5A0167FF_FD800586_1B072D91#96, .vpdiv .w2 oT),
  (0x5A0167FF_FD800586_1B072D92#96, .vpdiv .w3 oT),
  (0x5A0167FF_FD800586_1B072D93#96, .vpdiv .w4 oT),
  (0x5A0167FF_FD800586_1B072D94#96, .vpsqrt .w1 oT),
  (0x5A0167FF_FD800586_1B072D95#96, .vpsqrt .w2 oT),
  (0x5A0167FF_FD800586_1B072D96#96, .vpsqrt .w3 oT),
  (0x5A0167FF_FD800586_1B072D97#96, .vpsqrt .w4 oT),
  (0x5A0167FF_FD800586_1B072D98#96, .vpcmp .w1 oT),
  (0x5A0167FF_FD800586_1B072D99#96, .vpcmp .w2 oT),
  (0x5A0167FF_FD800586_1B072D9A#96, .vpcmp .w3 oT),
  (0x5A0167FF_FD800586_1B072D9B#96, .vpcmp .w4 oT),
  (0x5A0167FF_FD800586_1B072D9C#96, .vpcvt .w1 oT),
  (0x5A0167FF_FD800586_1B072D9D#96, .vpcvt .w2 oT),
  (0x5A0167FF_FD800586_1B072D9E#96, .vpcvt .w3 oT),
  (0x5A0167FF_FD800586_1B072D9F#96, .vpcvt .w4 oT),
  (0x5A0167FF_FD800586_1B072DA0#96, .vpround .w1 oT),
  (0x5A0167FF_FD800586_1B072DA1#96, .vpround .w2 oT),
  (0x5A0167FF_FD800586_1B072DA2#96, .vpround .w3 oT),
  (0x5A0167FF_FD800586_1B072DA3#96, .vpround .w4 oT),
  (0x5A0167EF_6C800FA0_000E6DA4#96, .vpld .w1 mT),
  (0x5A0167EF_6C800FA0_000E6DA5#96, .vpld .w2 mT),
  (0x5A0167EF_6C800FA0_000E6DA6#96, .vpld .w3 mT),
  (0x5A0167EF_6C800FA0_000E6DA7#96, .vpld .w4 mT),
  (0x5A0167EF_6C800FA0_000E6DA8#96, .vpst .w1 mT),
  (0x5A0167EF_6C800FA0_000E6DA9#96, .vpst .w2 mT),
  (0x5A0167EF_6C800FA0_000E6DAA#96, .vpst .w3 mT),
  (0x5A0167EF_6C800FA0_000E6DAB#96, .vpst .w4 mT),
  (0x5A0167FF_FD800586_1B072DAC#96, .vpexp .w1 oT),
  (0x5A0167FF_FD800586_1B072DAD#96, .vpexp .w2 oT),
  (0x5A0167FF_FD800586_1B072DAE#96, .vpexp .w3 oT),
  (0x5A0167FF_FD800586_1B072DAF#96, .vpexp .w4 oT),
  (0x5A0167FF_FD800586_1B072DB0#96, .vpsetl oT),
  (0x5A0167FF_FD800586_1B072DB1#96, .vpgetl oT)]

theorem test_decode_precision : (precisionWords.all fun w => decodeWord w.1 == w.2) = true := by decide +kernel

/-- Words of the memory and atomic instructions (R311). -/
def memoryWords : List (IWord × Instr) := [
  (0x5A0167EF_6C800FA0_000E6DC0#96, .ld mT),
  (0x5A0167EF_6C800FA0_000E6DC1#96, .st mT),
  (0x5A0167EF_6C800FA0_000E6DC2#96, .ldsp mT),
  (0x5A0167EF_6C800FA0_000E6DC3#96, .stsp mT),
  (0x5A0167EF_6C800FA0_000E6DC4#96, .tld mT),
  (0x5A0167EF_6C800FA0_000E6DC5#96, .tst mT),
  (0x5A0167FF_FD800586_1B072DC8#96, .waitac oT),
  (0x5A0167EF_6C800FA0_000E6DC9#96, .waitmem mT),
  (0x5A0167EF_6C800FA0_000E6DCA#96, .fence mT),
  (0x5A0167FF_FD800586_1B072DCB#96, .phadv oT),
  (0x5A0167FF_FD800586_1B072DCC#96, .phwait oT),
  (0x5A0167FF_FD800586_1B072DCD#96, .cwb oT),
  (0x5A0167FF_FD800586_1B072DCE#96, .cinv oT),
  (0x5A0167FF_FD800586_1B072DCF#96, .cinvd oT),
  (0x5A0167EF_6C800FA0_000E6DD0#96, .cpf mT),
  (0x5A0167EF_6C800FA0_000E6E00#96, .atomAdd .int mT),
  (0x5A0167EF_6C800FA0_000E6E01#96, .atomSub .int mT),
  (0x5A0167EF_6C800FA0_000E6E02#96, .atomMin .int mT),
  (0x5A0167EF_6C800FA0_000E6E03#96, .atomMin .uint mT),
  (0x5A0167EF_6C800FA0_000E6E04#96, .atomMax .int mT),
  (0x5A0167EF_6C800FA0_000E6E05#96, .atomMax .uint mT),
  (0x5A0167EF_6C800FA0_000E6E06#96, .atomAnd mT),
  (0x5A0167EF_6C800FA0_000E6E07#96, .atomOr mT),
  (0x5A0167EF_6C800FA0_000E6E08#96, .atomXor mT),
  (0x5A0167EF_6C800FA0_000E6E09#96, .atomXchg mT),
  (0x5A0167EF_6C800FA0_000E6E0A#96, .atomCas mT),
  (0x5A0167EF_6C800FA0_000E6E0B#96, .atomInc mT),
  (0x5A0167EF_6C800FA0_000E6E0C#96, .atomDec mT),
  (0x5A0167EF_6C800FA0_000E6E10#96, .atomAdd .f32 mT),
  (0x5A0167EF_6C800FA0_000E6E11#96, .atomMin .f32 mT),
  (0x5A0167EF_6C800FA0_000E6E12#96, .atomMax .f32 mT),
  (0x5A0167EF_6C800FA0_000E6E13#96, .atomSub .f32 mT),
  (0x5A0167EF_6C800FA0_000E6E14#96, .atomAdd .bf16x2 mT),
  (0x5A0167EF_6C800FA0_000E6E15#96, .atomSub .bf16x2 mT),
  (0x5A0167EF_6C800FA0_000E6E16#96, .atomMin .bf16x2 mT),
  (0x5A0167EF_6C800FA0_000E6E17#96, .atomMax .bf16x2 mT),
  (0x5A0167EF_6C800FA0_000E6E18#96, .atomAdd .f16x2 mT),
  (0x5A0167EF_6C800FA0_000E6E19#96, .atomSub .f16x2 mT),
  (0x5A0167EF_6C800FA0_000E6E1A#96, .atomMin .f16x2 mT),
  (0x5A0167EF_6C800FA0_000E6E1B#96, .atomMax .f16x2 mT),
  (0x5A0167FF_FD800586_1B072E3E#96, .shflush oT)]

theorem test_decode_memory : (memoryWords.all fun w => decodeWord w.1 == w.2) = true := by decide +kernel

/-- Words of the barrier, copy, tag and network instructions (R312). -/
def barrierWords : List (IWord × Instr) := [
  (0x5A0167FF_FD800586_1B072E40#96, .barw oT),
  (0x5A0167FF_FD800586_1B072E41#96, .barr oT),
  (0x5A0167FF_FD800586_1B072E42#96, .barwt oT),
  (0x5A0167FF_FD800586_1B072E43#96, .barinit oT),
  (0x5A0167FF_FD800586_1B072E44#96, .barinval oT),
  (0x5A0167EF_6C800FA0_000E6E48#96, .bosig mT),
  (0x5A0167EF_6C800FA0_000E6E49#96, .bowait mT),
  (0x5A0167FF_FD800586_1B072E50#96, .cpy oT),
  (0x5A0167FF_FD800586_1B072E58#96, .tagwany oT),
  (0x5A0167FF_FD800586_1B072E59#96, .tagwall oT),
  (0x5A0167FF_FD800586_1B072E5A#96, .tagfirst oT),
  (0x5A0167FF_FD800586_1B072E5B#96, .tagclr oT),
  (0x5A0167FF_FD800586_1B072E60#96, .arm oT),
  (0x5A0167FF_FD800586_1B072E61#96, .rcnt oT),
  (0x5A0167FF_FD800586_1B072E62#96, .rcntadd oT),
  (0x5A0167FF_FD800586_1B072E68#96, .bget oT),
  (0x5A0167FF_FD800586_1B072E69#96, .bgive oT),
  (0x5A0167FF_FD800586_1B072E6A#96, .bfree oT)]

theorem test_decode_barrier : (barrierWords.all fun w => decodeWord w.1 == w.2) = true := by decide +kernel

/-- Words of the matrix instructions (R313). -/
def matrixWords : List (IWord × Instr) := [
  (0x5A0167FF_FD800586_1B072E80#96, .mma .e2m1 oT),
  (0x5A0167FF_FD800586_1B072E81#96, .mma .e4m3 oT),
  (0x5A0167FF_FD800586_1B072E82#96, .mma .e5m2 oT),
  (0x5A0167FF_FD800586_1B072E83#96, .mma .i8 oT),
  (0x5A0167FF_FD800586_1B072E84#96, .mma .bf16 oT),
  (0x5A0167FF_FD800586_1B072E85#96, .mma .f16 oT),
  (0x5A0167FF_FD800586_1B072E88#96, .mmaSp .e2m1 oT),
  (0x5A0167FF_FD800586_1B072E89#96, .mmaSp .e4m3 oT),
  (0x5A0167FF_FD800586_1B072E8A#96, .mmaSp .e5m2 oT),
  (0x5A0167FF_FD800586_1B072E8B#96, .mmaSp .i8 oT),
  (0x5A0167FF_FD800586_1B072E8C#96, .mmaSp .bf16 oT),
  (0x5A0167FF_FD800586_1B072E8D#96, .mmaSp .f16 oT),
  (0x5A0167EF_6C800FA0_000E6E90#96, .mldb mT),
  (0x5A0167FF_FD800586_1B072E91#96, .mrdy oT),
  (0x5A0167FF_FD800586_1B072E92#96, .mfence oT),
  (0x5A0167FF_FD800586_1B072E93#96, .mwait oT),
  (0x5A0167FF_FD800586_1B072E94#96, .mwaitT oT),
  (0x5A0167FF_FD800586_1B072E95#96, .mclr oT),
  (0x5A0167FF_FD800586_1B072E96#96, .mbscale oT)]

theorem test_decode_matrix : (matrixWords.all fun w => decodeWord w.1 == w.2) = true := by decide +kernel

/-- Words of the graph, task and system instructions (R314, R315). -/
def graphWords : List (IWord × Instr) := [
  (0x5A0167FF_FD800586_1B072EC0#96, .remit oT),
  (0x5A0167FF_FD800586_1B072EC1#96, .tenq oT),
  (0x5A0167FF_FD800586_1B072EC2#96, .tdeq oT),
  (0x5A0167EF_6C800FA0_000E6EC3#96, .depinit mT),
  (0x5A0167EF_6C800FA0_000E6EC4#96, .depdec mT),
  (0x5A0167EF_6C800FA0_000E6EC5#96, .chunk mT),
  (0x5A0167FF_FD800586_1B072EC6#96, .lvlid oT),
  (0x5A0167FF_FD800586_1B072EC7#96, .lvlcancel oT),
  (0x5A0167FF_FD800586_1B072EC8#96, .gexit oT),
  (0x5A0167FF_FD800586_1B072F00#96, .trap oT),
  (0x5A0167FF_FD800586_1B072F01#96, .tret oT),
  (0x5A0167FF_FD800586_1B072F02#96, .sreg oT),
  (0x5A0167FF_FD800586_1B072F03#96, .swreg oT),
  (0x5A0167FF_FD800586_1B072F04#96, .shrink oT),
  (0x5A0167FF_FD800586_1B072F05#96, .grow oT),
  (0x5A0167FF_FD800586_1B072F06#96, .bkpt oT),
  (0x5A0167FF_FD800586_1B072F07#96, .halt oT),
  (0x5A0167FF_FD800586_1B072F08#96, .faultrd oT),
  (0x5A0167FF_FD800586_1B072F09#96, .pcfgrd oT)]

theorem test_decode_graph : (graphWords.all fun w => decodeWord w.1 == w.2) = true := by decide +kernel

/-! ## A small state: one die, one core, one workgroup of one troupe, whose turn it is -/

def wgT : Workgroup where
  id := 1
  part := 0
  ctx := 0
  lvl := 0
  node := none
  x := 0
  y := 0
  z := 0
  w := 0
  die := 0
  core := 0
  status := .running
  startSeq := 1
  troupes := 1
  allot := 200
  peak := 1000
  bufs := 8
  ntags := 8
  nbars := 8
  energy := 0
  args := 0
  inl := 0
  bars := List.replicate 8 ⟨0, []⟩
  tags := List.replicate 8 ⟨true, 0, 0, 0⟩
  binds := []
  failed := false
  cancelled := false
  used := 0
  recs := []
  halt := false
  resume := none

/-- The name n is mapped, with lane l holding `f l`. -/
def regT (n : Nat) (f : Nat → Word) : VReg := ⟨n, n, n, lanesOf f, false⟩

/-- The context, the tables and one page of memory at address 0 of the model's own placed program. -/
def baseT : State := { State.reset with
  boot := { Boot.reset with up := true }, routers := (List.range 64).map fun k => { Router.reset k with inReset := false }
  partitions := [newPartition (List.range 32)], ctxs := [placedCtx], mem := placedMem [] [], wgs := [wgT]
  pipes := [{ Pipe.reset with ring := [(1, 0)] }], tlbs := [⟨0, 0, 0, placedLeaf, 1⟩], cur := (1, 0), fresh := 1000 }

/-- The state whose only troupe is t. -/
def box (t : Troupe) : State := { baseT with troupes := [t] }

/-- A troupe with v0 to v99 mapped, lane l of each holding l, s(n) holding 64·n below s10. -/
def heroT : Troupe := { newTroupe 1 0 0 0 200 0 0 with
  regs := (List.range 100).map fun n => regT n (BitVec.ofNat 32)
  sregs := (List.range 10).map (fun n => BitVec.ofNat 32 (64 * n)) ++ List.replicate 51 0 ++ List.replicate 3 0xFFFFFFFF#32 }

/-- What `issuesWith` asks, as a test on one state. -/
def issuesB (s : State) (t : Troupe) (c : Ctl) (o : Opnds) (mod : Bool) : Bool :=
  s.ready t c && s.check (s.atIssue t) o mod == none
    && (s.start (s.atIssue t) c 0 (o.rel (s.atIssue t)) (o.fresh (s.atIssue t))).isSome

theorem start_isSome (s : State) (t : Troupe) (c c' : Ctl) (b b' : Nat) (rel fresh : List Nat) :
    (s.start t c b rel fresh).isSome = (s.start t c' b' rel fresh).isSome := by
  unfold State.start
  split
  split <;> simp_all

theorem issues {s : State} {t : Troupe} {c : Ctl} {o : Opnds} {mod : Bool} (h : s.cur? = some t) (hb : issuesB s t c o mod = true) :
    s.issuesWith t c o mod := by
  simp only [issuesB, Bool.and_eq_true, beq_iff_eq] at hb
  exact ⟨⟨h, hb.1.1⟩, hb.1.2, fun c' b => (start_isSome _ _ _ c _ 0 _ _).trans hb.2⟩

def isOk {σ φ ρ : Type} (o : Host.Outcome σ φ ρ) (p : σ → Bool) : Bool := match o with | .next s => p s | _ => false

/-- What a test reads of the outcome of one instruction on `box t`: a property of the troupe after it. -/
def after (i : Instr) (t : Troupe) (p : Troupe → Bool) : Bool :=
  isOk (exec i (box t)) fun s => match s.troupe? 1 0 with | some u => p u | none => false

/-! ## Single steps: one instruction on `box heroT`, its result worked out by hand from the rule named -/

def sO (n : BitVec 8) : Operand := .scal n
def vO (n : BitVec 8) : Operand := .vec n false 0 0
def iO (v : BitVec 18) : Operand := .imm v
def pO (n : BitVec 8) : Operand := .special n
def fO (d a b : Operand) : OForm := ⟨plainT, d, a, b⟩
/-- The effective lanes of an instruction under !p7 are none (R290). -/
def fNone (d a b : Operand) : OForm := ⟨⟨7, true, 0, 0, 15, false⟩, d, a, b⟩

/-- Scalar register n, lane l of name n, bit l of predicate n, after the instruction. -/
def sIs (n : Nat) (v : Word) (u : Troupe) : Bool := u.sregs.getD n 0 == v
def vIs (n l : Nat) (v : Word) (u : Troupe) : Bool := lane (u.vval n) l == v
def pIs (n l : Nat) (v : Bool) (u : Troupe) : Bool := (u.pred n).getLsbD l == v

/-- heroT with scalar registers, or names of one value in every lane, set. -/
def withS (ws : List (Nat × Word)) : Troupe := { heroT with sregs := ws.foldl (fun r w => r.set w.1 w.2) heroT.sregs }
def withV (ws : List (Nat × Word)) : Troupe :=
  { heroT with regs := heroT.regs.map fun r => match ws.find? (fun w => w.1 == r.name) with | some w => regT r.name fun _ => w.2 | none => r }

/-- The action of the instruction under way that the instruction left, if it left one. -/
def underway (p : PendAct → Bool) (u : Troupe) : Bool := match u.pend with | [x] => p x.act | _ => false

/-! ### Scalar and control (R337 to R347) -/

theorem test_sadd_wraps : after (.sadd (fO (sO 1) (iO (-1)) (iO 3))) heroT (sIs 1 2) = true := by decide
theorem test_sadd_exit : after (.sadd (fNone (sO 1) (iO (-1)) (iO 3))) heroT (sIs 1 64) = true := by decide
theorem test_ssub : after (.ssub (fO (sO 1) (iO 0) (iO 1))) heroT (sIs 1 0xFFFFFFFF) = true := by decide
theorem test_smul : after (.smul (fO (sO 1) (sO 2) (iO (-3)))) heroT (sIs 1 0xFFFFFE80) = true := by decide
theorem test_smulh_signed : after (.smulh false (fO (sO 1) (iO (-1)) (iO (-1)))) heroT (sIs 1 0) = true := by decide
theorem test_smulh_unsigned : after (.smulh true (fO (sO 1) (iO (-1)) (iO (-1)))) heroT (sIs 1 0xFFFFFFFE) = true := by decide
theorem test_sdiv_truncates : after (.sdiv false (fO (sO 1) (iO (-7)) (iO 2))) heroT (underway (· == .sregs [(1, 0xFFFFFFFD)])) = true := by decide
theorem test_sdiv_zero : after (.sdiv true (fO (sO 1) (iO 7) (iO 0))) heroT (underway (· == .sregs [(1, 0xFFFFFFFF)])) = true := by decide
theorem test_srem_sign : after (.srem false (fO (sO 1) (iO (-7)) (iO 2))) heroT (underway (· == .sregs [(1, 0xFFFFFFFF)])) = true := by decide
theorem test_srem_overflow : after (.srem false (fO (sO 1) (sO 20) (iO (-1)))) (withS [(20, 0x80000000)]) (underway (· == .sregs [(1, 0)])) = true := by
  decide
theorem test_sand : after (.sand (fO (sO 1) (sO 20) (iO 0xFF0))) (withS [(20, 0x12345678)]) (sIs 1 0x670) = true := by decide
theorem test_sor : after (.sor (fO (sO 1) (sO 20) (iO 0x7))) (withS [(20, 0x12345678)]) (sIs 1 0x1234567F) = true := by decide
theorem test_sxor : after (.sxor (fO (sO 1) (sO 20) (iO (-1)))) (withS [(20, 0x12345678)]) (sIs 1 0xEDCBA987) = true := by decide
theorem test_sshl_width : after (.sshl (fO (sO 1) (iO (-1)) (iO 32))) heroT (sIs 1 0) = true := by decide
theorem test_sshr : after (.sshr (fO (sO 1) (iO (-1)) (iO 31))) heroT (sIs 1 1) = true := by decide
theorem test_ssra_far : after (.ssra (fO (sO 1) (iO (-2)) (iO 40))) heroT (sIs 1 0xFFFFFFFF) = true := by decide
theorem test_smin : after (.smin false (fO (sO 1) (iO (-1)) (iO 1))) heroT (sIs 1 0xFFFFFFFF) = true := by decide
theorem test_smin_unsigned : after (.smin true (fO (sO 1) (iO (-1)) (iO 1))) heroT (sIs 1 1) = true := by decide
theorem test_smax : after (.smax false (fO (sO 1) (iO (-1)) (iO 1))) heroT (sIs 1 1) = true := by decide
theorem test_smax_unsigned : after (.smax true (fO (sO 1) (iO (-1)) (iO 1))) heroT (sIs 1 0xFFFFFFFF) = true := by decide
/-- Modifier 0x75: `.ge`, unsigned, the immediate 1 (R340); s10 holds 0. -/
theorem test_scmp : after (.scmp (fO (sO 14) (sO 10) (iO 0x75))) heroT (sIs 14 0) = true := by decide
theorem test_scmp_predicate : after (.scmp (fO (pO 3) (sO 1) (iO 0x75))) heroT (pIs 3 95 true) = true := by decide
theorem test_ssel : after (.ssel (fO (sO 0) (iO 5) (iO 6))) heroT (sIs 0 6) = true := by decide
theorem test_smov_v61 : after (.smov (fO (sO 61) (iO 5) (iO 0))) heroT (fun u => sIs 61 5 u && u.am == 0xFFFFFFFFFFFFFFFF00000005) = true := by decide
theorem test_smovh : after (.smovh (fO (sO 1) (iO (-2)) (iO 0))) heroT (sIs 1 0xFFFE0040) = true := by decide
theorem test_br : after (.br ⟨plainT, iO 0, -5⟩) heroT (fun u => u.pc == 0xFFFFFFFFFFFFFFC4) = true := by decide
theorem test_brz_taken : after (.brz ⟨plainT, sO 0, 3⟩) heroT (fun u => u.pc == 36) = true := by decide
theorem test_brnz_not : after (.brnz ⟨plainT, sO 0, 3⟩) heroT (fun u => u.pc == 12) = true := by decide
theorem test_bany_none : after (.bany ⟨plainT, pO 2, 3⟩) heroT (fun u => u.pc == 12) = true := by decide
theorem test_ball_seven : after (.ball ⟨plainT, pO 7, 3⟩) heroT (fun u => u.pc == 36) = true := by decide
theorem test_bnone : after (.bnone ⟨plainT, pO 2, 3⟩) heroT (fun u => u.pc == 36) = true := by decide
theorem test_call_link : after (.call ⟨plainT, iO 0, 4⟩) heroT (fun u => u.pc == 48 && sIs 58 12 u && sIs 59 0 u) = true := by decide
theorem test_ret : after (.ret (fO (iO 0) (iO 0) (iO 0))) (withS [(58, 0x1237), (59, 0x9)]) (fun u => u.pc == 0x900001234) = true := by decide
theorem test_jmp : after (.jmp (fO (iO 0) (sO 2) (iO 0))) heroT (fun u => u.pc == 0xC000000080) = true := by decide
theorem test_exit : after (.exit (fO (iO 0) (iO 0) (iO 0))) heroT (fun u => u.exited && u.regs == []) = true := by decide
theorem test_yield : after (.yield (fO (iO 0) (iO 0) (iO 0))) heroT (fun u => u.atYield && u.pc == 12) = true := by decide
theorem test_nop_kind : after (.nop (fO (iO 1) (iO 0) (iO 0))) heroT (fun u => u.pc == 0 && u.exited) = true := by decide
theorem test_pand : after (.pand (fO (pO 1) (pO 7) (pO 7))) heroT (pIs 1 40 true) = true := by decide
theorem test_por : after (.por (fO (pO 1) (pO 2) (pO 7))) heroT (pIs 1 40 true) = true := by decide
theorem test_pxor : after (.pxor (fO (pO 1) (pO 7) (pO 7))) heroT (pIs 1 40 false) = true := by decide
theorem test_pnot : after (.pnot (fO (pO 1) (pO 2) (iO 0))) heroT (pIs 1 95 true) = true := by decide
theorem test_pmov_seven : after (.pmov (fO (pO 7) (pO 2) (iO 0))) heroT (pIs 7 0 true) = true := by decide
theorem test_pcnt : after (.pcnt (fO (sO 1) (pO 7) (iO 0))) heroT (sIs 1 96) = true := by decide
theorem test_pfirst : after (.pfirst (fO (pO 1) (pO 7) (iO 0))) heroT (fun u => u.pred 1 == 1) = true := by decide
theorem test_pfroms : after (.pfroms (fO (pO 2) (sO 7) (iO 0))) heroT (fun u => u.pred 2 == 0x00000240_00000200_000001C0) = true := by decide
theorem test_ptos : after (.ptos (fO (sO 3) (pO 7) (iO 0))) heroT (fun u => sIs 3 0xFFFFFFFF u && sIs 5 0xFFFFFFFF u && sIs 6 384 u) = true := by decide

/-! ### Vector integer and bit instructions (R350 to R360) -/

theorem test_vadd_rotate : after (.vadd (fO (vO 3) (.vec 2 false 1 1) (iO 3))) heroT (fun u => vIs 3 95 3 u && vIs 3 5 9 u) = true := by decide
theorem test_vadd_lanes : after (.vadd (fNone (vO 3) (vO 2) (iO 3))) heroT (vIs 3 5 5) = true := by decide
theorem test_vsub : after (.vsub (fO (vO 3) (vO 2) (iO 3))) heroT (fun u => vIs 3 0 0xFFFFFFFD u && vIs 3 3 0 u) = true := by decide
theorem test_vadds : after (.vadds false (fO (vO 3) (vO 2) (sO 20))) (withS [(20, 0x7FFFFFFE)]) (fun u => vIs 3 1 0x7FFFFFFF u && vIs 3 9 0x7FFFFFFF u) = true := by
  decide
theorem test_vadds_unsigned : after (.vadds true (fO (vO 3) (vO 2) (iO (-2)))) heroT (fun u => vIs 3 1 0xFFFFFFFF u && vIs 3 9 0xFFFFFFFF u) = true := by
  decide
theorem test_vsubs : after (.vsubs true (fO (vO 3) (vO 2) (iO 4))) heroT (fun u => vIs 3 2 0 u && vIs 3 9 5 u) = true := by decide
theorem test_vsubs_signed : after (.vsubs false (fO (vO 3) (sO 20) (vO 2))) (withS [(20, 0x80000001)]) (fun u => vIs 3 2 0x80000000 u && vIs 3 0 0x80000001 u) = true := by
  decide
theorem test_vaddc : after (.vaddc (fO (vO 6) (iO (-1)) (iO (-1)))) heroT (fun u => vIs 6 1 0xFFFFFFFF u && vIs 7 1 1 u && vIs 6 2 0 u && vIs 7 2 2 u) = true := by
  decide
theorem test_vmul : after (.vmul (fO (vO 3) (vO 2) (vO 2))) heroT (vIs 3 95 9025) = true := by decide
theorem test_vmulh : after (.vmulh false (fO (vO 3) (vO 2) (iO (-1)))) heroT (fun u => vIs 3 0 0 u && vIs 3 95 0xFFFFFFFF u) = true := by decide
theorem test_vmulh_unsigned : after (.vmulh true (fO (vO 3) (vO 2) (iO (-1)))) heroT (vIs 3 95 94) = true := by decide
theorem test_vmad : after (.vmad (fO (vO 3) (vO 2) (iO 10))) heroT (vIs 3 7 77) = true := by decide
theorem test_vdiv : after (.vdiv true (fO (vO 3) (vO 2) (iO 4))) heroT (underway fun a => match a with
    | .vregs [(3, _)] _ [v] => lane v 95 == 23 | _ => false) = true := by decide
theorem test_vrem_zero : after (.vrem true (fO (vO 3) (vO 2) (iO 0))) heroT (underway fun a => match a with
    | .vregs [(3, _)] _ [v] => lane v 95 == 95 | _ => false) = true := by decide
theorem test_vand : after (.vand (fO (vO 3) (vO 2) (iO 6))) heroT (vIs 3 11 2) = true := by decide
theorem test_vor : after (.vor (fO (vO 3) (vO 2) (iO 6))) heroT (vIs 3 9 15) = true := by decide
theorem test_vxor : after (.vxor (fO (vO 3) (vO 2) (iO 6))) heroT (vIs 3 11 13) = true := by decide
theorem test_vnot : after (.vnot (fO (vO 3) (vO 2) (iO 0))) heroT (vIs 3 1 0xFFFFFFFE) = true := by decide
theorem test_vshl : after (.vshl (fO (vO 3) (iO 1) (vO 2))) heroT (fun u => vIs 3 31 0x80000000 u && vIs 3 32 0 u) = true := by decide
theorem test_vshr : after (.vshr (fO (vO 3) (iO (-1)) (vO 2))) heroT (fun u => vIs 3 31 1 u && vIs 3 95 0 u) = true := by decide
theorem test_vsra : after (.vsra (fO (vO 3) (iO (-4)) (vO 2))) heroT (fun u => vIs 3 1 0xFFFFFFFE u && vIs 3 95 0xFFFFFFFF u) = true := by decide
theorem test_vmin : after (.vmin false (fO (vO 3) (vO 2) (iO (-1)))) heroT (vIs 3 1 0xFFFFFFFF) = true := by decide
theorem test_vmin_unsigned : after (.vmin true (fO (vO 3) (vO 2) (iO (-1)))) heroT (vIs 3 1 1) = true := by decide
theorem test_vmax : after (.vmax false (fO (vO 3) (vO 2) (iO (-1)))) heroT (vIs 3 1 1) = true := by decide
theorem test_vmax_unsigned : after (.vmax true (fO (vO 3) (vO 2) (iO (-1)))) heroT (vIs 3 1 0xFFFFFFFF) = true := by decide
theorem test_vabs_lowest : after (.vabs (fO (vO 3) (sO 20) (iO 0))) (withS [(20, 0x80000000)]) (vIs 3 1 0x80000000) = true := by decide
theorem test_vneg : after (.vneg (fO (vO 3) (vO 2) (iO 0))) heroT (vIs 3 1 0xFFFFFFFF) = true := by decide
/-- Modifier 0x172: `.lt`, unsigned, the immediate 5 (R340, R353). -/
theorem test_vcmp : after (.vcmp (fO (pO 1) (vO 2) (iO 0x172))) heroT (fun u => pIs 1 4 true u && pIs 1 5 false u) = true := by decide +kernel
theorem test_vcmp_vector : after (.vcmp (fO (vO 3) (vO 2) (iO 0x172))) heroT (fun u => vIs 3 4 0xFFFFFFFF u && vIs 3 5 0 u) = true := by decide
theorem test_vsel : after (.vsel (fO (vO 3) (iO 7) (iO 8))) heroT (fun u => vIs 3 0 8 u && vIs 3 1 7 u) = true := by decide
theorem test_vmov_fixed : after (.vmov (fO (vO 3) (.vec 2 false 4 1) (iO 0))) heroT (fun u => vIs 3 0 65 u && vIs 3 95 65 u) = true := by decide
theorem test_vmovh : after (.vmovh (fO (vO 3) (iO 0x1234) (iO 0))) heroT (vIs 3 9 0x12340009) = true := by decide
theorem test_vlane : after (.vlane (fO (vO 3) (iO 32) (iO 0))) heroT (vIs 3 95 127) = true := by decide
/-- Modifier 0x10: the exclusive sum (R354, R355). -/
theorem test_vscan : after (.vscan (fO (vO 3) (vO 2) (iO 0x10))) heroT (fun u => vIs 3 0 0 u && vIs 3 4 6 u) = true := by decide
theorem test_vred_sum : after (.vred (fO (sO 1) (vO 2) (iO 0))) heroT (sIs 1 4560) = true := by decide +kernel
theorem test_vmatch : after (.vmatch (fO (vO 3) (.vec 2 false 6 1) (iO 0))) heroT (vIs 3 9 0x00010009) = true := by decide
theorem test_mirror_zero_traps : after (.vmatch (fO (vO 3) (.vec 2 false 6 0) (iO 0))) heroT (fun u => u.pc == 0 && u.exited) = true := by decide
theorem test_vbfe : after (.vbfe false (fO (vO 3) (vO 2) (iO 0x0301))) heroT (fun u => vIs 3 6 3 u && vIs 3 8 0xFFFFFFFC u) = true := by decide
theorem test_vbfe_unsigned : after (.vbfe true (fO (vO 3) (vO 2) (iO 0x0301))) heroT (vIs 3 8 4) = true := by decide
theorem test_vbfi : after (.vbfi (fO (vO 3) (iO (-1)) (iO 0x0404))) heroT (vIs 3 9 0xF9) = true := by decide
theorem test_vpop : after (.vpop (fO (vO 3) (vO 2) (iO 0))) heroT (vIs 3 95 6) = true := by decide
theorem test_vclz : after (.vclz (fO (vO 3) (vO 2) (iO 0))) heroT (fun u => vIs 3 0 32 u && vIs 3 95 25 u) = true := by decide
theorem test_vctz : after (.vctz (fO (vO 3) (vO 2) (iO 0))) heroT (fun u => vIs 3 0 32 u && vIs 3 88 3 u) = true := by decide
theorem test_vbrev : after (.vbrev (fO (vO 3) (vO 2) (iO 0))) heroT (vIs 3 5 0xA0000000) = true := by decide +kernel
/-- Modifier 4: the pair v2:v3 shifted right by 4 (R359); lane 3 holds 3 in both. -/
theorem test_vfunnel : after (.vfunnel (fO (vO 8) (vO 2) (iO 4))) heroT (vIs 8 3 0x30000000) = true := by decide
/-- The bytes of the worked word `vbperm`: selectors 3, 2, 1, 0 reverse the low register (R360). -/
theorem test_vbperm : after (.vbperm (fO (vO 9) (vO 2) (iO 0x048C))) heroT (vIs 9 5 0x05000000) = true := by decide

/-! ### Floating point (R362 to R373): 1.0 is 0x3F800000, 2.0 0x40000000, 3.0 0x40400000, 0.5 0x3F000000 -/

def floatsT : Troupe := withS [(20, 0x3F800000), (21, 0x40000000), (22, 0x40400000), (23, 0x3C003C00), (24, 0x3F803F80)]

theorem test_fadd : after (.fadd .f32 (fO (vO 3) (sO 20) (sO 21))) floatsT (vIs 3 9 0x40400000) = true := by decide +kernel
theorem test_fadd_packed : after (.fadd .f16x2 (fO (vO 3) (sO 23) (sO 23))) floatsT (vIs 3 9 0x40004000) = true := by decide +kernel
theorem test_fsub : after (.fsub .f32 (fO (vO 3) (sO 20) (sO 21))) floatsT (vIs 3 9 0xBF800000) = true := by decide +kernel
theorem test_fsub_zero : after (.fsub .bf16x2 (fO (vO 3) (sO 24) (sO 24))) floatsT (vIs 3 9 0) = true := by decide +kernel
theorem test_fmul : after (.fmul .f32 (fO (vO 3) (sO 21) (sO 22))) floatsT (vIs 3 9 0x40C00000) = true := by decide +kernel
/-- D holds 0: 2 × 3 + 0. -/
theorem test_ffma : after (.ffma .f32 (fO (vO 3) (sO 21) (sO 22))) (withS [(21, 0x40000000), (22, 0x40400000)]) (vIs 3 0 0x40C00000) = true := by
  decide +kernel
theorem test_ffms : after (.ffms .f32 (fO (vO 3) (sO 21) (sO 22))) { withV [(3, 0x3F800000)] with sregs := floatsT.sregs } (vIs 3 0 0x40A00000) = true := by
  decide +kernel
theorem test_fnma : after (.fnma .f32 (fO (vO 3) (sO 21) (sO 22))) { withV [(3, 0x3F800000)] with sregs := floatsT.sregs } (vIs 3 0 0xC0A00000) = true := by
  decide +kernel
theorem test_fnms : after (.fnms .f32 (fO (vO 3) (sO 21) (sO 22))) { withV [(3, 0x3F800000)] with sregs := floatsT.sregs } (vIs 3 0 0xC0E00000) = true := by
  decide +kernel
theorem test_fmin_zero : after (.fmin .f32 (fO (vO 3) (sO 30) (sO 31))) (withS [(30, 0), (31, 0x80000000)]) (vIs 3 0 0x80000000) = true := by decide +kernel
theorem test_fmax_nan : after (.fmax .f32 (fO (vO 3) (sO 30) (sO 31))) (withS [(30, 0x3F800000), (31, 0x7FC00001)]) (vIs 3 0 0x3F800000) = true := by
  decide +kernel
theorem test_fabs : after (.fabs .f16 (fO (vO 3) (sO 30) (iO 0))) (withS [(30, 0xBC00)]) (vIs 3 0 0x3C00) = true := by decide +kernel
theorem test_fneg : after (.fneg .f32 (fO (vO 3) (sO 20) (iO 0))) floatsT (vIs 3 0 0xBF800000) = true := by decide +kernel
/-- Modifier 2: `.lt` on FP32, the pair v10:v11. -/
theorem test_fcmp : after (.fcmp (fO (pO 1) (vO 10) (iO 2))) (withV [(10, 0x3F800000), (11, 0x40000000)]) (pIs 1 7 true) = true := by decide +kernel
theorem test_fclass : after (.fclass (fO (vO 3) (vO 10) (iO 0))) (withV [(10, 0x3F800000)]) (vIs 3 0 0x40) = true := by decide +kernel
theorem test_fround_even : after (.fround (fO (vO 3) (sO 30) (iO 0))) (withS [(30, 0x40200000)]) (vIs 3 0 0x40000000) = true := by decide +kernel
/-- FP32 to `.i32`, toward zero: DTYPE 0xD, RM 1; -2.5 gives -2. -/
theorem test_fcvt : after (.fcvt (fO (vO 3) (sO 30) (iO 0x69))) (withS [(30, 0xC0200000)]) (vIs 3 0 0xFFFFFFFE) = true := by decide +kernel
/-- XS 3: times 2^3. -/
theorem test_fscale : after (.fscale (fO (vO 3) (sO 20) (iO 0x1800))) floatsT (vIs 3 0 0x41000000) = true := by decide +kernel
theorem test_fdiv : after (.fdiv (fO (vO 3) (sO 20) (sO 21))) floatsT (underway fun a => match a with
    | .vregs [(3, _)] _ [v] => lane v 0 == 0x3F000000 | _ => false) = true := by decide +kernel
theorem test_fsqrt : after (.fsqrt (fO (vO 3) (sO 30) (iO 0))) (withS [(30, 0x41100000)]) (underway fun a => match a with
    | .vregs [(3, _)] _ [v] => lane v 0 == 0x40400000 | _ => false) = true := by decide +kernel
theorem test_frcp : after (.frcp (fO (vO 3) (sO 21) (iO 0))) floatsT (vIs 3 0 0x3F000000) = true := by decide +kernel
theorem test_frsq : after (.frsq (fO (vO 3) (sO 30) (iO 0))) (withS [(30, 0x40800000)]) (vIs 3 0 0x3F000000) = true := by decide +kernel
theorem test_fexp2 : after (.fexp2 (fO (vO 3) (sO 22) (iO 0))) floatsT (vIs 3 0 0x41000000) = true := by decide +kernel
theorem test_flog2 : after (.flog2 (fO (vO 3) (sO 30) (iO 0))) (withS [(30, 0x41000000)]) (vIs 3 0 0x40400000) = true := by decide +kernel
theorem test_fsin_zero : after (.fsin (fO (vO 3) (sO 30) (iO 0))) (withS [(30, 0x80000000)]) (vIs 3 0 0x80000000) = true := by decide +kernel
theorem test_fcos_zero : after (.fcos (fO (vO 3) (sO 10) (iO 0))) heroT (vIs 3 0 0x3F800000) = true := by decide +kernel
/-- 0 + 1 × 1 + 1 × 1. -/
theorem test_fdot2 : after (.fdot2 false (fO (vO 3) (sO 23) (sO 23))) floatsT (vIs 3 0 0x40000000) = true := by decide +kernel

/-! ### Variable precision (R273, R375 to R380): a window of one register holds 1.0 as 0x3FFF0000 -/

def vpT : Troupe := withV [(10, 0x3FFF0000), (11, 0x40000000), (12, 0x3FFF0000), (13, 0)]

theorem test_vpadd : after (.vpadd .w1 (fO (vO 3) (vO 10) (vO 10))) vpT (vIs 3 9 0x40000000) = true := by decide +kernel
theorem test_vpsub : after (.vpsub .w1 (fO (vO 3) (vO 10) (vO 11))) vpT (vIs 3 9 0xBFFF0000) = true := by decide +kernel
theorem test_vpmul : after (.vpmul .w1 (fO (vO 3) (vO 11) (vO 11))) vpT (vIs 3 9 0x40010000) = true := by decide +kernel
theorem test_vpfma : after (.vpfma .w1 (fO (vO 12) (vO 11) (vO 11))) vpT (vIs 12 9 0x40014000) = true := by decide +kernel
theorem test_vpdiv : after (.vpdiv .w1 (fO (vO 3) (vO 10) (vO 11))) vpT (underway fun a => match a with
    | .vregs [(3, _)] _ [v] => lane v 0 == 0x3FFE0000 | _ => false) = true := by decide +kernel
theorem test_vpcmp : after (.vpcmp .w1 (fO (vO 3) (vO 10) (vO 11))) vpT (vIs 3 9 0xFFFFFFFF) = true := by decide +kernel
theorem test_vpexp : after (.vpexp .w1 (fO (vO 3) (vO 10) (iO (-1)))) vpT (vIs 3 9 0x3FFE0000) = true := by decide +kernel
/-- FP32 to a window: STYPE 0, DTYPE 0xF. -/
theorem test_vpcvt : after (.vpcvt .w1 (fO (vO 3) (sO 21) (iO 0x78))) floatsT (vIs 3 9 0x40000000) = true := by decide +kernel
theorem test_vpsetl_clamps : after (.vpsetl (fO (iO 0) (iO 3) (iO 1))) heroT (fun u => u.pcfg.getD 95 0 == 7) = true := by decide +kernel
theorem test_vpgetl : after (.vpgetl (fO (vO 3) (iO 0) (iO 0))) { heroT with pcfg := List.replicate 96 0x4085#15 } (vIs 3 9 0x4085) = true := by decide +kernel
/-- A window of one register holds 16 fraction bits: L = 17 traps with PRECWIN (R275), which no handler takes. -/
theorem test_precwin : after (.vpadd .w1 (fO (vO 3) (vO 10) (vO 10))) { vpT with pcfg := List.replicate 96 17#15 } (fun u => u.exited) = true := by decide +kernel

/-! ### Memory: the requests that leave (R341, R381 to R391, R398 to R400), the scratchpad, waits -/

/-- The requests that an instruction hands over on `box t`. -/
def sent (i : Instr) (t : Troupe) (p : List MemReq → Bool) : Bool := isOk (exec i (box t)) fun s => p s.reqs
/-- heroT with two active lanes, 0 and 5. -/
def twoLanes (ws : List (Nat × Word)) : Troupe := withS ([(61, 0x21), (62, 0), (63, 0)] ++ ws)
def fM (d a : Operand) (at_ : Attr) : MForm := ⟨plainT, d, a, at_⟩

/-- The pair s2:s3 is 0xC0_0000_0080; OFS 2 of eight bytes adds 16. -/
theorem test_ld : sent (.ld (fM (vO 4) (sO 2) ⟨2, 0, 3, 5, 4, 0⟩)) (twoLanes [])
    (fun rs => rs.length == 2 && rs.all fun r => r.va == 0xC000000090 && r.bytes == 8 && r.op == .load 5) = true := by decide +kernel
theorem test_ld_counts : after (.ld (fM (vO 4) (sO 2) ⟨2, 0, 3, 5, 4, 0⟩)) (twoLanes [])
    (fun u => u.acs.getD 3 0 == 1 && u.hazardous (.v 5)) = true := by decide +kernel
/-- An address of four bytes that is not a multiple of 4 (R385). -/
theorem test_ld_misaligned : after (.ld (fM (vO 4) (sO 2) ⟨0, 0, 0, 4, 4, 0⟩)) (twoLanes [(2, 2)]) (fun u => u.exited) = true := by decide +kernel
theorem test_st : sent (.st (fM (iO (-2)) (sO 2) ⟨-1, 0, 0, 2, 4, 1⟩)) (twoLanes [])
    (fun rs => rs.length == 2 && rs.all fun r => r.va == 0xC00000007E && r.val == [0xFE, 0xFF] && r.op == .store) = true := by decide +kernel
theorem test_sld : sent (.sld (fM (sO 21) (sO 2) ⟨2, 0, 0, 4, 4, 0⟩)) (twoLanes [])
    (fun rs => match rs with | [r] => r.va == 0xC000000088 && r.op == .load 4 | _ => false) = true := by decide +kernel
theorem test_sst : sent (.sst (fM (iO 1) (sO 2) ⟨0, 0, 0, 4, 4, 1⟩)) (twoLanes [])
    (fun rs => match rs with | [r] => r.val == [1, 0, 0, 0] | _ => false) = true := by decide +kernel
theorem test_tld : sent (.tld (fM (vO 4) (sO 2) ⟨0, 0, 0, 4, 4, 0⟩)) (twoLanes []) (fun rs => rs.all fun r => r.op == .tload && r.bytes == 1) = true := by
  decide +kernel
theorem test_tst : sent (.tst (fM (sO 1) (sO 2) ⟨0x11, 0, 0, 4, 4, 0⟩)) (twoLanes []) (fun rs => rs.length == 2 && rs.all fun r => r.op == .tstore 0x11) = true := by
  decide +kernel
/-- L = 16: two bytes and two fraction bytes (R382). -/
theorem test_vpld : sent (.vpld .w1 (fM (vO 4) (sO 2) ⟨3, 0, 0, 0, 4, 0⟩)) (twoLanes []) (fun rs => rs.all fun r => r.bytes == 4 && r.va == 0xC000000083) = true := by
  decide +kernel
theorem test_vpst : sent (.vpst .w1 (fM (vO 10) (sO 2) ⟨0, 0, 0, 0, 4, 0⟩)) { vpT with sregs := (twoLanes []).sregs } (fun rs => rs.length == 2 && rs.all fun r => r.bytes == 4) = true := by decide +kernel
theorem test_cpf : sent (.cpf (fM (iO 0) (sO 2) ⟨1, 0, 0, 0, 0, 0⟩)) (twoLanes [(2, 0x3F), (3, 0)]) (fun rs => rs.all fun r => r.va == 0x40 && r.op == .prefetch) = true := by
  decide +kernel
theorem test_atom_add : sent (.atomAdd .int (fM (vO 4) (sO 2) ⟨1, 0, 2, 4, 4, 0⟩)) (twoLanes [])
    (fun rs => (rs.getD 1 (rs.headD ⟨0, 0, 0, 0, 0, 0, 0, 0, .store, 0, 0, .own, .tr, .plain, .held, false, 0, 0, 0, false, false, none, [], [], [], none, none, 0, 0, 0, none, 0, none⟩)).val
      == [5, 0, 0, 0]) = true := by decide +kernel
theorem test_atom_cas : sent (.atomCas (fM (vO 4) (sO 2) ⟨0, 0, 2, 5, 4, 0⟩)) (twoLanes [])
    (fun rs => rs.all fun r => r.val.length == 8 && r.val2.length == 8 && r.op == .atom .cas) = true := by decide +kernel
theorem test_atom_f16 : sent (.atomMin .f16x2 (fM (vO 4) (sO 2) ⟨0, 0, 2, 4, 4, 0⟩)) (twoLanes []) (fun rs => rs.all fun r => r.op == .fatom 2 .f16x2) = true := by
  decide +kernel
theorem test_waitac_passes : after (.waitac (fO (pO 16) (iO 0) (iO 0))) heroT (fun u => u.pc == 12) = true := by decide +kernel
theorem test_waitac_waits : after (.waitac (fO (pO 17) (iO 1) (iO 0))) { heroT with acs := (List.range 16).map (2 * ·) } (fun u => u.pc == 0) = true := by
  decide +kernel
theorem test_fence : after (.fence (fM (iO 0) (iO 0) ⟨0, 3, 0, 0, 1, 0⟩)) heroT (underway (· == .fence true true .wg)) = true := by decide +kernel
theorem test_phadv : after (.phadv (fO (sO 1) (iO 0) (iO 0))) heroT (underway (· == .phadv (some 1))) = true := by decide +kernel
theorem test_phwait : after (.phwait (fO (iO 0) (iO 35) (iO (-1)))) heroT (underway (· == .phwait 3 0xFFFF)) = true := by decide +kernel
theorem test_shflush_group : after (.shflush (fO (sO 5) (sO 30) (iO 0))) (withS [(30, 0x13)]) (underway fun a => match a with
    | .shflush 5 3 _ true _ _ => true | _ => false) = true := by decide +kernel
theorem test_cwb_nothing : after (.cwb (fO (iO 0) (sO 10) (iO 64))) heroT (underway (· == .range [])) = true := by decide +kernel
theorem test_cinv_nothing : after (.cinv (fO (iO 0) (sO 10) (iO 64))) heroT (underway (· == .range [])) = true := by decide +kernel
theorem test_cinvd_nothing : after (.cinvd (fO (iO 0) (sO 10) (iO 64))) heroT (underway (· == .range [])) = true := by decide +kernel

/-! ### Barriers, copies, tags, buffers (R403 to R425) -/

def boxIs (i : Instr) (t : Troupe) (p : State → Bool) : Bool := isOk (exec i (box t)) p

theorem test_barw_last : boxIs (.barw (fO (iO 0) (pO 51) (iO 0))) heroT (fun s => (s.wg? 1).any fun w => (w.bar 3).gen == 1) = true := by decide +kernel
theorem test_barr : boxIs (.barr (fO (iO 0) (pO 48) (iO 0))) heroT (fun s => (s.wg? 1).any fun w => (w.bar 0).gen == 1) = true := by decide +kernel
theorem test_barwt_passes : after (.barwt (fO (iO 0) (pO 48) (iO 0))) heroT (fun u => u.pc == 12) = true := by decide +kernel
theorem test_bar_undeclared : after (.barw (fO (iO 0) (pO 56) (iO 0))) heroT (fun u => u.exited) = true := by decide +kernel
theorem test_barinit : sent (.barinit (fO (iO 0) (sO 2) (iO 4))) heroT (fun rs => match rs with | [r] => r.op == .barinit && r.val == [4, 0, 0, 0] | _ => false) = true := by
  decide +kernel
theorem test_barinval : sent (.barinval (fO (iO 0) (sO 2) (iO 0))) heroT (fun rs => rs.map MemReq.op == [.barinval]) = true := by decide +kernel
theorem test_bosig : sent (.bosig (fM (sO 1) (sO 2) ⟨0, 0, 0, 4, 4, 0⟩)) heroT (fun rs => match rs with | [r] => r.val == [64, 0, 0, 0] && r.ord == .rel | _ => false) = true := by
  decide +kernel
theorem test_cpy : boxIs (.cpy (fO (sO 4) (sO 2) (sO 4))) (withS [(4, 0x1003)]) (fun s => match s.copies with
    | [x] => x.ctl == 0x1003 && x.layout == 0xC000000080 && x.stage == .waiting | _ => false) = true := by decide +kernel
theorem test_arm : boxIs (.arm (fO (sO 10) (sO 2) (sO 4))) (withS [(10, 0x7), (12, 5)]) (fun s => match s.copies with
    | [x] => x.stage == .armed 5 | _ => false) = true := by decide +kernel
theorem test_tagwany_none : after (.tagwany (fO (sO 5) (sO 10) (iO 0))) heroT (underway (· == .sregs [(5, 0xFFFFFFFF)])) = true := by decide +kernel
theorem test_tagwall : after (.tagwall (fO (sO 5) (sO 30) (iO 0))) (withS [(30, 3)]) (underway (· == .sregs [(5, 0)])) = true := by decide +kernel
theorem test_tagfirst : after (.tagfirst (fO (sO 5) (sO 30) (iO 0))) (withS [(30, 6)]) (underway (· == .sregs [(5, 0x100)])) = true := by decide +kernel
theorem test_tagclr : after (.tagclr (fO (iO 0) (sO 30) (iO 0))) heroT (fun u => u.pc == 12) = true := by decide +kernel
theorem test_rcnt : after (.rcnt (fO (sO 5) (iO 300) (iO 0))) heroT (underway (· == .rcnt 44 5)) = true := by decide +kernel
theorem test_rcntadd : after (.rcntadd (fO (iO 0) (iO 8) (iO 1))) heroT (underway fun a => match a with | .rcntadd 8 1 _ => true | _ => false) = true := by
  decide +kernel
theorem test_bget : boxIs (.bget (fO (sO 5) (iO 0) (iO 0))) heroT (fun s => s.bufs.map (fun b => (b.core, b.idx, b.wg)) == [(0, 0, 1)]) = true := by decide +kernel
theorem test_bgive_unheld : after (.bgive (fO (sO 5) (sO 1) (iO 0))) heroT (fun u => u.exited) = true := by decide +kernel
theorem test_bfree_unheld : after (.bfree (fO (iO 0) (sO 1) (iO 0))) heroT (fun u => u.exited) = true := by decide +kernel

/-! ### Matrix, graph and system instructions (R426 to R454) -/

theorem test_mclr : boxIs (.mclr (fO (vO 10) (iO 0) (iO 0))) heroT (fun s => match (s.pipe 0).ops with | [o] => o.kind == .mclr && o.acc == 10 | _ => false) = true := by
  decide +kernel
theorem test_mbscale : boxIs (.mbscale (fO (vO 10) (sO 1) (iO 0))) heroT (fun s => (s.pipe 0).ops.map MatOp.kind == [.mbscale 64]) = true := by decide +kernel
/-- The control word 0x400: format BF16, slot 0, solo (R427). -/
theorem test_mma : boxIs (.mma .bf16 (fO (vO 0) (vO 64) (sO 30))) (withS [(30, 0x400)]) (fun s => match (s.pipe 0).ops with
    | [o] => (match o.kind with | .mma 4 0 0 _ _ a none 0 _ _ => a == (List.range 16).map (64 + ·) | _ => false) | _ => false) = true := by decide +kernel
theorem test_mma_sp : boxIs (.mmaSp .f16 (fO (vO 0) (sO 1) (sO 30))) (withS [(30, 0x500)]) (fun s => match (s.pipe 0).ops with
    | [o] => (match o.kind with | .mma 5 0 0 _ _ [] (some 64) 0 _ _ => true | _ => false) | _ => false) = true := by decide +kernel
theorem test_mma_format : after (.mma .f16 (fO (vO 0) (vO 64) (sO 30))) (withS [(30, 0x400)]) (fun u => u.exited) = true := by decide +kernel
theorem test_mldb : boxIs (.mldb (fM (sO 30) (sO 4) ⟨0, 0, 2, 0, 4, 0⟩)) (withS [(30, 0x400)]) (fun s => match s.fills with
    | [x] => x.fmt == 4 && x.addr == 0x14000000100 | _ => false) = true := by decide +kernel
theorem test_mrdy : after (.mrdy (fO (iO 0) (iO 0) (iO 0))) heroT (underway (· == .mrdy)) = true := by decide +kernel
theorem test_mfence : after (.mfence (fO (iO 0) (iO 3) (iO 0))) heroT (fun u => (u.batches.getD 3 Batch.idle).closed) = true := by decide +kernel
theorem test_mwait : after (.mwait (fO (sO 5) (iO 3) (iO 0))) heroT (underway (· == .sregs [(5, 0)])) = true := by decide +kernel
theorem test_mwait_status : after (.mwait (fO (sO 5) (iO 0) (iO 0))) { heroT with batches := { Batch.idle with closed := true, err := some (0x10, 2) } :: List.replicate 7 .idle }
    (underway (· == .sregs [(5, 0x210)])) = true := by decide +kernel
theorem test_mwait_t : after (.mwaitT (fO (sO 5) (iO 0) (iO 0))) { heroT with batches := { Batch.idle with closed := true, err := some (0x10, 2) } :: List.replicate 7 .idle }
    (fun u => u.exited) = true := by decide +kernel
theorem test_remit_no_graph : after (.remit (fO (vO 3) (vO 10) (iO 5))) heroT (underway fun a => match a with
    | .emit false 5 0 3 _ _ _ _ => true | _ => false) = true := by decide +kernel
theorem test_tenq_mode : after (.tenq (fO (vO 3) (vO 10) (iO 0x400))) heroT (fun u => u.exited) = true := by decide +kernel
theorem test_tdeq : after (.tdeq (fO (vO 20) (iO 0) (iO 0x41))) heroT (underway fun a => match a with
    | .deq 1 1 [(20, _), (21, _), (22, _)] _ => true | _ => false) = true := by decide +kernel
theorem test_depinit : sent (.depinit (fM (vO 10) (sO 2) ⟨4, 0, 1, 4, 0, 0⟩)) (twoLanes []) (fun rs => rs.length == 2 && rs.all fun r => r.op == .depinit 4 [] 1) = true := by
  decide +kernel
theorem test_depdec : sent (.depdec (fM (vO 10) (sO 2) ⟨0, 0, 1, 4, 0, 0⟩)) (twoLanes []) (fun rs => rs.all fun r => r.op == .depdec && r.ord == .rel) = true := by decide +kernel
theorem test_chunk : sent (.chunk ⟨⟨1, false, 2, 0, 15, false⟩, vO 0, sO 2, ⟨0, 0, 1, 5, 4, 0⟩⟩) (twoLanes []) (fun rs => rs == []) = true := by decide +kernel
theorem test_lvlid : after (.lvlid (fO (sO 5) (iO 6) (iO 0))) heroT (underway (· == .lvlid 2 5)) = true := by decide +kernel
theorem test_lvlcancel_none : after (.lvlcancel (fO (iO 0) (iO 0) (iO 0))) heroT (underway (· == .lvlcancel 0)) = true := by decide +kernel
theorem test_gexit : after (.gexit (fO (iO 0) (iO 0) (iO 0))) heroT (underway fun a => match a with | .gexit m => m == allLanes | _ => false) = true := by decide +kernel
/-- No handler: the workgroup ends and the error core learns cause 0x31, the code and the address after the instruction (R253, R449). -/
theorem test_trap : boxIs (.trap (fO (iO 0) (iO 0) (iO (-5)))) heroT (fun s => s.errors == [.trap 1 0 0x31 12 0xFFFFFFFFFFFFFFFB 0 false]) = true := by decide +kernel
theorem test_tret : after (.tret (fO (iO 0) (iO 0) (iO 0))) { heroT with intrap := true, tpc := 0x1236 } (fun u => u.pc == 0x1234 && !u.intrap) = true := by decide +kernel
theorem test_sreg_write_only_number : after (.sreg (fO (sO 20) (iO 0) (iO 7))) heroT (fun u => u.exited) = true := by decide +kernel
theorem test_sreg : after (.sreg (fO (sO 20) (iO 0) (iO 0x11))) { heroT with taddr := 0x1234 } (underway (· == .special 0x1234 20)) = true := by decide +kernel
theorem test_swreg : after (.swreg (fO (iO 0) (sO 2) (iO 0x12))) { heroT with intrap := true } (fun u => u.tpc == 0xC000000080) = true := by decide +kernel
theorem test_shrink : after (.shrink (fO (iO 0) (iO 32) (iO 0))) heroT (fun u => u.allot == 32 && u.regs.length == 32) = true := by decide +kernel
theorem test_grow : after (.grow (fO (iO 0) (iO 200) (iO 0))) { heroT with allot := 100 } (fun u => u.allot == 200) = true := by decide +kernel
theorem test_grow_too_far : after (.grow (fO (iO 0) (iO 201) (iO 0))) heroT (fun u => u.exited) = true := by decide +kernel
theorem test_bkpt : boxIs (.bkpt (fO (iO 0) (iO 0) (iO 0))) heroT (fun s => s.errors == [.trap 1 0 0x30 0 0 0 false]) = true := by decide +kernel
theorem test_halt_disabled : boxIs (.halt (fO (iO 0) (iO 0) (iO 0))) heroT (fun s => s.errors == [.trap 1 0 0x30 0 0 0 false]) = true := by decide +kernel
theorem test_faultrd : after (.faultrd (fO (vO 20) (iO 0) (iO 0))) { heroT with faults := List.replicate 96 0x8240000000001234 }
    (fun u => vIs 20 3 0x1234 u && vIs 21 3 0x82400000 u && u.faults.getD 3 1 == 0) = true := by decide +kernel
theorem test_pcfgrd : after (.pcfgrd (fO (sO 5) (iO 95) (iO 0))) heroT (sIs 5 16) = true := by decide +kernel
theorem test_pcfgrd_range : after (.pcfgrd (fO (sO 5) (iO 96) (iO 0))) heroT (fun u => u.exited) = true := by decide +kernel
theorem test_unassigned : boxIs (.unassignedOpcode 0x3FF) heroT (fun s => s.errors == [.trap 1 0 0x01 0 0 0 false]) = true := by decide +kernel

/-! ### A step fetches, decodes and runs -/

/-- `sadd s1, s1, #3` written out, placed where reset's first step fetches. -/
theorem test_first_step : isOk (step (State.reset.withFetchWord 96 0x3C000000_03800054_00015C01)) (fun s => s.troupes.any fun t => t.pc == 12) = true := by
  decide +kernel

end Sys2Proof.Tests
end

