-- ==== Sys2Proof/Tests/Witnesses.lean ====
section
/-! SUPPORT. Witnesses: for every statement with hypotheses, a state and operands that meet them all together. A statement that is a
table of events has one for each row that a small state can show, at the boundary of its range where it has one. -/

namespace Sys2Proof.Tests

open Sys2Proof Sys2Proof.Machine

set_option Elab.async false

/-! ## Witnesses: for every statement with hypotheses, a state and operands that meet them -/

open Sys2Proof.Claims

theorem iss {t : Troupe} {c : Ctl} {o : Opnds} {mod : Bool} (hc : (box t).cur? = some t := by rfl)
    (hb : issuesB (box t) t c o mod = true := by decide +kernel) : (box t).issuesWith t c o mod := issues hc hb

def shBin : Shape := ⟨[.sw 1 63], [.sr 1 63, .imm], [.sr 1 63, .imm]⟩
def shNone : Shape := ⟨[.unused], [.unused], [.unused]⟩

theorem witness_ScalarBinaryResult : ∃ i f op, ∃ (s : State) (t : Troupe), ScalarBin i f op ∧ s.issuesWith t f.c (ops f shBin) true :=
  ⟨_, _, _, box heroT, heroT, .sadd (fO (sO 63) (sO 2) (iO (-1))), iss⟩

theorem witness_ScalarMove : ∃ i f sh val, ∃ (s : State) (t : Troupe), ScalarMove i f sh val ∧ s.issuesWith t f.c (ops f sh) true :=
  ⟨_, _, _, _, box heroT, heroT, .smovh (fO (sO 63) (sO 2) (iO 0)), iss⟩
/-- The immediate -2048 and the register form, into a scalar and into a predicate. -/
theorem witness_ScalarCompare :
    (cmpLegal 0x20020 ∧ (box heroT).issuesWith heroT plainT (ops (fO (sO 1) (sO 2) (iO 0x20020)) ⟨[.sw 1 63, .sp 0 7], [.sr 1 63], []⟩) true)
    ∧ cmpLegal 0x15 ∧ (box heroT).issuesWith heroT plainT (ops (fO (pO 7) (sO 2) (iO 0x15)) ⟨[.sw 1 63, .sp 0 7], [.sr 2 60], []⟩) true :=
  ⟨⟨by unfold cmpLegal; decide, iss⟩, by unfold cmpLegal; decide, iss⟩

theorem witness_DivisionIssues :
    (∃ i f op, ∃ (s : State) (t : Troupe), ScalarDivision i f op ∧ s.issuesWith t f.c (ops f shBin) true ∧ takes s t f.c = true)
    ∧ ∃ i f op, ∃ (s : State) (t : Troupe), VectorDivision i f op ∧ s.issuesWith t f.c (ops f shTwo) true :=
  ⟨⟨_, _, _, box heroT, heroT, .sdivI (fO (sO 1) (iO (-7)) (iO 0)), iss, by decide +kernel⟩,
    ⟨_, _, _, box heroT, heroT, .vremU (fO (vO 3) (vO 2) (iO 0)), iss⟩⟩

theorem witness_Branch : ∃ i f accs cond, ∃ (s : State) (t : Troupe), Branch i f accs cond ∧ s.issuesWith t f.c ⟨f.d, .imm 0, .imm 0, ⟨accs, [.unused], [.unused]⟩⟩ true
    ∧ takes s t f.c = true ∧ cond s t :=
  ⟨_, _, _, _, box heroT, heroT, .brz ⟨plainT, sO 0, -1⟩, iss, by decide +kernel, by decide +kernel⟩
theorem witness_BranchNot : ∃ i f accs cond, ∃ (s : State) (t : Troupe), Branch i f accs cond ∧ s.issuesWith t f.c ⟨f.d, .imm 0, .imm 0, ⟨accs, [.unused], [.unused]⟩⟩ true
    ∧ ¬cond s t := ⟨_, _, _, _, box heroT, heroT, .brnz ⟨plainT, sO 0, -1⟩, iss, by decide +kernel⟩
theorem witness_Transfers :
    ((box heroT).issuesWith heroT plainT ⟨iO 0, .imm 0, .imm 0, shNone⟩ true ∧ takes (box heroT) heroT plainT = true)
    ∧ (box heroT).issuesWith heroT plainT (ops (fO (iO 0) (sO 2) (iO 0)) ⟨[.unused], [.sr 2 60], [.unused]⟩) true
    ∧ (box heroT).issuesWith heroT ⟨7, true, 0, 0, 15, false⟩ (ops (fNone (iO 0) (iO 0) (iO 0)) shNone) true
    ∧ takes (box heroT) heroT ⟨7, true, 0, 0, 15, false⟩ = false :=
  ⟨⟨iss, by decide +kernel⟩, iss, iss, by decide +kernel⟩

theorem witness_PredicateResult :
    (∃ i f sh val, ∃ (s : State) (t : Troupe), PredOp i f sh val ∧ s.issuesWith t f.c (ops f sh) true)
    ∧ (box heroT).issuesWith heroT plainT (ops (fO (sO 61) (pO 7) (iO 0)) ⟨[.sw 3 63], [.sp 0 7], [.unused]⟩) true :=
  ⟨⟨_, _, _, _, box heroT, heroT, .pfroms (fO (pO 7) (sO 61) (iO 0)), iss⟩, iss⟩

theorem witness_VectorBinaryResult : ∃ i f op, ∃ (s : State) (t : Troupe), VectorBin i f op ∧ s.issuesWith t f.c (ops f shTwo) true :=
  ⟨_, _, _, box heroT, heroT, .vbfeI (fO (vO 199) (.vec 2 true 6 6) (iO 0x2000)), iss⟩

theorem witness_VectorOtherResult :
    (∃ i f sh val, ∃ (s : State) (t : Troupe), VectorOther i f sh val ∧ s.issuesWith t f.c (ops f sh) true)
    ∧ (box heroT).issuesWith heroT plainT (ops (fO (vO 98) (vO 0) (iO 0)) ⟨[.vc], [.vr 1 false, .sr 1 63, .imm], [.vr 1 false, .sr 1 63, .imm]⟩) true :=
  ⟨⟨_, _, _, _, box heroT, heroT, .vbfi (fO (vO 3) (iO 5) (iO 0x401F)), iss⟩, iss⟩

theorem witness_VectorCompareResult :
    (cmpLegal 0x20032 ∧ (box heroT).issuesWith heroT plainT (ops (fO (vO 255) (vO 2) (iO 0x20032)) ⟨[.vw 1 false, .sp 0 7], [.vr 1 false], []⟩) true)
    ∧ cmpLegal 0 ∧ (box heroT).issuesWith heroT plainT (ops (fO (pO 6) (vO 2) (iO 0)) ⟨[.vw 1 false, .sp 0 7], [.vr 2 false], []⟩) true :=
  ⟨⟨by unfold cmpLegal; decide, iss⟩, by unfold cmpLegal; decide, iss⟩

/-- The exclusive minimum; a maximum into a scalar, with lanes and with none. -/
theorem witness_ScanReduceResult :
    (scanLegal 0x19 false ∧ (box heroT).issuesWith heroT plainT (ops (fO (vO 3) (vO 2) (iO 0x19)) ⟨[.vw 1 false], [.vr 1 false], []⟩) true)
    ∧ (scanLegal 0xA true ∧ (box heroT).issuesWith heroT plainT (ops (fO (sO 3) (vO 2) (iO 0xA)) ⟨[.vw 1 false, .sw 1 63], [.vr 1 false], []⟩) true
      ∧ eff (box heroT) heroT plainT ≠ 0)
    ∧ (box heroT).issuesWith heroT ⟨7, true, 0, 0, 15, false⟩ (ops (fNone (sO 3) (vO 2) (iO 0xA)) ⟨[.vw 1 false, .sw 1 63], [.vr 1 false], []⟩) true
    ∧ eff (box heroT) heroT ⟨7, true, 0, 0, 15, false⟩ = 0 :=
  ⟨⟨by unfold scanLegal; decide, iss⟩, ⟨by unfold scanLegal; decide, iss, by decide +kernel⟩, iss, by decide +kernel⟩

theorem witness_MatchFunnelPermuteResult :
    (box heroT).issuesWith heroT plainT (ops (fO (vO 3) (vO 2) (iO 0)) ⟨[.vw 1 false], [.vr 1 false], [.unused]⟩) true
    ∧ (box heroT).issuesWith heroT plainT (ops (fO (vO 3) (vO 98) (iO 0x60)) ⟨[.vd 1 false], [.vr 2 false], []⟩) true
    ∧ (box heroT).issuesWith heroT plainT (ops (fO (vO 3) (vO 98) (iO (-1))) ⟨[.vw 1 false], [.vr 2 false], []⟩) true := ⟨iss, iss, iss⟩

theorem witness_FloatResult :
    (∃ i f sh lat raises val, ∃ (s : State) (t : Troupe), FloatOp i f sh lat raises val ∧ s.issuesWith t f.c (ops f sh) true ∧ raisedIn s t f.c (raises s t) = 0)
    ∧ ∃ i f sh raises val, ∃ (s : State) (t : Troupe), FloatLate i f sh raises val ∧ s.issuesWith t f.c (ops f sh) true ∧ raisedIn s t f.c (raises s t) = 0 :=
  ⟨⟨_, _, _, _, _, _, box floatsT, floatsT, .two _ _ .bf16x2 (fO (vO 3) (sO 24) (sO 23)) .fmul, iss, by decide +kernel⟩,
    ⟨_, _, _, _, _, box floatsT, floatsT, .fdiv (fO (vO 3) (sO 20) (sO 10)), iss, by decide +kernel⟩⟩

/-- TE set in every lane: infinity less itself; a division by zero; L wider than the window; a cancellation; 0 × infinity. -/
def strictT : Troupe := { withS [(20, 0x7F800000), (21, 0x3F800000)] with pcfg := List.replicate 96 0x4010#15 }
def strictVp (pcfg : BitVec 15) : Troupe := { withV [(10, 0x3FFF0000), (11, 0xBFFF0000), (12, 0x7FFF0000), (13, 0)] with pcfg := List.replicate 96 pcfg }
theorem witness_ArithmeticTraps :
    (∃ i f sh lat raises val, ∃ (s : State) (t : Troupe), FloatOp i f sh lat raises val ∧ s.issuesWith t f.c (ops f sh) true ∧ raisedIn s t f.c (raises s t) ≠ 0)
    ∧ (∃ i f sh raises val, ∃ (s : State) (t : Troupe), FloatLate i f sh raises val ∧ s.issuesWith t f.c (ops f sh) true ∧ raisedIn s t f.c (raises s t) ≠ 0)
    ∧ (∃ i w f sh now r exact addends raises, ∃ (s : State) (t : Troupe), VpWindow i w f sh now r exact addends raises ∧ s.issuesWith t f.c (ops f sh) true
      ∧ maskOf (fun l => (eff s t f.c).getLsbD l && decide (capacity w < precL t l)) ≠ 0)
    ∧ (∃ i w f sh now r exact addends raises, ∃ (s : State) (t : Troupe), VpWindow i w f sh now r exact addends raises ∧ s.issuesWith t f.c (ops f sh) true
      ∧ maskOf (fun l => (eff s t f.c).getLsbD l && match addends s t l with | some (a, b) => cancels t l a b | none => false) ≠ 0)
    ∧ ∃ i w f sh now r exact addends raises, ∃ (s : State) (t : Troupe), VpWindow i w f sh now r exact addends raises ∧ s.issuesWith t f.c (ops f sh) true
      ∧ raisedIn s t f.c (raises s t) ≠ 0 :=
  ⟨⟨_, _, _, _, _, _, box strictT, strictT, .two _ _ .f32 (fO (vO 3) (sO 20) (sO 20)) .fsub, iss, by decide +kernel⟩,
    ⟨_, _, _, _, _, box strictT, strictT, .fdiv (fO (vO 3) (sO 21) (sO 10)), iss, by decide +kernel⟩,
    ⟨_, _, _, _, _, _, _, _, _, box (strictVp 17), strictVp 17, .vpadd .w1 (fO (vO 3) (vO 10) (vO 10)), iss, by decide +kernel⟩,
    ⟨_, _, _, _, _, _, _, _, _, box (strictVp 0x4090), strictVp 0x4090, .vpadd .w1 (fO (vO 3) (vO 10) (vO 11)), iss, by decide +kernel⟩,
    ⟨_, _, _, _, _, _, _, _, _, box (strictVp 0x4010), strictVp 0x4010, .vpmul .w1 (fO (vO 3) (vO 12) (vO 13)), iss, by decide +kernel⟩⟩

theorem witness_SpecialOperands : ∃ fn zero pinf ninf below, SpecialTable fn zero pinf ninf below := ⟨_, _, _, _, _, .flog2⟩

/-- `fcvt` of FP32 to `.n32`; `fcmp.lt` into a predicate; `fscale` by D. -/
theorem witness_FloatModifierResult :
    (∃ i f m sh raises val, ∃ (s : State) (t : Troupe), FloatX i f m sh raises val ∧ f.b = .imm m ∧ s.issuesWith t f.c (ops f sh) true ∧ raisedIn s t f.c (raises s t) = 0)
    ∧ (typeCode (st 2) .f32 ∧ dt 2 = 0 ∧ xs 2 = 0 ∧ (box floatsT).issuesWith floatsT plainT (ops (fO (pO 7) (vO 2) (iO 2)) ⟨[.vw 1 false, .sp 0 7], [.vr 2 false], []⟩) true)
    ∧ typeCode (st 0x20000) .f32 ∧ dt 0x20000 = st 0x20000 ∧ roundsAs 0x20000 .rne ∧ xs 0x20000 = 2 ^ 6
      ∧ (box floatsT).issuesWith floatsT plainT (ops (fO (vO 2) (sO 20) (iO 0x20000)) ⟨[.vd 1 false], [.vr 1 false, .sr 1 63], []⟩) true :=
  ⟨⟨_, _, _, _, _, _, box floatsT, floatsT, .fcvt (fO (vO 3) (sO 20) (iO 0x71)) 0x71 .rtz _ _ rfl rfl rfl rfl, rfl, iss, by decide +kernel⟩,
    ⟨rfl, rfl, rfl, iss⟩, rfl, rfl, rfl, rfl, iss⟩

/-- FP32 to eight `.e4m3`, with a scale from a ninth register. -/
theorem witness_NarrowResult : ∃ y, st 0x1030 = 0 ∧ narrowTy (dt 0x1030) ((0x1030 : BitVec 18).getLsbD 11) = some y ∧ xs 0x1030 < 4 ∧ roundsAs 0x1030 .rne
    ∧ (box floatsT).issuesWith floatsT plainT (ops (fO (vO 20) (vO 2) (iO 0x1030)) ⟨[.vw 2 false], [.vr 9 false], []⟩) true
    ∧ raisedIn (box floatsT) floatsT plainT (fun l => y.noNan && ((List.range 8).map fun j =>
        asNum (rA (box floatsT) floatsT (fO (vO 20) (vO 2) (iO 0x1030)) j l)).any FNum.isNan) = 0 :=
  ⟨.flt e4m3 8, rfl, rfl, by decide, rfl, iss, by decide +kernel⟩

theorem quiet_of {s : State} {t : Troupe} {c : Ctl} {w : VpW} {a : Nat → Option (FNum × FNum)} {r : Nat → Bool}
    (h : maskOf (fun l => (eff s t c).getLsbD l && (decide (capacity w < precL t l)
      || (match a l with | some (x, y) => cancels t l x y | none => false) || (te t l && r l))) = 0) : vpQuiet s t c w a r := by
  intro l hl he
  have h1 : (maskOf (fun l => (eff s t c).getLsbD l && (decide (capacity w < precL t l)
      || (match a l with | some (x, y) => cancels t l x y | none => false) || (te t l && r l)))).getLsbD l = false := by rw [h]; simp
  rw [maskOf_bit _ hl, he] at h1
  simp only [Bool.true_and, Bool.or_eq_false_iff, decide_eq_false_iff_not, Nat.not_lt] at h1
  refine ⟨h1.1.1, fun x y hx => ?_, fun ht => ?_⟩
  · have := h1.1.2; rw [hx] at this; exact this
  · simpa [ht] using h1.2

theorem witness_PrecisionResult :
    (∃ i w f sh r exact addends raises, VpWindow i w f sh true r exact addends raises ∧ (box vpT).issuesWith vpT f.c (ops f sh) true
      ∧ vpQuiet (box vpT) vpT f.c w (addends (box vpT) vpT) (raises (box vpT) vpT))
    ∧ ∃ i w f sh r exact addends raises, VpWindow i w f sh false r exact addends raises ∧ (box vpT).issuesWith vpT f.c (ops f sh) true
      ∧ vpQuiet (box vpT) vpT f.c w (addends (box vpT) vpT) (raises (box vpT) vpT) :=
  ⟨⟨_, _, _, _, _, _, _, _, .vpadd .w4 (fO (vO 20) (vO 10) (vO 10)), iss, quiet_of (by decide +kernel)⟩,
    ⟨_, _, _, _, _, _, _, _, .vpdiv .w1 (fO (vO 20) (vO 10) (vO 13)), iss, quiet_of (by decide +kernel)⟩⟩
/-- Issue on any concrete state. -/
theorem isi {s : State} {t : Troupe} {c : Ctl} {o : Opnds} {mod : Bool} (hc : s.cur? = some t := by rfl)
    (hb : issuesB s t c o mod = true := by decide +kernel) : s.issuesWith t c o mod := issues hc hb

theorem witness_PrecisionOtherResult :
    ((box vpT).issuesWith vpT plainT (ops (fO (vO 20) (vO 10) (vO 13)) ⟨[.vw 1 false], [.vr 4 true], [.vr 4 true]⟩) true
      ∧ vpQuiet (box vpT) vpT plainT .w4 (fun _ => none) (fun _ => false))
    ∧ (st 0x7E8 = 15 ∧ vpcvtTy (dt 0x7E8) = some (.int 32 true) ∧ xs 0x7E8 = 0 ∧ roundsAs 0x7E8 .rne
      ∧ (box vpT).issuesWith vpT plainT (ops (fO (vO 20) (vO 10) (iO 0x7E8)) ⟨[.vw 1 false], [.vr 1 true], []⟩) true
      ∧ vpQuiet (box vpT) vpT plainT .w1 (fun _ => none)
          (fun l => (vA (box vpT) vpT (fO (vO 20) (vO 10) (iO 0x7E8)) 1 l).isNan && (Ty.int 32 true).noNan))
    ∧ (heroT.pcfg.length = 96 ∧ (box heroT).issuesWith heroT plainT (ops (fO (iO 0) (iO (-1)) (iO 7)) ⟨[.unused], [.vr 1 false, .sr 1 63, .imm], []⟩) true)
    ∧ (box heroT).issuesWith heroT plainT (ops (fO (vO 20) (iO 0) (iO 0)) ⟨[.vw 1 false], [.unused], []⟩) true :=
  ⟨⟨iss, quiet_of (by decide +kernel)⟩, ⟨rfl, rfl, rfl, rfl, iss, quiet_of (by decide +kernel)⟩, ⟨rfl, iss⟩, iss⟩

/-- A load of 8 bytes, OFS -32, on a.c. 15, in the two lanes and in none; a compare-and-swap of 8 bytes. -/
def twoT : Troupe := twoLanes [(2, 0x200), (3, 0)]
theorem witness_LaneMemoryRequests :
    (∃ i f sh rule unit align back land req, LaneMemory i f sh rule unit align back land req
      ∧ (box twoT).issuesWith twoT f.c (opsM f sh) (f.attr.fits rule) ∧ fits i (box twoT) twoT f.c
      ∧ (box twoT).memHold ((box twoT).atIssue twoT) (back.map fun _ => f.attr.ac.toNat) (order f).releases (scope f) = false
      ∧ (∀ l, l < 96 → (eff (box twoT) twoT f.c).getLsbD l = true → (address (box twoT) twoT f unit l).toNat % align = 0) ∧ eff (box twoT) twoT f.c ≠ 0)
    ∧ ∃ i f sh rule unit align back land req, LaneMemory i f sh rule unit align back land req
      ∧ (box twoT).issuesWith twoT f.c (opsM f sh) (f.attr.fits rule) ∧ fits i (box twoT) twoT f.c
      ∧ (box twoT).memHold ((box twoT).atIssue twoT) (back.map fun _ => f.attr.ac.toNat) (order f).releases (scope f) = false
      ∧ (∀ l, l < 96 → (eff (box twoT) twoT f.c).getLsbD l = true → (address (box twoT) twoT f unit l).toNat % align = 0) ∧ eff (box twoT) twoT f.c = 0 :=
  ⟨⟨_, _, _, _, _, _, _, _, _, .ld (fM (vO 4) (sO 2) ⟨-32, 1, 15, 5, 5, 3⟩), iss, fun w f h => (by rcases h with h | h <;> cases h), by decide +kernel,
      by decide +kernel, by decide +kernel⟩,
    ⟨_, _, _, _, _, _, _, _, _, .st ⟨⟨7, true, 0, 0, 15, false⟩, vO 4, sO 2, ⟨31, 2, 0, 0, 0, 0⟩⟩, iss, fun w f h => (by rcases h with h | h <;> cases h),
      by decide +kernel, by decide +kernel, by decide +kernel⟩⟩
theorem witness_LaneMemoryVp : ∃ f, LaneMemory (.vpst .w4 f) f ⟨[.vr 4 true], shPair, []⟩ ⟨[0], [0, 2], false, true, 5, List.range 64⟩ 1 1 none (fun _ => .nothing)
      (fun s t l => (.vpstore .w4 (precL t l) false, 2 + (precL t l + 7) / 8,
          vpElemCode (precL t l) ((vpFmt (precL t l)).round .rne (vpValue ((List.range 4).map fun j => mD s t f j l))),
          (List.range 4).flatMap fun j => natLe 4 (mD s t f j l).toNat))
    ∧ (box twoT).issuesWith twoT f.c (opsM f ⟨[.vr 4 true], shPair, []⟩) (f.attr.fits ⟨[0], [0, 2], false, true, 5, List.range 64⟩)
    ∧ fits (.vpst .w4 f) (box twoT) twoT f.c :=
  ⟨_, .vpst .w4 (fM (vO 10) (sO 2) ⟨-1, 2, 0, 0, 4, 0⟩), iss, fun w f h => (by rcases h with h | h <;> cases h <;> decide +kernel)⟩

theorem witness_OtherMemoryRequests :
    ((box twoT).issuesWith twoT plainT (opsM (fM (sO 20) (sO 2) ⟨-1, 1, 15, 5, 4, 0⟩) ⟨[.sw 2 60], [.sr 2 60], []⟩)
        ((⟨-1, 1, 15, 5, 4, 0⟩ : Attr).fits ⟨[0, 1, 2, 3, 4, 5], [0, 1], true, true, 5, List.range 64⟩)
      ∧ (box twoT).memHold ((box twoT).atIssue twoT) (some 15) false .tr = false ∧ takes (box twoT) twoT plainT = true)
    ∧ ((box twoT).issuesWith twoT plainT (opsM (fM (iO (-1)) (sO 2) ⟨31, 2, 0, 0, 4, 1⟩) ⟨[.sr 1 63, .imm], [.sr 2 60], []⟩)
        ((⟨31, 2, 0, 0, 4, 1⟩ : Attr).fits ⟨[0, 1, 2, 3, 4, 5], [0, 2], false, true, 5, List.range 64⟩)
      ∧ (box twoT).memHold ((box twoT).atIssue twoT) none true .dev = false)
    ∧ (box twoT).issuesWith twoT plainT (opsM (fM (iO 0) (vO 2) ⟨-32, 0, 0, 0, 0, 0⟩) ⟨[.unused], shPair, []⟩)
        ((⟨-32, 0, 0, 0, 0, 0⟩ : Attr).fits ⟨[0], [0], false, true, 0, List.range 64⟩) ∧ (box twoT).memFree twoT :=
  ⟨⟨iss, by decide +kernel, by decide +kernel⟩, ⟨iss, by decide +kernel⟩, iss, by unfold State.memFree; decide +kernel⟩

def oddT : Troupe := twoLanes [(2, 0x202), (3, 0)]
theorem witness_MisalignedAccessTraps : ∃ i f sh rule unit align back land req, LaneMemory i f sh rule unit align back land req ∧ fits i (box oddT) oddT f.c
    ∧ (box oddT).issuesWith oddT f.c (opsM f sh) (f.attr.fits rule)
    ∧ lowest (maskOf fun l => (eff (box oddT) oddT f.c).getLsbD l && (address (box oddT) oddT f unit l).toNat % align != 0) = some 0 :=
  ⟨_, _, _, _, _, _, _, _, _, .atomic _ _ _ _ _ (.xchg (fM (vO 4) (sO 2) ⟨1, 3, 0, 4, 4, 0⟩)), fun w f h => (by rcases h with h | h <;> cases h), iss, by decide +kernel⟩

/-- A request as the memory system keeps one. -/
def reqT (id : Nat) (stage : Stage) (op : MemOp) (loc : Nat) : MemReq where
  id := id
  split := 50
  wg := 1
  trix := 0
  ctx := 0
  die := 0
  core := 0
  lane := 0
  op := op
  va := BitVec.ofNat 64 loc
  bytes := 4
  pol := .wt
  scope := .dev
  ord := .plain
  stage := stage
  wasParked := false
  loc := loc
  kind := 0
  home := 0
  typed := false
  migrating := false
  win := none
  val := [1, 2, 3, 4]
  val2 := [0, 0, 0, 0]
  result := []
  fault := none
  phase := none
  reqLife := 0
  tgtLife := 0
  arrival := 0
  deadline := none
  slot := 0
  lease := none

theorem witness_RequestsKeepState : ∃ (s : State) (rs : List MemReq), s.migrs = [] ∧ ∃ q ∈ s.reqs, (∀ r ∈ rs, r.id ≠ q.id) ∧ q.id < s.fresh :=
  ⟨{ box heroT with reqs := [reqT 3 .ready (.load 4) 0] }, [reqT 1000 (.untranslated false) .store 0], rfl, reqT 3 .ready (.load 4) 0, by decide, by decide, by decide⟩

/-- One buffer is bound, number 0 of core 0; two active lanes at its first and its last four bytes. -/
def padT : Troupe := { twoLanes [] with regs := (regT 50 fun l => if l = 0 then 0 else 0x1FFC) :: (regT 51 fun _ => 0) :: heroT.regs.filter (fun r => r.name != 50 && r.name != 51) }
def padBox : State := { box padT with wgs := [{ wgT with binds := [⟨0, 0, 0, none⟩] }], bufs := [⟨0, 0, 1, 5, [], []⟩] }
theorem witness_ScratchpadAccess :
    (padBox.issuesWith padT plainT (opsM (fM (vO 4) (vO 50) ⟨0, 0, 15, 4, 2, 0⟩) ⟨[.vw 1 false], shPair, []⟩)
        ((⟨0, 0, 15, 4, 0, 0⟩ : Attr).fits ⟨[0, 1, 2, 3, 4, 5], [0, 1], true, false, 2, List.range 64⟩)
      ∧ padBox.memHold (padBox.atIssue padT) (some 15) false .tr = false ∧ eff padBox padT plainT ≠ 0)
    ∧ (padBox.issuesWith padT plainT (opsM (fM (vO 4) (vO 50) ⟨0, 0, 0, 4, 0, 0⟩) ⟨shData 1, shPair, []⟩)
        ((⟨0, 0, 0, 4, 0, 0⟩ : Attr).fits ⟨[0, 1, 2, 3, 4, 5], [0, 2], false, false, 2, List.range 64⟩)
      ∧ padBox.memHold (padBox.atIssue padT) none false .tr = false)
    ∧ ∀ l, l < 96 → (eff padBox padT plainT).getLsbD l = true → (address padBox padT (fM (vO 4) (vO 50) ⟨0, 0, 0, 4, 0, 0⟩) 4 l).toNat % 4 = 0
      ∧ (padBox.scratch? padT (address padBox padT (fM (vO 4) (vO 50) ⟨0, 0, 0, 4, 0, 0⟩) 4 l).toNat 4).isSome = true :=
  ⟨⟨isi, by decide +kernel, by decide +kernel⟩, ⟨isi, by decide +kernel⟩, by decide +kernel⟩
/-- An acquire-release fence at `.sys`; `phadv` into s0; `shflush` of group 15; a tag read; a counter addition; `sreg` into s60. -/
theorem witness_UnderWayInstructions :
    (∃ i c o mod cond closes holds act rs, EndsLater i c o mod cond closes holds act rs ∧ (box heroT).issuesWith heroT c o mod ∧ cond (box heroT) heroT
      ∧ takes (box heroT) heroT c = true)
    ∧ (∃ i c o mod cond closes holds act rs, EndsLater i c o mod cond closes holds act rs ∧ (box heroT).issuesWith heroT c o mod ∧ cond (box heroT) heroT
      ∧ takes (box heroT) heroT c = false) :=
  ⟨⟨_, _, _, _, _, _, _, _, _, .fence (fM (iO 0) (iO 0) ⟨0, 3, 0, 0, 5, 0⟩), iss, by decide +kernel, by decide +kernel⟩,
    ⟨_, _, _, _, _, _, _, _, _, .rcnt (fNone (sO 60) (iO 255) (iO 0)), iss, by unfold State.memFree; decide +kernel, by decide +kernel⟩⟩
theorem witness_UnderWay_phadv : ∃ i c o mod cond closes holds act rs, EndsLater i c o mod cond closes holds act rs ∧ (box heroT).issuesWith heroT c o mod
    ∧ cond (box heroT) heroT := ⟨_, _, _, _, _, _, _, _, _, .phadv (fO (sO 60) (iO 0) (iO 0)) rfl, iss, by unfold State.memFree; decide +kernel⟩
theorem witness_UnderWay_phwait : ∃ i c o mod cond closes holds act rs, EndsLater i c o mod cond closes holds act rs ∧ (box heroT).issuesWith heroT c o mod
    ∧ cond (box heroT) heroT := ⟨_, _, _, _, _, _, _, _, _, .phwait (fO (iO 0) (iO 31) (iO (-1))), iss, by unfold State.memFree; decide +kernel⟩
def groupT : Troupe := withS [(30, 0x1F)]
theorem witness_UnderWay_shflush : ∃ i c o mod cond closes holds act rs, EndsLater i c o mod cond closes holds act rs ∧ (box groupT).issuesWith groupT c o mod
    ∧ cond (box groupT) groupT := ⟨_, _, _, _, _, _, _, _, _, .shflush (fO (sO 60) (sO 30) (iO 0)), iss, by decide +kernel, fun _ => by decide +kernel⟩
def tagMaskT : Troupe := withS [(30, 0x80), (31, 0)]
theorem witness_UnderWay_tags : ∃ i c o mod cond closes holds act rs, EndsLater i c o mod cond closes holds act rs ∧ (box tagMaskT).issuesWith tagMaskT c o mod
    ∧ cond (box tagMaskT) tagMaskT :=
  ⟨_, _, _, _, _, _, _, _, _, .tags (fO (sO 60) (sO 30) (iO 0)) .tagwall _ 0 .all, iss, by unfold State.memFree; decide +kernel, wgT, rfl, by decide +kernel⟩
theorem witness_UnderWay_rcntadd : ∃ i c o mod cond closes holds act rs, EndsLater i c o mod cond closes holds act rs ∧ (box heroT).issuesWith heroT c o mod
    ∧ cond (box heroT) heroT := ⟨_, _, _, _, _, _, _, _, _, .rcntadd (fO (iO 0) (iO 255) (iO (-1))), iss, by decide +kernel⟩
theorem witness_UnderWay_sreg : ∃ i c o mod cond closes holds act rs, EndsLater i c o mod cond closes holds act rs ∧ (box heroT).issuesWith heroT c o mod
    ∧ cond (box heroT) heroT :=
  ⟨_, _, _, _, _, _, _, _, _, .sreg (fO (sO 59) (iO 0) (iO 0x3F)) 0x3F rfl (by unfold specialNumber; decide), iss, trivial⟩

/-- heroT with one instruction under way. -/
def pendT (a : PendAct) : Troupe := { heroT with pend := [⟨7, some 11, a, false⟩] }
def pendOf (a : PendAct) : Pend := ⟨7, some 11, a, false⟩
theorem witness_ResultsLand :
    (∃ (s : State) (t : Troupe) (p : Pend), ∃ ws, s.troupe? t.wg t.trix = some t ∧ t.pend? p.k = some p ∧ EndsWith s t p ws ∧ ∀ w ∈ ws, w.1 < 64)
    ∧ (∃ (s : State) (t : Troupe) (p : Pend), ∃ ws, s.troupe? t.wg t.trix = some t ∧ t.pend? p.k = some p ∧ EndsWith s t p ws ∧ p.act = .special 0x10 59 ∧ ∀ w ∈ ws, w.1 < 64)
    ∧ (∃ (s : State) (t : Troupe) (p : Pend), ∃ ws, s.troupe? t.wg t.trix = some t ∧ t.pend? p.k = some p ∧ EndsWith s t p ws ∧ p.act = .rcnt 255 60 ∧ ∀ w ∈ ws, w.1 < 64)
    ∧ (∃ (s : State) (t : Troupe) (p : Pend), ∃ ws, s.troupe? t.wg t.trix = some t ∧ t.pend? p.k = some p ∧ EndsWith s t p ws ∧ p.act = .fence false true .sys ∧ ∀ w ∈ ws, w.1 < 64)
    ∧ ∃ (s : State) (t : Troupe), ∃ c n v, s.ctxOf t = some c ∧ SpecialValue s t c n v :=
  ⟨⟨box (pendT (.sregs [(63, 1)])), pendT (.sregs [(63, 1)]), pendOf (.sregs [(63, 1)]), _, rfl, rfl, .results _ rfl (by decide), by decide⟩,
    ⟨box (pendT (.special 0x10 59)), pendT (.special 0x10 59), pendOf (.special 0x10 59), _, rfl, rfl, .special _ _ rfl, rfl, by decide +kernel⟩,
    ⟨box (pendT (.rcnt 255 60)), pendT (.rcnt 255 60), pendOf (.rcnt 255 60), _, rfl, rfl, .rcnt _ _ wgT placedCtx rfl rfl rfl, rfl, by decide +kernel⟩,
    ⟨box (pendT (.fence false true .sys)), pendT (.fence false true .sys), pendOf (.fence false true .sys), _, rfl, rfl,
      .fence _ _ rfl ⟨fun _ => by decide +kernel, fun h => absurd h (by decide)⟩, rfl, by decide⟩,
    box heroT, heroT, placedCtx, _, _, rfl, .nclim 15 (by decide)⟩

theorem witness_ResultsActOutside :
    (∃ (s : State) (t : Troupe) (p : Pend), s.troupe? t.wg t.trix = some t ∧ t.pend? p.k = some p ∧ p.act = .fence true true .dev ∧ released s t p)
    ∧ (∃ (s : State) (t : Troupe) (p : Pend), s.troupe? t.wg t.trix = some t ∧ t.pend? p.k = some p ∧ p.act = .phadv (some 60) ∧ t.die < s.dies.length
      ∧ ∀ h, h < s.dies.length → ((s.die t.die).dph - (s.die h).phcomp.getD t.die 0).toNat < 2 ^ 15 - 1)
    ∧ (∃ (s : State) (t : Troupe) (p : Pend), ∃ w c, s.troupe? t.wg t.trix = some t ∧ t.pend? p.k = some p ∧ p.act = .rcntadd 255 0xFFFFFFFF 0 ∧ s.releaseDone t p.k .dev 0 = true
      ∧ s.wgOf t = some w ∧ s.ctx? w.ctx = some c)
    ∧ ∃ (s : State) (t : Troupe) (p : Pend), ∃ r, s.troupe? t.wg t.trix = some t ∧ t.pend? p.k = some p ∧ p.act = .vregs [(99, 99)] allLanes [[]] ∧ t.vreg? 99 = some r ∧ r.token = 99 :=
  ⟨⟨box (pendT (.fence true true .dev)), pendT (.fence true true .dev), pendOf (.fence true true .dev), rfl, rfl, rfl,
      fun _ => by decide +kernel, fun _ => by decide +kernel⟩,
    ⟨box (pendT (.phadv (some 60))), pendT (.phadv (some 60)), pendOf (.phadv (some 60)), rfl, rfl, rfl, by decide, by decide +kernel⟩,
    ⟨box (pendT (.rcntadd 255 0xFFFFFFFF 0)), pendT (.rcntadd 255 0xFFFFFFFF 0), pendOf (.rcntadd 255 0xFFFFFFFF 0), wgT, placedCtx, rfl, rfl, rfl,
      by decide +kernel, rfl, rfl⟩,
    box (pendT (.vregs [(99, 99)] allLanes [[]])), pendT (.vregs [(99, 99)] allLanes [[]]), pendOf (.vregs [(99, 99)] allLanes [[]]), regT 99 (BitVec.ofNat 32),
      rfl, rfl, rfl, by decide +kernel, rfl⟩

def shWait : Shape := ⟨[.sp 16 31], [.immIn 0 63], [.unused]⟩
def waitT (n : Nat) : Troupe := { heroT with acs := List.replicate 15 0 ++ [n], errpend := 0x8000, faults := (1#64 <<< 63) :: List.replicate 95 0 }
/-- A count just above n and just at it; the second raises an error arrival. -/
theorem witness_ArrivalWait :
    ((box (waitT 63)).issuesWith (waitT 63) plainT (ops (fO (pO 31) (iO 62) (iO 0)) shWait) true ∧ (box (waitT 63)).memFree (waitT 63)
      ∧ takes (box (waitT 63)) (waitT 63) plainT = true ∧ 62 < (waitT 63).acs.getD 15 0)
    ∧ ((box heroT).issuesWith heroT plainT (ops (fO (pO 16) (iO 0) (iO 0)) shWait) true ∧ (box heroT).memFree heroT
      ∧ takes (box heroT) heroT plainT = true ∧ heroT.acs.getD 0 0 ≤ 0 ∧ heroT.errpend.getLsbD 0 = false)
    ∧ ((box heroT).issuesWith heroT ⟨7, true, 0, 0, 15, false⟩ (ops (fNone (pO 16) (iO 0) (iO 0)) shWait) true
      ∧ takes (box heroT) heroT ⟨7, true, 0, 0, 15, false⟩ = false)
    ∧ (box (waitT 63)).issuesWith (waitT 63) plainT (ops (fO (pO 31) (iO 63) (iO 0)) shWait) true ∧ (waitT 63).acs.getD 15 0 ≤ 63
      ∧ (waitT 63).errpend.getLsbD 15 = true ∧ (waitT 63).intrap = false ∧ lowest (maskOf fun l => ((waitT 63).faults.getD l 0).getLsbD 63) = some 0 :=
  ⟨⟨iss, by unfold State.memFree; decide +kernel, by decide +kernel, by decide⟩,
    ⟨iss, by unfold State.memFree; decide +kernel, by decide +kernel, by decide, by decide⟩, ⟨iss, by decide +kernel⟩,
    iss, by decide, by decide, rfl, by decide +kernel⟩
/-- What `Looks` asks, as a test on one state. -/
def looksB (s : State) (t : Troupe) (va : DWord) (n : Nat) (b : List Byte) : Bool :=
  !s.pendingAt t va n && match s.ctxOf t with
    | none => false
    | some c => match s.translate c t.die .read va with
      | .at loc _ => decide (locKind loc ≠ 15 ∧ s.gap t.die (c.homeOf t.die loc) = none ∧ s.storeUnder t.die (loc / 64) = false
          ∧ s.farFault c loc b.length = none ∧ s.lost? (c.homeOf t.die loc) (loc / 64) = none ∧ s.notPresent loc b.length = false
          ∧ s.badLines loc b.length = none ∧ s.view loc b.length = b)
      | _ => false
theorem looks {s : State} {t : Troupe} {va : DWord} {n : Nat} {b : List Byte} (h : looksB s t va n b = true) : Looks s t va n b := by
  unfold looksB at h
  rw [Bool.and_eq_true] at h
  refine ⟨by simpa using h.1, ?_⟩
  have h2 := h.2
  split at h2
  · exact absurd h2 (by decide)
  · rename_i c hc
    split at h2
    · rename_i loc p hp
      exact ⟨c, loc, p, hc, hp, of_decide_eq_true h2⟩
    · exact absurd h2 (by decide)

/-- An object at address 0: generation 5, two expected, none arrived, made by generation 4; its valid byte. -/
def objectBytes : List Byte := [5, 0, 0, 0, 2, 0, 0, 0, 0, 0, 0, 0, 4, 0, 0, 0, 1]
def objBox (t : Troupe) (b : List Byte) : State := { box t with mem := placedMem [] b }
/-- One active lane; s2:s3 is 0, s20 holds a generation. -/
def oneT (gen : Word) : Troupe := withS [(61, 1), (62, 0), (63, 0), (2, 0), (3, 0), (20, gen), (21, 2)]

def wM : MForm := fM (sO 20) (sO 2) ⟨0, 1, 0, 5, 5, 0⟩
def shWaitmem : Shape := ⟨[.sd 2 60], shPair, []⟩
/-- Eight bytes that differ from s20:s21, and eight that do not. -/
theorem witness_MemoryWait :
    ((objBox (oneT 4) objectBytes).issuesWith (oneT 4) plainT (opsC wM shWaitmem) (wM.attr.fits ⟨[4, 5], [0, 1], false, true, 5, List.range 64⟩)
      ∧ (objBox (oneT 4) objectBytes).memFree (oneT 4) ∧ lowest (eff (objBox (oneT 4) objectBytes) (oneT 4) plainT) = some 0
      ∧ agree (objBox (oneT 4) objectBytes) (oneT 4) plainT 1 2 (sO 2) ∧ (address (objBox (oneT 4) objectBytes) (oneT 4) wM 8 0).toNat % 8 = 0
      ∧ Looks (objBox (oneT 4) objectBytes) (oneT 4) (address (objBox (oneT 4) objectBytes) (oneT 4) wM 8 0) 8 [5, 0, 0, 0, 2, 0, 0, 0])
    ∧ ((objBox (oneT 5) objectBytes).issuesWith (oneT 5) plainT (opsC wM shWaitmem) (wM.attr.fits ⟨[4, 5], [0, 1], false, true, 5, List.range 64⟩)
      ∧ Looks (objBox (oneT 5) objectBytes) (oneT 5) (address (objBox (oneT 5) objectBytes) (oneT 5) wM 8 0) 8 [5, 0, 0, 0, 2, 0, 0, 0]
      ∧ leW [5, 0, 0, 0, 2, 0, 0, 0] = 0x200000005)
    ∧ ((objBox (oneT 5) objectBytes).issuesWith (oneT 5) ⟨7, true, 0, 0, 15, false⟩ (opsC ⟨⟨7, true, 0, 0, 15, false⟩, sO 20, sO 2, wM.attr⟩ shWaitmem)
        (wM.attr.fits ⟨[4, 5], [0, 1], false, true, 5, List.range 64⟩)
      ∧ (objBox (oneT 5) objectBytes).memFree (oneT 5) ∧ eff (objBox (oneT 5) objectBytes) (oneT 5) ⟨7, true, 0, 0, 15, false⟩ = 0)
    ∧ ∃ (s : State) (t : Troupe), s.troupe? t.wg t.trix = some t ∧ t.stopped = false
      ∧ t.wait = .mem 0 0 59 true .own .sys true none 7 [] ∧ Looks s t 0 8 [5, 0, 0, 0, 2, 0, 0, 0] :=
  ⟨⟨isi, by unfold State.memFree; decide +kernel, by decide +kernel, fun h => absurd h (by decide), by decide +kernel, looks (by decide +kernel)⟩,
    ⟨isi, looks (by decide +kernel), by decide⟩, ⟨isi, by unfold State.memFree; decide +kernel, by decide +kernel⟩,
    objBox { oneT 5 with wait := .mem 0 0 59 true .own .sys true none 7 [] } objectBytes, { oneT 5 with wait := .mem 0 0 59 true .own .sys true none 7 [] },
    rfl, rfl, rfl, looks (by decide +kernel)⟩

def bM : MForm := fM (sO 20) (sO 2) ⟨0, 0, 0, 4, 5, 0⟩
def shBowait : Shape := ⟨[.sd 1 60], shPair, []⟩
/-- The generation stands; it has moved on; the object is invalid for a recheck. -/
theorem witness_ObjectWait :
    ((objBox (oneT 5) objectBytes).issuesWith (oneT 5) plainT (opsC bM shBowait) (bM.attr.fits ⟨[4], [0], false, true, 5, [0]⟩)
      ∧ (objBox (oneT 5) objectBytes).memFree (oneT 5) ∧ acts (objBox (oneT 5) objectBytes) (oneT 5) plainT false
      ∧ (leaderVa (objBox (oneT 5) objectBytes) (oneT 5) plainT (sO 2)).toNat % 64 = 0
      ∧ Looks (objBox (oneT 5) objectBytes) (oneT 5) (leaderVa (objBox (oneT 5) objectBytes) (oneT 5) plainT (sO 2)) 64 objectBytes
      ∧ byteAt objectBytes 16 = 1 ∧ leAt objectBytes 0 4 = 5)
    ∧ ((objBox (oneT 4) objectBytes).issuesWith (oneT 4) plainT (opsC bM shBowait) (bM.attr.fits ⟨[4], [0], false, true, 5, [0]⟩)
      ∧ Looks (objBox (oneT 4) objectBytes) (oneT 4) (leaderVa (objBox (oneT 4) objectBytes) (oneT 4) plainT (sO 2)) 64 objectBytes
      ∧ ¬leftBehind (leAt objectBytes 12 4) 4)
    ∧ ((objBox (oneT 4) objectBytes).issuesWith (oneT 4) ⟨7, true, 0, 0, 15, false⟩ (opsC ⟨⟨7, true, 0, 0, 15, false⟩, sO 20, sO 2, bM.attr⟩ shBowait)
        (bM.attr.fits ⟨[4], [0], false, true, 5, [0]⟩) ∧ ¬acts (objBox (oneT 4) objectBytes) (oneT 4) ⟨7, true, 0, 0, 15, false⟩ false)
    ∧ (∃ (s : State) (t : Troupe), s.troupe? t.wg t.trix = some t ∧ t.stopped = false ∧ t.wait = .bo 0 0 60 .sys none 3 [] ∧ Looks s t 0 64 objectBytes
      ∧ leAt objectBytes 0 4 ≠ 3 ∧ leftBehind (leAt objectBytes 12 4) 3) :=
  ⟨⟨isi, by unfold State.memFree; decide +kernel, by show takes _ _ _ = true; decide +kernel, by decide +kernel, looks (by decide +kernel), by decide, by decide⟩,
    ⟨isi, looks (by decide +kernel), by unfold leftBehind; decide⟩,
    ⟨isi, by show ¬(takes _ _ _ = true); decide +kernel⟩,
    objBox { oneT 5 with wait := .bo 0 0 60 .sys none 3 [] } objectBytes, { oneT 5 with wait := .bo 0 0 60 .sys none 3 [] },
    rfl, rfl, rfl, looks (by decide +kernel), by decide, by unfold leftBehind; decide⟩

def rangeOps (f : OForm) : Opnds := ops f ⟨[.unused], [.sr 2 60], [.sr 1 63, .imm]⟩
def rangeT : Troupe := withS [(2, 0), (3, 0)]
/-- A dirty tracked line of address 0 in the core's L1, in the range. -/
def lineT (dirty : BitVec 64) : CLine := ⟨0, some 0, (dieBase 0 + 4096 * 5) / 64, List.replicate 64 7, BitVec.allOnes 64, dirty, true, true, false, 0⟩
def rangeBox : State := { box rangeT with lines := [lineT 1] }
theorem witness_CacheRanges :
    (rangeBox.issuesWith rangeT plainT (rangeOps (fO (iO 0) (sO 2) (iO 64))) true ∧ rangeBox.memFree rangeT ∧ rangeBox.ctxOf rangeT = some placedCtx
      ∧ eff rangeBox rangeT plainT ≠ 0 ∧ rangeBox.pendingAt (rangeBox.atIssue rangeT) 0 64 = false
      ∧ inRange rangeBox placedCtx 0 64 (lineT 1).line)
    ∧ rangeBox.issuesWith rangeT ⟨7, true, 0, 0, 15, false⟩ (rangeOps (fNone (iO 0) (sO 2) (iO 64))) true
    ∧ eff rangeBox rangeT ⟨7, true, 0, 0, 15, false⟩ = 0 :=
  ⟨⟨isi, by unfold State.memFree; decide +kernel, rfl, by decide +kernel, by decide +kernel,
      0, 0, (⟨1, 0, false, false, false, true, true, true, false⟩ : LeafSpec).pte 5, 1, dieBase 0 + 4096 * 4, dieBase 0 + 4096 * 5,
      by decide, by decide, by decide, by decide, by decide +kernel, by decide +kernel, .inl (by decide +kernel), by decide +kernel, by decide +kernel⟩,
    isi, by decide +kernel⟩

theorem witness_ObjectRequests :
    ((box rangeT).issuesWith rangeT plainT (ops (fO (iO 0) (sO 2) (iO (-1))) ⟨[.unused], shPair, [.sr 1 63, .imm]⟩) true
      ∧ (box rangeT).memFree rangeT ∧ agree (box rangeT) rangeT plainT 1 2 (sO 2) ∧ acts (box rangeT) rangeT plainT false
      ∧ (leaderVa (box rangeT) rangeT plainT (sO 2)).toNat % 64 = 0)
    ∧ (box rangeT).issuesWith rangeT plainT (ops (fO (iO 0) (sO 2) (iO 0)) ⟨[.unused], shPair, [.unused]⟩) true
    ∧ ((box rangeT).issuesWith rangeT plainT (opsC (fM (sO 60) (sO 2) ⟨0, 0, 15, 4, 4, 0⟩) ⟨[.sd 1 60], shPair, []⟩)
        ((⟨0, 0, 15, 4, 4, 0⟩ : Attr).fits ⟨[4], [0], true, true, 5, [0]⟩)
      ∧ (box rangeT).memHold ((box rangeT).atIssue rangeT) (some 15) true .dev = false)
    ∧ ¬acts (box rangeT) rangeT ⟨7, true, 0, 0, 15, false⟩ false :=
  ⟨⟨iss, by unfold State.memFree; decide +kernel, fun h => absurd h (by decide), by show takes _ _ _ = true; decide +kernel, by decide +kernel⟩, iss,
    ⟨iss, by decide +kernel⟩, by show ¬(takes _ _ _ = true); decide +kernel⟩
/-- Two active lanes that agree on a vector operand. -/
theorem witness_agree : agree (box padT) padT plainT 1 1 (vO 51) := by
  intro _ l m j hl hm hj _ _
  have h : ∀ a, a < 96 → ∀ j, j < 1 → lane ((box padT).rdLanes ((box padT).atIssue padT) 1 (vO 51) j) a = 0 := by decide +kernel
  rw [h l hl j hj, h m hm j hj]
def offC : Ctl := ⟨7, true, 0, 0, 15, false⟩
theorem memFreeB {s : State} {t : Troupe} (h : s.memHeld (s.atIssue t) = false := by decide +kernel) : s.memFree t := h

/-- A workgroup of two troupes, of which the second has not arrived. -/
def pairBox (t : Troupe) : State := { box t with troupes := [t, { heroT with trix := 1 }], wgs := [{ wgT with troupes := 2 }] }
def waitsB : Troupe := { heroT with barGen := List.replicate 7 none ++ [some 0] }
theorem witness_WorkgroupBarriers :
    ((box heroT).issuesWith heroT plainT (ops (fO (iO 0) (pO 55) (iO 0)) shBar) true ∧ (box heroT).memFree heroT ∧ (box heroT).wgOf heroT = some wgT
      ∧ 7 < wgT.nbars ∧ 7 < wgT.bars.length ∧ 7 < heroT.barGen.length ∧ takes (box heroT) heroT plainT = true ∧ heroT.arrived = false
      ∧ heroT.trix ∉ (wgT.bar 7).arrived ∧ (box heroT).releaseDone ((box heroT).atIssue heroT) (box heroT).fresh .wg 0 = true
      ∧ allHere (box heroT) heroT wgT 7 ∧ ∀ g, heroT.barGen.getD 7 none = some g → g < (wgT.bar 7).gen)
    ∧ ((pairBox heroT).issuesWith heroT plainT (ops (fO (iO 0) (pO 55) (iO 0)) shBar) true ∧ ¬allHere (pairBox heroT) heroT wgT 7)
    ∧ ((box waitsB).issuesWith waitsB plainT (ops (fO (iO 0) (pO 55) (iO 0)) shBar) true ∧ ¬∀ g, waitsB.barGen.getD 7 none = some g → g < (wgT.bar 7).gen)
    ∧ (box heroT).issuesWith heroT offC (ops (fNone (iO 0) (pO 48) (iO 0)) shBar) true ∧ takes (box heroT) heroT offC = false :=
  ⟨⟨iss, memFreeB, rfl, by decide, by decide, by decide, by decide +kernel, rfl, by decide, by decide +kernel, by unfold allHere; decide +kernel,
      (fun g h => by cases h)⟩,
    ⟨isi, by unfold allHere; decide +kernel⟩, ⟨iss, fun h => absurd (h 0 rfl) (by decide)⟩, iss, by decide +kernel⟩

/-- Tag 7 of eight, record bit set; the armed one on counter 255, at its threshold. -/
def copyT : Troupe := withS [(20, 0x147), (2, 0x40), (3, 0), (30, 0xFF0047), (32, 0)]
theorem witness_CopiesStart :
    ((box copyT).issuesWith copyT plainT (ops (fO (sO 20) (sO 2) (sO 4)) (shCopy 2)) true ∧ (box copyT).memFree copyT ∧ (box copyT).wgOf copyT = some wgT
      ∧ agree (box copyT) copyT plainT 1 2 (sO 2) ∧ acts (box copyT) copyT plainT false ∧ controlOk false wgT.ntags (sD (box copyT) copyT (fO (sO 20) (sO 2) (sO 4)) 0)
      ∧ (leadWord (box copyT) copyT plainT 1 (sO 2) 0).toNat % 64 = 0 ∧ (wgT.tag 7).count < 255 ∧ (box copyT).copiesOn copyT.die < 2048 ∧ 7 < wgT.tags.length)
    ∧ ((box copyT).issuesWith copyT offC (ops (fNone (sO 20) (sO 2) (sO 4)) (shCopy 2)) true ∧ ¬acts (box copyT) copyT offC false)
    ∧ ((box copyT).issuesWith copyT plainT (ops (fO (sO 30) (sO 2) (sO 4)) (shCopy 3)) true ∧ (box copyT).ctx? wgT.ctx = some placedCtx
      ∧ controlOk true wgT.ntags (sD (box copyT) copyT (fO (sO 30) (sO 2) (sO 4)) 0) ∧ (box copyT).armedOn placedCtx.lowDie < 4096)
    ∧ (box copyT).issuesWith copyT plainT (ops (fO (iO 0) (sO 20) (iO 0)) ⟨[.unused], [.sr 2 60], [.unused]⟩) true :=
  ⟨⟨iss, memFreeB, rfl, fun h => absurd h (by decide), by show takes _ _ _ = true; decide +kernel, by unfold controlOk; decide +kernel, by decide +kernel,
      by decide, by decide, by decide⟩,
    ⟨iss, by show ¬(takes _ _ _ = true); decide +kernel⟩, ⟨iss, rfl, by unfold controlOk; decide +kernel, by decide⟩, iss⟩

/-- A second workgroup of the launch on core 3 of the cluster; handle 0 is bound; a copy under way that keeps it busy. -/
def wgT2 : Workgroup := { wgT with id := 2, w := 1, core := 3 }
def giveBox (t : Troupe) : State := { box t with wgs := [{ wgT with binds := [⟨0, 0, 0, none⟩] }, wgT2], bufs := [⟨0, 0, 1, 5, [], []⟩] }
def bindT : Binding := ⟨0, 0, 0, none⟩
theorem witness_ScratchpadBuffers :
    ((box heroT).issuesWith heroT plainT (ops (fO (sO 60) (iO 0) (iO 0)) shGet) true ∧ (box heroT).memFree heroT ∧ takes (box heroT) heroT plainT = true
      ∧ ((box heroT).bufs.filter fun b => b.wg == wgT.id).length < wgT.bufs ∧ wgT.binds.length < 64 ∧ (box heroT).buf? 0 0 = none)
    ∧ ((giveBox heroT).issuesWith heroT plainT (ops (fO (sO 60) (sO 0) (iO 1)) shGive) true ∧ (giveBox heroT).memFree heroT
      ∧ (giveBox heroT).wgOf heroT = some { wgT with binds := [bindT] } ∧ takes (giveBox heroT) heroT plainT = true
      ∧ Workgroup.bound? { wgT with binds := [bindT] } ((sA (giveBox heroT) heroT (fO (sO 60) (sO 0) (iO 1)) 0).toNat % 2 ^ 16) = some bindT
      ∧ (giveBox heroT).bufBusy heroT.wg 0 0 = false ∧ (giveBox heroT).releaseDone ((giveBox heroT).atIssue heroT) (giveBox heroT).fresh .cl 0 = true
      ∧ (giveBox heroT).receiver heroT 1 = some wgT2 ∧ (giveBox heroT).wg? wgT2.id = some wgT2 ∧ wgT2.id ≠ heroT.wg)
    ∧ ((giveBox heroT).issuesWith heroT plainT (ops (fO (sO 60) (sO 0) (iO 2)) shGive) true ∧ (giveBox heroT).receiver heroT 2 = none)
    ∧ (giveBox heroT).issuesWith heroT plainT (ops (fO (iO 0) (sO 0) (iO 0)) shFree) true
    ∧ ((box heroT).issuesWith heroT plainT (ops (fO (iO 0) (sO 0) (iO 0)) shFree) true ∧ (box heroT).issuesWith heroT plainT (ops (fO (sO 60) (sO 0) (iO 0)) shGive) true
      ∧ wgT.bound? ((sA (box heroT) heroT (fO (iO 0) (sO 0) (iO 0)) 0).toNat % 2 ^ 16) = none)
    ∧ ∃ c, { giveBox heroT with copies := [c] }.bufBusy heroT.wg 0 0 = true :=
  ⟨⟨iss, memFreeB, by decide +kernel, by decide, by decide, by decide⟩,
    ⟨isi, memFreeB, rfl, by decide +kernel, by decide +kernel, by decide, by decide +kernel, by decide, by decide, by decide⟩,
    ⟨isi, by decide⟩, isi, ⟨iss, iss, by decide +kernel⟩,
    captured (box copyT) copyT (fO (sO 20) (sO 2) (sO 4)) wgT 7 .waiting 0, by decide +kernel⟩
theorem witness_ScratchpadBuffers_full :
    ¬(((giveBox heroT).bufs.filter fun b => b.wg == wgT.id).length < 1 ∧ ({ wgT with bufs := 1 } : Workgroup).binds.length < 64) := by decide

/-- A solo BF16 tile in slot 63; a tile of two E2M1 slots in 62 and 63, sparse B. -/
def tileT : Troupe := { withS [(30, 0x43F), (31, 0)] with regs := (List.range 100).map fun n => regT n (BitVec.ofNat 32) }
theorem witness_MatrixOperationsIssue :
    ((box heroT).issuesWith heroT plainT (ops (fO (vO 191) (iO 0) (iO 0)) ⟨[.vw 64 false], [.unused], [.unused]⟩) true → False)
    ∧ ((box heroT).issuesWith heroT plainT (ops (fO (vO 136) (iO 0) (iO 0)) ⟨[.vw 64 false], [.unused], [.unused]⟩) true ∧ quarterFree (box heroT) heroT)
    ∧ (box heroT).issuesWith heroT plainT (ops (fO (vO 36) (sO 1) (iO 0)) ⟨[.vd 64 false], [.sr 1 63], [.unused]⟩) (!isLast (vO 36))
    ∧ ((box tileT).issuesWith tileT plainT (ops (fO (vO 0) (vO 64) (sO 30)) ⟨[.vd 64 false], [.vd 1 false], [.sr 4 60]⟩) (!isLast (vO 0))
      ∧ quarterFree (box tileT) tileT ∧ (box tileT).memFree tileT ∧ tileWord (formatIndex .bf16) (sB (box tileT) tileT (fO (vO 0) (vO 64) (sO 30)) 0)
      ∧ mayStart tileT (sB (box tileT) tileT (fO (vO 0) (vO 64) (sO 30)) 0) ∧ usableA tileT (fO (vO 0) (vO 64) (sO 30)) (windowA 4 0))
    ∧ (box tileT).issuesWith tileT plainT (ops (fO (vO 0) (sO 1) (sO 30)) ⟨[.vd 64 false], [.sr 1 63], [.sr 4 60]⟩) (!isLast (vO 0))
      ∧ cSp (sB (box tileT) tileT (fO (vO 0) (sO 1) (sO 30)) 0) = 0 ∧ (sA (box tileT) tileT (fO (vO 0) (sO 1) (sO 30)) 0).toNat % 64 = 0 :=
  ⟨fun h => absurd h.2.1 (by decide +kernel),
    ⟨iss, (fun p hp => by cases hp), by decide, by decide⟩, iss,
    ⟨iss, ⟨(fun p hp => by cases hp), by decide, by decide⟩, memFreeB, by unfold tileWord; decide +kernel, .inl (by decide +kernel),
      by unfold usableA; decide +kernel⟩,
    iss, by decide +kernel, by decide +kernel⟩

def batchT (b : Batch) : Troupe := { heroT with batches := List.replicate 7 .idle ++ [b] }
def doneB : Batch := { Batch.idle with closed := true, count := 1, err := some (0x10, 300) }
def busyB : Batch := { Batch.idle with closed := true, count := 1, left := 1 }
theorem witness_MatrixBatches :
    ((box tileT).issuesWith tileT plainT (opsC (fM (sO 30) (sO 4) ⟨0, 0, 15, 0, 4, 0⟩) ⟨[.sr 1 63], [.sr 2 60], []⟩)
        ((⟨0, 0, 15, 0, 4, 0⟩ : Attr).fits ⟨[0], [0], true, true, 5, [0]⟩)
      ∧ (box tileT).memHold ((box tileT).atIssue tileT) (some 15) false .tr = false ∧ (∀ p ∈ tileT.pend, p.act ≠ .mrdy)
      ∧ takes (box tileT) tileT plainT = true ∧ tileWord 4 0x43F ∧ cJid 0x43F = 0 ∧ cMask 0x43F = 0)
    ∧ (box heroT).issuesWith heroT plainT (ops (fO (iO 0) (iO 0) (iO 0)) shNo) true
    ∧ ((box heroT).issuesWith heroT plainT (ops (fO (iO 0) (iO 7) (iO 0)) ⟨[.unused], [.immIn 0 7], [.unused]⟩) true ∧ heroT.batches.length = 8)
    ∧ ((box (batchT busyB)).issuesWith (batchT busyB) plainT (ops (fO (sO 60) (iO 7) (iO 0)) ⟨[.sw 1 60], [.immIn 0 7], [.unused]⟩) true
      ∧ ((batchT busyB).batches.getD 7 Batch.idle).left ≠ 0)
    ∧ (box (batchT doneB)).issuesWith (batchT doneB) plainT (ops (fO (sO 60) (iO 7) (iO 0)) ⟨[.sw 1 60], [.immIn 0 7], [.unused]⟩) true
      ∧ ((batchT doneB).batches.getD 7 Batch.idle).left = 0 ∧ ((batchT doneB).batches.getD 7 Batch.idle).err = some (0x10, 300) :=
  ⟨⟨iss, by decide +kernel, (fun p hp => by cases hp), by decide +kernel, by unfold tileWord; decide +kernel, by decide, by decide⟩, iss, ⟨iss, rfl⟩, ⟨iss, by decide⟩, iss, rfl, rfl⟩

/-- A graph of 64 nodes whose records are 16 bytes, of depth limits 4 and 5, on level 2. -/
def gKd : Kdesc := ⟨0, 32, 1, 128, 0, 0, 0, 0, 16, 5, 0⟩
def gNode : GNode := ⟨gKd, 64, 0, 0, 2, 0⟩
def gT : Graph := ⟨2, 4, 0, 0, List.replicate 64 gNode, 0, 0, [], [], [], []⟩
def gWg : Workgroup := { wgT with node := some (2, 0), lvl := 2 }
def graphBox (t : Troupe) : State := { box t with graphs := [gT], wgs := [gWg] }
/-- A troupe whose lane 95 holds a record of depth 4. -/
def deepT : Troupe := { heroT with lrecs := List.replicate 95 none ++ [some ⟨2, 0, 0, some 0, 4, false⟩] }
theorem noGraph (n : Nat) (b : Bool) : recordNames (box heroT) heroT n b 0 := .inr ⟨(fun _ _ h => nomatch h.1), rfl⟩
theorem graphTakes (t : Troupe) (n : Nat) (b : Bool) (ht : (graphBox t).wgOf t = some gWg := by rfl)
    (hn : gT.node? n = some gNode := by rfl) : takesRecords (graphBox t) t n b gT gNode :=
  ⟨by unfold State.graphOf; rw [ht]; rfl, rfl, hn, fun _ => rfl⟩

theorem witness_QueueInstructions_emit :
    ((Instr.remit (fNone (vO 120) (vO 10) (iO 0)) = .remit (fNone (vO 120) (vO 10) (iO 0)) ∧ false = false)
      ∧ recordNames (box heroT) heroT ((sB (box heroT) heroT (fNone (vO 120) (vO 10) (iO 0)) 0).toNat % 64) false 0
      ∧ (box heroT).issuesWith heroT offC (ops (fNone (vO 120) (vO 10) (iO 0)) (shEmit 0)) true
      ∧ (box heroT).memHold ((box heroT).atIssue heroT) none true .dev = false ∧ eff (box heroT) heroT offC = 0)
    ∧ (recordNames (graphBox heroT) heroT ((sB (graphBox heroT) heroT (fO (vO 120) (vO 10) (iO 1023)) 0).toNat % 64) true 4
      ∧ (graphBox heroT).issuesWith heroT plainT (ops (fO (vO 120) (vO 10) (iO 1023)) (shEmit 4)) true
      ∧ (graphBox heroT).memHold ((graphBox heroT).atIssue heroT) none true .dev = false ∧ eff (graphBox heroT) heroT plainT ≠ 0
      ∧ (sB (graphBox heroT) heroT (fO (vO 120) (vO 10) (iO 1023)) 0).toNat < 2 ^ 10
      ∧ ∀ l, l < 96 → depthFails gT gNode (((heroT.lrecs.getD l none).map LaneRec.depth).getD 0 + 1) = false)
    ∧ (recordNames (graphBox deepT) deepT ((sB (graphBox deepT) deepT (fO (vO 120) (vO 10) (iO 0x23F)) 0).toNat % 64) true 4
      ∧ (graphBox deepT).issuesWith deepT plainT (ops (fO (vO 120) (vO 10) (iO 0x23F)) (shEmit 4)) true
      ∧ (sB (graphBox deepT) deepT (fO (vO 120) (vO 10) (iO 0x23F)) 0).getLsbD 9 = true
      ∧ takesRecords (graphBox deepT) deepT 63 true gT gNode
      ∧ depthFails gT gNode (((deepT.lrecs.getD 95 none).map LaneRec.depth).getD 0 + 1) = true)
    ∧ ((box heroT).issuesWith heroT plainT (ops (fO (vO 120) (vO 10) (iO 1024)) (shEmit 0)) true
      ∧ 2 ^ 10 ≤ (sB (box heroT) heroT (fO (vO 120) (vO 10) (iO 1024)) 0).toNat) :=
  ⟨⟨⟨rfl, rfl⟩, noGraph _ _, iss, by decide +kernel, by decide +kernel⟩,
    ⟨.inl ⟨gT, gNode, by exact graphTakes _ _ _, rfl⟩, isi, by decide +kernel, by decide +kernel, by decide +kernel, by decide⟩,
    ⟨.inl ⟨gT, gNode, by exact graphTakes _ _ _, rfl⟩, isi, by decide +kernel, graphTakes _ _ _, by decide⟩, iss, by decide +kernel⟩

theorem witness_QueueInstructions_others :
    ((box heroT).issuesWith heroT offC (ops (fNone (vO 120) (iO 0) (iO 0)) shDeq) true ∧ (box heroT).memFree heroT ∧ eff (box heroT) heroT offC = 0)
    ∧ ((graphBox heroT).issuesWith heroT plainT (ops (fO (vO 120) (iO 0) (iO 511)) shDeq) true ∧ (graphBox heroT).memFree heroT
      ∧ eff (graphBox heroT) heroT plainT ≠ 0 ∧ (sB (graphBox heroT) heroT (fO (vO 120) (iO 0) (iO 511)) 0).toNat < 2 ^ 9)
    ∧ (box heroT).issuesWith heroT offC (ops (fNone (iO 0) (iO 0) (iO 0)) shNo) true
    ∧ ((box heroT).issuesWith heroT plainT (ops (fO (iO 0) (iO 0) (iO 0)) shNo) true ∧ (box heroT).memFree heroT ∧ eff (box heroT) heroT plainT ≠ 0)
    ∧ (graphBox heroT).issuesWith heroT plainT (ops (fO (iO 0) (iO 3) (iO 0)) ⟨[.unused], [.sr 1 63, .imm], [.unused]⟩) true
      ∧ (graphBox heroT).memFree heroT ∧ (graphBox heroT).wgOf heroT = some gWg ∧ takes (graphBox heroT) heroT plainT = true
      ∧ gWg.part < (graphBox heroT).partitions.length :=
  ⟨⟨iss, memFreeB, by decide +kernel⟩, ⟨isi, memFreeB, by decide +kernel, by decide +kernel⟩, iss, ⟨iss, memFreeB, by decide +kernel⟩,
    isi, memFreeB, rfl, by decide +kernel, by decide⟩

def mD4 (f : MForm) : Opnds := opsM f ⟨[.vw 4 false], shPair, []⟩
/-- A pair of zeros in every lane addresses the object at 0. -/
def zeroT : Troupe := { heroT with sregs := heroT.sregs.set 2 0 }
theorem witness_ObjectLaneRequests :
    (∃ i f d rule back sc o land req, ∃ (s : State) (t : Troupe), ObjectLanes s t i f d rule back sc o land req ∧ i = .depinit f
      ∧ s.issuesWith t f.c (opsM f ⟨d, shPair, []⟩) (f.attr.fits rule) ∧ s.memHold (s.atIssue t) (some f.attr.ac.toNat) o.releases sc = false
      ∧ (∀ l, l < 96 → (address s t f 0 l).toNat % 32 = 0) ∧ eff s t f.c ≠ 0)
    ∧ (∃ i f d rule back sc o land req, ∃ (s : State) (t : Troupe), ObjectLanes s t i f d rule back sc o land req ∧ i = .depdec f
      ∧ s.issuesWith t f.c (opsM f ⟨d, shPair, []⟩) (f.attr.fits rule) ∧ s.memHold (s.atIssue t) (some f.attr.ac.toNat) o.releases sc = false
      ∧ (∀ l, l < 96 → (address s t f 0 l).toNat % 32 = 0) ∧ eff s t f.c ≠ 0)
    ∧ (∃ i f d rule back sc o land req, ∃ (s : State) (t : Troupe), ObjectLanes s t i f d rule back sc o land req ∧ i = .chunk f
      ∧ s.issuesWith t f.c (opsM f ⟨d, shPair, []⟩) (f.attr.fits rule) ∧ s.memHold (s.atIssue t) (some f.attr.ac.toNat) o.releases sc = false
      ∧ (∀ l, l < 96 → (address s t f 0 l).toNat % 32 = 0) ∧ eff s t f.c ≠ 0)
    ∧ ∃ i f d rule back sc o land req, ∃ (s : State) (t : Troupe), ObjectLanes s t i f d rule back sc o land req ∧ i = .depinit f
      ∧ s.issuesWith t f.c (opsM f ⟨d, shPair, []⟩) (f.attr.fits rule) ∧ eff s t f.c = 0 :=
  ⟨⟨_, _, _, _, _, _, _, _, _, graphBox zeroT, zeroT, .depinit (fM (vO 10) (sO 2) ⟨63, 0, 15, 4, 0, 0⟩) gT gNode 4 (graphTakes _ _ _) rfl, rfl, isi,
      by decide +kernel, by decide +kernel, by decide +kernel⟩,
    ⟨_, _, _, _, _, _, _, _, _, box zeroT, zeroT, .depdec (fM (vO 10) (sO 2) ⟨0, 0, 15, 4, 0, 0⟩), rfl, isi,
      by decide +kernel, by decide +kernel, by decide +kernel⟩,
    ⟨_, _, _, _, _, _, _, _, _, box zeroT, zeroT, .chunk (fM (vO 120) (sO 2) ⟨0, 0, 0, 5, 5, 0⟩), rfl, isi,
      by decide +kernel, by decide +kernel, by decide +kernel⟩,
    _, _, _, _, _, _, _, _, _, box heroT, heroT, .depinitFails ⟨offC, vO 10, sO 2, ⟨0, 0, 0, 4, 0, 0⟩⟩ (fun g x h => nomatch h.1), rfl, isi, by decide +kernel⟩

/-- The context with its trap table at address 0, whose entries 0, 1, 0x31 and 255 hold 0x1003, 0, 0x2000 and 0xFFFFFFFFFFFFFFFF. -/
def tableMem : List Host.Cell :=
  let at_ (k : Nat) : Nat := dieBase 0 + 4096 * (placedFrame + 4) + 8 * k
  cellsSet (cellsSet (placedMem [] (natLe 8 0x1003)) (at_ 0x31) (natLe 8 0x2000)) (at_ 0xFF) (List.replicate 8 0xFF)
def trapBox (t : Troupe) : State := { box t with mem := tableMem, ctxs := [{ placedCtx with trap := 1 }] }
def trapCtx : Ctx := { placedCtx with trap := 1 }
def nestT : Troupe := { heroT with intrap := true, tpc := 0x47 }
theorem handlerB {t : Troupe} {cause : Byte} {h : Nat} {b : List Byte} (ht : (trapBox t).ctxOf t = some trapCtx := by rfl)
    (hb : (match (trapBox t).readVa trapCtx t.die .read 3 (BitVec.ofNat 64 (trapCtx.trap.toNat / 2 ^ 11 % 2 ^ 37 * 2 ^ 11 + 8 * cause.toNat)) 8 with
      | .bytes x => x == b | _ => false) = true := by decide +kernel) (hh : leNat b = h := by decide) : handlerIs (trapBox t) t cause h := by
  refine ⟨trapCtx, b, ht, rfl, ?_, hh⟩
  split at hb
  · rename_i x hx
    rw [hx, beq_iff_eq.mp hb]
  · exact absurd hb (by decide)
theorem witness_TrapEntryAndEnd :
    ((trapBox heroT).troupe? heroT.wg heroT.trix = some heroT ∧ heroT.intrap = false ∧ handlerIs (trapBox heroT) heroT 0x31 0x2000)
    ∧ (heroT.intrap = false ∧ handlerIs (trapBox heroT) heroT 0 0x1003 ∧ handlerIs (trapBox heroT) heroT 0xFF 0xFFFFFFFFFFFFFFFF)
    ∧ ((trapBox heroT).troupe? heroT.wg heroT.trix = some heroT ∧ heroT.exited = false ∧ handlerIs (trapBox heroT) heroT 1 0)
    ∧ ((box heroT).troupe? heroT.wg heroT.trix = some heroT ∧ heroT.exited = false
      ∧ ∃ c, (box heroT).ctxOf heroT = some c ∧ c.trap.getLsbD 0 = false)
    ∧ (box nestT).troupe? nestT.wg nestT.trix = some nestT ∧ nestT.exited = false ∧ nestT.intrap = true :=
  ⟨⟨rfl, rfl, handlerB (b := natLe 8 0x2000)⟩, ⟨rfl, handlerB (b := natLe 8 0x1003), handlerB (b := List.replicate 8 0xFF)⟩,
    ⟨rfl, rfl, handlerB (b := List.replicate 8 0)⟩, ⟨rfl, rfl, placedCtx, rfl, rfl⟩, rfl, rfl, rfl⟩

def haltBox : State := { box heroT with ctxs := [{ placedCtx with halten := true }] }
theorem witness_TrapInstructions :
    ((box heroT).issuesWith heroT plainT (ops (fO (iO 0) (iO 0) (iO 0x3FFFF)) ⟨[.unused], [.unused], []⟩) true ∧ takes (box heroT) heroT plainT = true)
    ∧ ((box heroT).issuesWith heroT offC (ops (fNone (iO 0) (iO 0) (iO 5)) ⟨[.unused], [.unused], []⟩) true ∧ takes (box heroT) heroT offC = false)
    ∧ ((box heroT).issuesWith heroT plainT (ops (fO (iO 0) (iO 0) (iO 0)) shNo) true ∧ heroT.intrap = false)
    ∧ ((box nestT).issuesWith nestT plainT (ops (fO (iO 0) (iO 0) (iO 0)) shNo) true ∧ takes (box nestT) nestT plainT = true ∧ nestT.intrap = true)
    ∧ ((box heroT).ctxOf heroT = some placedCtx ∧ (box heroT).wgOf heroT = some wgT ∧ placedCtx.halten = false)
    ∧ (haltBox.issuesWith heroT plainT (ops (fO (iO 0) (iO 0) (iO 0)) shNo) true
      ∧ haltBox.ctxOf heroT = some { placedCtx with halten := true } ∧ haltBox.wgOf heroT = some wgT ∧ takes haltBox heroT plainT = true)
    ∧ (box heroT).cur? = some heroT ∧ (box heroT).readyBare heroT = true ∧ (0x13 : Byte) ≠ 0x12 :=
  ⟨⟨iss, by decide +kernel⟩, ⟨iss, by decide +kernel⟩, ⟨iss, rfl⟩, ⟨iss, by decide +kernel, rfl⟩, ⟨rfl, rfl, rfl⟩,
    ⟨isi, rfl, rfl, by decide +kernel⟩, rfl, by decide +kernel, by decide⟩

def shShrink : Shape := ⟨[.unused], [.sr 1 63, .imm], [.unused]⟩
def shSwreg : Shape := ⟨[.unused], [.sr 2 60], []⟩
def shFault : Shape := ⟨[.vw 2 false], [.unused], [.unused]⟩
def shPcfg : Shape := ⟨[.sw 1 60], [.sr 1 63, .imm], [.unused]⟩
/-- Allotments of 1, of the troupe's own 200, of the workgroup's 250, and one beyond each. -/
def roomBox : State := { box heroT with wgs := [{ wgT with allot := 250 }] }
theorem witness_SystemRegisters :
    ((box heroT).issuesWith heroT plainT (ops (fO (iO 0) (sO 59) (iO 0)) shSwreg) true ∧ specialNumber 0 ∧ takes (box heroT) heroT plainT = true)
    ∧ ((box heroT).issuesWith heroT plainT (ops (fO (iO 0) (sO 59) (iO 0x12)) shSwreg) true ∧ specialNumber 0x12 ∧ heroT.intrap = false)
    ∧ ((box nestT).issuesWith nestT plainT (ops (fO (iO 0) (sO 59) (iO 0x12)) shSwreg) true ∧ nestT.intrap = true
      ∧ takes (box nestT) nestT plainT = true)
    ∧ ((box heroT).issuesWith heroT plainT (ops (fO (iO 0) (iO 1) (iO 0)) shShrink) true ∧ (box heroT).wgOf heroT = some wgT
      ∧ (sA (box heroT) heroT (fO (iO 0) (iO 1) (iO 0)) 0).toNat = 1)
    ∧ ((box heroT).issuesWith heroT plainT (ops (fO (iO 0) (iO 200) (iO 0)) shShrink) true ∧ (sA (box heroT) heroT (fO (iO 0) (iO 200) (iO 0)) 0).toNat = heroT.allot)
    ∧ ((box heroT).issuesWith heroT plainT (ops (fO (iO 0) (iO 201) (iO 0)) shShrink) true ∧ (box heroT).issuesWith heroT plainT (ops (fO (iO 0) (iO 0) (iO 0)) shShrink) true
      ∧ heroT.allot < (sA (box heroT) heroT (fO (iO 0) (iO 201) (iO 0)) 0).toNat ∧ (sA (box heroT) heroT (fO (iO 0) (iO 199) (iO 0)) 0).toNat < heroT.allot)
    ∧ (roomBox.issuesWith heroT plainT (ops (fO (iO 0) (iO 250) (iO 0)) shShrink) true ∧ roomBox.wgOf heroT = some { wgT with allot := 250 })
    ∧ ((box heroT).issuesWith heroT plainT (ops (fO (vO 198) (iO 0) (iO 0)) shFault) true ∧ heroT.faults.length = 96)
    ∧ ((box heroT).issuesWith heroT plainT (ops (fO (sO 60) (iO 95) (iO 0)) shPcfg) true ∧ (sA (box heroT) heroT (fO (sO 60) (iO 95) (iO 0)) 0).toNat < 96)
    ∧ (box heroT).issuesWith heroT plainT (ops (fO (sO 60) (iO 96) (iO 0)) shPcfg) true ∧ 96 ≤ (sA (box heroT) heroT (fO (sO 60) (iO 96) (iO 0)) 0).toNat :=
  ⟨⟨iss, by unfold specialNumber; decide, by decide +kernel⟩, ⟨iss, by unfold specialNumber; decide, rfl⟩, ⟨iss, rfl, by decide +kernel⟩,
    ⟨iss, rfl, by decide +kernel⟩, ⟨iss, by decide +kernel⟩, ⟨iss, iss, by decide +kernel, by decide +kernel⟩, ⟨isi, rfl⟩, ⟨iss, rfl⟩,
    ⟨iss, by decide +kernel⟩, iss, by decide +kernel⟩

/-- One arrival outstanding; a leftover report. -/
def busyT : Troupe := { heroT with acs := 1 :: List.replicate 15 0 }
theorem witness_ExitEndsTroupe :
    ((box heroT).issuesWith heroT offC (ops (fNone (iO 0) (iO 0) (iO 0)) shNo) true ∧ takes (box heroT) heroT offC = false)
    ∧ ((box busyT).issuesWith busyT plainT (ops (fO (iO 0) (iO 0) (iO 0)) shNo) true ∧ takes (box busyT) busyT plainT = true ∧ ∃ n ∈ busyT.acs, n ≠ 0)
    ∧ ((box heroT).issuesWith heroT plainT (ops (fO (iO 0) (iO 0) (iO 0)) shNo) true ∧ (box heroT).wgOf heroT = some wgT ∧ takes (box heroT) heroT plainT = true
      ∧ ¬(heroT.flags ≠ 0 ∨ (∃ n ∈ heroT.acs, n ≠ 0) ∨ heroT.openBatch.left ≠ 0 ∨ (∃ b ∈ heroT.batches, b.left ≠ 0)
        ∨ ∃ p ∈ heroT.pend, ∃ d g r wait unsent stage, p.act = .shflush d g r wait unsent stage))
    ∧ ¬∀ x ∈ (pairBox heroT).troupes, x.wg = heroT.wg → x.exited = false → x.trix = heroT.trix :=
  ⟨⟨iss, by decide +kernel⟩, ⟨iss, by decide +kernel, by decide⟩,
    ⟨iss, rfl, by decide +kernel, (by
      rintro (h | ⟨n, hn, h⟩ | h | ⟨b, hb, h⟩ | ⟨p, hp, h⟩)
      · exact h rfl
      · exact h (by revert n; decide)
      · exact h rfl
      · exact h (by revert b; decide)
      · cases hp)⟩, by decide⟩

/-- A bad operand; the unmapped name 100; a damaged source. -/
def hurtT : Troupe := { heroT with badS := [63] }
theorem mayB {s : State} {t : Troupe} {c : Ctl} (hc : s.cur? = some t := by rfl) (h : s.ready t c = true := by decide +kernel) : s.mayIssue t c := ⟨hc, h⟩
theorem witness_OperandChecksTrap :
    (Checked (box heroT) heroT (.sadd (fO (iO 1) (sO 2) (sO 3))) plainT (ops (fO (iO 1) (sO 2) (sO 3)) shBin) true ∧ (box heroT).mayIssue heroT plainT
      ∧ (ops (fO (iO 1) (sO 2) (sO 3)) shBin).ok ((box heroT).atIssue heroT) = false)
    ∧ (Checked (box heroT) heroT (.vadd (fO (vO 1) (vO 2) (vO 100))) plainT (ops (fO (vO 1) (vO 2) (vO 100)) shTwo) true ∧ (box heroT).mayIssue heroT plainT
      ∧ (ops (fO (vO 1) (vO 2) (vO 100)) shTwo).ok ((box heroT).atIssue heroT) = true
      ∧ ((ops (fO (vO 1) (vO 2) (vO 100)) shTwo).src ((box heroT).atIssue heroT)).find? (fun n => !heroT.mapped n) = some 100)
    ∧ (Checked (box hurtT) hurtT (.sadd (fO (sO 1) (sO 2) (sO 63))) plainT (ops (fO (sO 1) (sO 2) (sO 63)) shBin) true ∧ (box hurtT).mayIssue hurtT plainT
      ∧ (ops (fO (sO 1) (sO 2) (sO 63)) shBin).ok ((box hurtT).atIssue hurtT) = true
      ∧ ∃ n ∈ (ops (fO (sO 1) (sO 2) (sO 63)) shBin).scalars ((box hurtT).atIssue hurtT), n ∈ hurtT.badS)
    ∧ Checked (box heroT) heroT (.ld (fM (vO 4) (sO 2) ⟨0, 0, 0, 6, 0, 0⟩)) plainT (opsM (fM (vO 4) (sO 2) ⟨0, 0, 0, 6, 0, 0⟩) ⟨[.vw (regsOf (fM (vO 4) (sO 2) ⟨0, 0, 0, 6, 0, 0⟩)) false], shPair, []⟩)
        ((⟨0, 0, 0, 6, 0, 0⟩ : Attr).fits ⟨[0, 1, 2, 3, 4, 5], [0, 1], true, true, 5, List.range 64⟩)
      ∧ (box heroT).mayIssue heroT plainT ∧ (⟨0, 0, 0, 6, 0, 0⟩ : Attr).fits ⟨[0, 1, 2, 3, 4, 5], [0, 1], true, true, 5, List.range 64⟩ = false :=
  ⟨⟨.scalar _ _ _ (.sadd _), mayB, by decide +kernel⟩, ⟨.vector _ _ _ (.vadd _), mayB, by decide +kernel, by decide +kernel⟩,
    ⟨.scalar _ _ _ (.sadd _), mayB, by decide +kernel, by decide +kernel⟩, .memory _ _ _ _ _ _ _ _ _ (.ld _), mayB, by decide⟩

theorem witness_RoundTrip :
    (∃ i w, i.wf = true ∧ encode i = some w ∧ i = .sadd ⟨plainT, .scal 1, .scal 63, .imm 3⟩)
    ∧ (∃ i w, i.wf = true ∧ encode i = some w ∧ i = .ld (fM (vO 255) (vO 255) ⟨-32, 3, 15, 7, 5, 3⟩))
    ∧ (∃ i w, i.wf = true ∧ encode i = some w ∧ i = .brz ⟨⟨7, true, 3, 7, 15, true⟩, .scal 63, -1⟩)
    ∧ ∃ i w, i.wf = true ∧ encode i = some w ∧ i = .unassignedOpcode 0x3FF :=
  ⟨⟨_, _, by decide, rfl, rfl⟩, ⟨_, _, by decide, rfl, rfl⟩, ⟨_, _, by decide, rfl, rfl⟩, _, _, by decide, rfl, rfl⟩

theorem witness_EncodingWords :
    (∃ w i, Written w i)
    ∧ (∃ w : IWord, w.getLsbD 95 = true)
    ∧ (∃ w : IWord, 12 ≤ (w.extractLsb' 90 4).toNat ∧ (w.extractLsb' 90 4).toNat ≤ 14 ∧ (w.extractLsb' 90 4).toNat = 12)
    ∧ ∃ w : IWord, 12 ≤ (w.extractLsb' 90 4).toNat ∧ (w.extractLsb' 90 4).toNat ≤ 14 ∧ (w.extractLsb' 90 4).toNat = 14 :=
  ⟨⟨_, _, .vadd⟩, ⟨BitVec.allOnes 96, by decide⟩, ⟨12#96 <<< 90, by decide⟩, 14#96 <<< 90, by decide⟩

theorem witness_OperandValues :
    (heroT.hazardous (.s 63) = false ∧ (63 : BitVec 8).toNat < 64)
    ∧ (heroT.hazardous (.v 99) = false ∧ (6 : BitVec 3).toNat < 7 ∧ patOk 6 6 = true ∧ patOk 3 63 = true ∧ patOk 4 31 = true ∧ patOk 2 32 = true)
    ∧ heroT.vreg? 255 = none ∧ (7 : Nat) ≤ 7
    ∧ (box heroT).wgOf heroT = some wgT ∧ Identity (box heroT) heroT wgT 127 0 ∧ Identity (graphBox heroT) heroT gWg 86 0
      ∧ (graphBox heroT).wgOf heroT = some gWg :=
  ⟨by decide +kernel, by decide +kernel, by decide +kernel, by decide, rfl, .unassigned 127 (by decide) (by decide), .node 2 0 rfl, rfl⟩

/-- The next step is pipe 0's, whose troupe is at address 0, where `nop` stands: the free slot moves on. -/
def nopF : OForm := ⟨plainT, .imm 0, .imm 0, .imm 0⟩
def nopBytes : List Byte := natLe 12 (((encode (.nop nopF)).map BitVec.toNat).getD 0)
def stepBox : State := { box heroT with agenda := [.pipe 0], mem := placedMem [] nopBytes }
def stepS1 : State := { stepBox with agenda := [] }.modDie 0 fun d => { d with cycle := max d.cycle (stepBox.pipe 0).free }
theorem isOk_next {σ φ ρ : Type} {o : Host.Outcome σ φ ρ} {p : σ → Bool} (h : isOk o p = true) : ∃ u, o = .next u ∧ p u = true := by
  cases o with
  | next u => exact ⟨u, rfl, h⟩
  | fault _ => exact absurd h (by simp [isOk])
  | refused _ => exact absurd h (by simp [isOk])
theorem bytesB {r : ReadEnd} {b : List Byte} (h : (match r with | .bytes x => x == b | _ => false) = true) : r = .bytes b := by
  split at h
  · rw [beq_iff_eq.mp h]
  · exact absurd h (by decide)
theorem witness_StepRunsDecoded :
    (∃ c b r s2, stepBox.agenda = .pipe 0 :: [] ∧ stepBox.boot.dead = false ∧ stepBox.boot.halted = false
      ∧ (stepBox.pipe 0).order = (heroT.wg, heroT.trix) :: [] ∧ stepS1.troupe? heroT.wg heroT.trix = some heroT ∧ stepS1.readyBare heroT = true
      ∧ stepS1.yieldTrap heroT = none ∧ stepS1.ctxOf heroT = some c ∧ stepS1.readVa c heroT.die .fetch 3 heroT.pc 12 = .bytes b
      ∧ decode b = .ok (.nop nopF, r) ∧ exec (.nop nopF) { stepS1 with cur := (heroT.wg, heroT.trix) } = .next s2 ∧ s2.free ≠ stepS1.free)
    ∧ ∃ s : State, s.agenda = .event (.dieReset 31) :: [] ∧ s.boot.dead = false ∧ s.boot.halted = false := by
  obtain ⟨s2, h, hf⟩ := isOk_next (o := exec (.nop nopF) { stepS1 with cur := (heroT.wg, heroT.trix) }) (p := fun u => u.free != stepS1.free)
    (by decide +kernel)
  exact ⟨⟨placedCtx, nopBytes, [], s2, rfl, rfl, rfl, by decide +kernel, by rfl, by decide +kernel, by decide +kernel, by rfl,
    bytesB (by decide +kernel), by rfl, h, by simpa using hf⟩, { box heroT with agenda := [.event (.dieReset 31)] }, rfl, rfl, rfl⟩
theorem witness_MemoryCanonicalKept : ∃ s u : State, s.Canonical ∧ step s = .next u := by
  obtain ⟨u, h, -⟩ := isOk_next (o := step stepBox) (p := fun _ => true) (by decide +kernel)
  exact ⟨stepBox, u, by unfold State.Canonical; decide +kernel, h⟩

end Sys2Proof.Tests
end

