-- ==== Sys2Proof/Tests/EventWitnesses.lean ====
section
/-! SUPPORT. Witnesses for the statements that are tables of events: for each row a state and an event that meet its hypotheses
together. Here: answers, translation and memory, coherence. -/

namespace Sys2Proof.Tests

open Sys2Proof Sys2Proof.Machine Sys2Proof.Claims

set_option Elab.async false

/-! ## Rows of the tables of events: a state for each -/

/-- A closed fact that the kernel decides. -/
theorem dk {p : Prop} [Decidable p] (h : decide p = true := by decide +kernel) : p := of_decide_eq_true h

/-- A write that ends with a state. -/
theorem done_of {x : WriteEnd} (h : (match x with | .done _ => true | _ => false) = true) : ∃ s1, x = .done s1 := by
  cases x with
  | done s1 => exact ⟨s1, rfl⟩
  | _ => cases h

/-- The state meets every hypothesis of a row of the table for this event. -/
def Meets (E : State → Instr → (State → Prop) → Prop) (s : State) (i : Instr) : Prop := ∃ post, E s i post

def reqBox (t : Troupe) (r : MemReq) (p : Split) : State := { box t with reqs := [r], splits := [p] }
def ansR : MemReq := { reqT 3 .answered (.load 4) 0 with lane := 95, result := [1, 2, 3, 4] }
def splT : Split := ⟨50, 1, 0, some 15, some 11, 2, .vec [(99, 99)], 4, none, false⟩
def lastS : Split := { splT with left := 1 }
def postS : Split := { splT with left := 1, posted := true, ac := none, landing := .nothing }
def failR : MemReq := { ansR with fault := some 0x13 }
/-- The second byte load, signed; lane 0 of `waitT` holds a fault already. -/
def byteS : Split := { splT with size := 1 }
def byteR : MemReq := { ansR with op := .load 1, bytes := 1, result := [0x80] }

theorem witness_AnswersLand_requests :
    Meets ReplyEvent (reqBox heroT ansR splT) (.laneReply 3) ∧ Meets ReplyEvent (reqBox heroT byteR byteS) (.laneReply 3)
    ∧ Meets ReplyEvent (reqBox heroT failR splT) (.laneReply 3)
    ∧ Meets ReplyEvent (reqBox (waitT 2) { failR with lane := 0 } splT) (.laneReply 3)
    ∧ Meets ReplyEvent (reqBox heroT ansR lastS) (.laneReply 3) ∧ Meets ReplyEvent (reqBox heroT ansR splT) (.laneReply 3)
    ∧ Meets ReplyEvent (reqBox heroT { ansR with op := .store } postS) (.storeAck 3)
    ∧ Meets ReplyEvent (reqBox heroT { failR with op := .store } postS) (.storeAck 3) :=
  ⟨⟨_, .loaded ansR splT heroT 99 99 ⟨rfl, rfl, dk, rfl⟩ rfl rfl rfl dk rfl ⟨⟨_, rfl, rfl⟩, (by unfold Troupe.landsLast; decide +kernel), dk⟩ rfl⟩,
    ⟨_, .loaded byteR byteS heroT 99 99 ⟨rfl, rfl, dk, rfl⟩ rfl rfl rfl dk rfl ⟨⟨_, rfl, rfl⟩, (by unfold Troupe.landsLast; decide +kernel), dk⟩ rfl⟩,
    ⟨_, .faulted failR splT heroT 0x13 15 ⟨rfl, rfl, dk, rfl⟩ rfl rfl rfl dk rfl dk dk⟩,
    ⟨_, .secondFault { failR with lane := 0 } splT (waitT 2) 0x13 15 ⟨rfl, rfl, dk, rfl⟩ rfl rfl rfl dk rfl dk dk⟩,
    ⟨_, .lastLane ansR lastS heroT 15 ⟨rfl, rfl, dk, rfl⟩ rfl dk rfl rfl⟩,
    ⟨_, .moreLanes ansR splT heroT ⟨rfl, rfl, dk, rfl⟩ rfl dk rfl⟩,
    ⟨_, .stored { ansR with op := .store } postS heroT ⟨rfl, rfl, dk, rfl⟩ rfl rfl dk rfl⟩,
    ⟨_, .storeFailed { failR with op := .store } postS heroT wgT 0x13 ⟨rfl, rfl, dk, rfl⟩ rfl rfl rfl rfl⟩⟩

/-- A level of the context of `box`. -/
def lvT : Level := ⟨2, 0, 0, 0, 0, .graph, none, 0, 0, 0, none, false, false, false, true, 0, [], 0, none, 0, 1, 1, 1, 0, [], []⟩
/-- One node with two slots to a segment, one record of depth 3 in core 0's. -/
def segT : Seg := ⟨0, 0, [⟨1, 3, true, 0⟩], [], [], 0, [], false, (0, 0)⟩
def smallG : Graph := ⟨2, 4, 0, 0, [{ gNode with segrec := 2 }], 0, 0, [segT], [], [], []⟩
def smallBox (t : Troupe) : State := { box t with graphs := [smallG], wgs := [gWg], levels := [lvT] }
def lane95 : Mask := 1#96 <<< 95
def emitP (head : Bool) (lanes : Mask) (node : Nat) : Pend := ⟨7, some 11, .emit head node 6 99 99 lanes [List.replicate 16 7] 0, false⟩
def emitT (head : Bool) (lanes : Mask) (node : Nat) : Troupe := { heroT with pend := [emitP head lanes node] }
def deepE : Troupe := { deepT with pend := [emitP true lane95 0] }
def deqP (node : Nat) : Pend := ⟨7, some 11, .deq node 6 [(97, 97), (98, 98), (99, 99)] lane95, false⟩
def deqT (node : Nat) : Troupe := { heroT with pend := [deqP node] }
def gexP : Pend := ⟨7, none, .gexit lane95, false⟩
def gexT : Troupe := { heroT with pend := [gexP], lrecs := List.replicate 95 none ++ [some ⟨2, 0, 0, some 1, 4, false⟩] }
def heldG : Graph := { smallG with nodes := [{ gNode with k := { gKd with hold := 1 } }] }

theorem emitted_row : Meets ReplyEvent (smallBox (emitT true lane95 0)) (.queueEngineReply 1 0 7) := by
  obtain ⟨s1, h⟩ := done_of (x := (smallBox (emitT true lane95 0)).writeVa placedCtx 0 (smallG.slotVa 8 0 0 0) (List.replicate 16 7)) dk
  exact ⟨_, .emitted (emitT true lane95 0) (emitP true lane95 0) true 0 6 99 99 lane95 95 _ 0 placedCtx smallG _ _ 0 s1 _ rfl rfl rfl dk dk dk dk rfl rfl rfl
    dk dk dk rfl h rfl rfl⟩

/-- The engine has applied a later operation of the same cycle. -/
def busyQ : State := { smallBox (emitT true lane95 0) with graphs := [{ smallG with segs := [{ segT with last := (0, 100) }] }] }

theorem witness_AnswersLand_queues :
    Meets ReplyEvent (box (emitT false allLanes 63)) (.queueEngineReply 1 0 7)
    ∧ Meets ReplyEvent { smallBox (emitT true lane95 0) with levels := [{ lvT with status := 6 }] } (.queueEngineReply 1 0 7)
    ∧ Meets ReplyEvent (smallBox (emitT true lane95 1)) (.queueEngineReply 1 0 7)
    ∧ Meets ReplyEvent { smallBox (emitT true lane95 0) with graphs := [heldG] } (.queueEngineReply 1 0 7)
    ∧ Meets ReplyEvent (smallBox (emitT true lane95 0)) (.queueEngineReply 1 0 7)
    ∧ Meets ReplyEvent (smallBox deepE) (.queueEngineReply 1 0 7)
    ∧ Meets ReplyEvent (box (deqT 0)) (.queueEngineReply 1 0 7) ∧ Meets ReplyEvent (smallBox (deqT 1)) (.queueEngineReply 1 0 7)
    ∧ Meets ReplyEvent (smallBox (deqT 0)) (.queueEngineReply 1 0 7)
    ∧ Meets ReplyEvent (smallBox gexT) (.queueEngineReply 1 0 7) ∧ Meets ReplyEvent busyQ (.queueEngineReply 1 0 7) :=
  ⟨⟨_, .emitRefused (emitT false allLanes 63) (emitP false allLanes 63) false 63 6 99 99 allLanes _ 0 4 _ rfl rfl rfl dk dk (.noGraph rfl) rfl rfl⟩,
    ⟨_, .emitRefused (emitT true lane95 0) (emitP true lane95 0) true 0 6 99 99 lane95 _ 0 3 _ rfl rfl rfl dk dk (.cancelled smallG rfl dk) rfl rfl⟩,
    ⟨_, .emitRefused (emitT true lane95 1) (emitP true lane95 1) true 1 6 99 99 lane95 _ 0 4 _ rfl rfl rfl dk dk (.noNode smallG rfl dk dk) rfl rfl⟩,
    ⟨_, .emitRefused (emitT true lane95 0) (emitP true lane95 0) true 0 6 99 99 lane95 _ 0 4 _ rfl rfl rfl dk dk (.held heldG _ rfl dk rfl rfl dk) rfl rfl⟩,
    emitted_row,
    ⟨_, .tooDeep deepE (emitP true lane95 0) true 0 6 99 99 lane95 95 _ 0 placedCtx smallG _ _ rfl rfl rfl dk dk dk dk rfl rfl rfl dk (.inl dk) rfl rfl⟩,
    ⟨_, .nothingToTake (deqT 0) (deqP 0) 0 6 97 97 98 99 lane95 rfl rfl rfl dk (.inl rfl)⟩,
    ⟨_, .nothingToTake (deqT 1) (deqP 1) 1 6 97 97 98 99 lane95 rfl rfl rfl dk (.inr ⟨smallG, rfl, .inl dk⟩)⟩,
    ⟨_, .taken (deqT 0) (deqP 0) 0 6 97 97 98 99 lane95 95 smallG _ segT _ rfl rfl rfl dk dk rfl rfl rfl dk rfl rfl ⟨⟨_, rfl, rfl⟩, (by unfold Troupe.landsLast; decide +kernel), dk⟩ ⟨⟨_, rfl, rfl⟩, (by unfold Troupe.landsLast; decide +kernel), dk⟩
      ⟨⟨_, rfl, rfl⟩, (by unfold Troupe.landsLast; decide +kernel), dk⟩⟩,
    ⟨_, .given gexT gexP lane95 95 2 0 0 1 4 false smallG segT rfl rfl rfl dk dk dk rfl dk rfl⟩,
    ⟨_, .engineOrder (emitT true lane95 0) (emitP true lane95 0) true 0 6 99 99 lane95 _ 0 rfl rfl rfl dk⟩⟩

def walkT (page : Nat) : Walk := ⟨9, 0, 0, page, true⟩
def missR (loc : Nat) : MemReq := reqT 3 (.untranslated true) (.load 4) loc
def walkBox (rs : List MemReq) (ws : List Walk) : State := { box heroT with reqs := rs, walks := ws }
def leafT : DWord := (⟨1, 0, false, false, false, true, true, true, false⟩ : LeafSpec).pte (placedFrame + 4)
def leafLoc : Nat := dieBase 0 + 4096 * (placedFrame + 3)
def noTable : Ctx := { placedCtx with ptb := 0 }
theorem walkClear_of {s : State} {c : Ctx} {w : Walk} (h : decide (∀ loc ∈ s.walkReads c w.page, s.gap w.die (c.homeOf w.die loc) = none) = true
    := by decide +kernel) : walkClear s c w := (of_decide_eq_true h :)
theorem walkLocal_of {s : State} {c : Ctx} {w : Walk} (h : decide (∀ loc ∈ s.walkReads c w.page, c.homeOf w.die loc = w.die) = true
    := by decide +kernel) : walkLocal s c w := (of_decide_eq_true h :)
theorem canonical_of {s : State} (h : Memory.wf s.mem = true := by decide +kernel) : s.Canonical := h
/-- The walker of die 31 asks die 0, which is in reset. -/
def inReset (s : State) (k : Nat) : State := { s with routers := s.routers.modify k fun r => { r with inReset := true } }
def farWalk : Walk := { walkT 0 with die := 31 }
def farMiss : MemReq := { missR 0 with die := 31 }
/-- The park table of die 0 is full. -/
def crowd : List MemReq := missR 4096 :: List.replicate 4096 (reqT 4 .parked (.load 4) 8192)
def fetchT : Troupe := { heroT with wait := .fetch 0 }
theorem witness_MemoryEvents_walks :
    Meets MemoryEvent (walkBox [reqT 3 (.untranslated false) (.load 4) 0] []) (.translationMiss 3)
    ∧ Meets MemoryEvent (walkBox [reqT 3 (.untranslated false) (.load 4) 0] [walkT 0]) (.translationMiss 3)
    ∧ Meets MemoryEvent { walkBox [missR 0] [walkT 0] with ctxs := [noTable] } (.walkComplete 9)
    ∧ Meets MemoryEvent (inReset (walkBox [farMiss] [farWalk]) 0) (.walkComplete 9)
    ∧ Meets MemoryEvent (walkBox [missR 4096] [walkT 1]) (.walkComplete 9) ∧ Meets MemoryEvent (walkBox crowd [walkT 1]) (.walkComplete 9)
    ∧ Meets MemoryEvent (walkBox [] [walkT 0]) (.walkComplete 9) ∧ Meets MemoryEvent (walkBox [] [walkT 0]) (.walkComplete 9)
    ∧ Meets MemoryEvent (walkBox [missR 0] [walkT 0]) (.walkComplete 9) ∧ Meets MemoryEvent { box fetchT with walks := [walkT 0] } (.walkComplete 9) :=
  ⟨⟨_, .miss (reqT 3 (.untranslated false) (.load 4) 0) rfl rfl dk⟩, ⟨_, .joins (reqT 3 (.untranslated false) (.load 4) 0) (walkT 0) rfl rfl dk rfl rfl rfl⟩,
    ⟨_, .walkFails (walkT 0) noTable _ (missR 0) ⟨rfl, rfl, dk⟩ walkClear_of rfl dk rfl dk⟩,
    ⟨_, .walkUnreached farWalk placedCtx (dieBase 0 + 4096 * placedFrame) farMiss ⟨rfl, rfl, dk⟩ dk dk dk dk rfl dk⟩,
    ⟨_, .walkParks (walkT 1) placedCtx (missR 4096) ⟨rfl, rfl, dk⟩ walkClear_of dk dk rfl dk dk⟩,
    ⟨_, .parkFull (walkT 1) placedCtx (missR 4096) ⟨rfl, rfl, dk⟩ walkClear_of dk dk rfl dk dk⟩,
    ⟨_, .walkCaches (walkT 0) placedCtx leafT 1 leafLoc ⟨rfl, rfl, dk⟩ walkClear_of dk dk dk dk⟩,
    ⟨_, .walkMarks (walkT 0) placedCtx leafT 1 leafLoc canonical_of ⟨rfl, rfl, dk⟩ walkClear_of walkLocal_of rfl dk dk dk dk⟩,
    ⟨_, .walkAnswers (walkT 0) placedCtx leafT 1 leafLoc (missR 0) _ ⟨rfl, rfl, dk⟩ walkClear_of dk dk dk dk rfl dk ⟨⟨4, rfl⟩, rfl, dk, dk⟩⟩,
    ⟨_, .walkWakes (walkT 0) placedCtx leafT 1 leafLoc fetchT rfl rfl walkClear_of dk dk dk dk dk rfl rfl rfl⟩⟩

def parkR (loc : Nat) : MemReq := reqT 3 .parked (.load 4) loc
def parkBox (page : Nat) : State := { box heroT with reqs := [parkR (4096 * page)], resolving := [(0, page)] }
def frame0 : Nat := dieBase 0 / 4096
def topLine : BitVec 64 := 1#64 <<< 63
def migrT (present fetching : BitVec 64) : Migr := ⟨0, 0, 1, frame0 + 20, frame0 + 30, present, fetching, 0⟩
def migrBox (present fetching : BitVec 64) : State := { box heroT with migrs := [migrT present fetching] }
def onDie (s : State) (f : Die → Die) : State := { s with dies := s.dies.modify 0 f }
def lossBox : State := onDie (migrBox 0 topLine) fun d => { d with damaged := [64 * (frame0 + 30) + 63] }
theorem witness_MemoryEvents_pages :
    Meets MemoryEvent (parkBox 1) (.resolverFinish 0 1) ∧ Meets MemoryEvent (parkBox 0) (.resolverFinish 0 0)
    ∧ Meets MemoryEvent { box heroT with invals := [⟨31, 0, 0, 0⟩] } (.translationInvalidate 31)
    ∧ Meets MemoryEvent (migrBox 1 0) (.migrationLineFetch 0 (frame0 + 20) 0)
    ∧ Meets MemoryEvent (migrBox 0 topLine) (.migrationLineFetch 0 (frame0 + 20) 63) ∧ Meets MemoryEvent lossBox (.migrationLineFetch 0 (frame0 + 20) 63)
    ∧ Meets MemoryEvent (migrBox (~~~topLine) topLine) (.migrationLineFetch 0 (frame0 + 20) 63) :=
  ⟨⟨_, .resolverFails placedCtx 1 (parkR 4096) ⟨dk, rfl, dk, rfl, rfl, dk, dk⟩ dk dk dk rfl dk⟩,
    ⟨_, .resolverMaps placedCtx 0 (parkR 0) leafT 1 leafLoc _ ⟨dk, rfl, dk, dk, rfl, dk, dk⟩ dk dk dk dk rfl ⟨⟨4, rfl⟩, rfl, dk, dk⟩⟩,
    ⟨_, .invalidated ⟨31, 0, 0, 0⟩ rfl rfl⟩, ⟨_, .engineTakes (migrT 1 0) 1 0 ⟨dk, dk⟩ dk dk dk dk dk dk⟩,
    ⟨_, .lineFetched (migrT 0 topLine) 63 canonical_of ⟨dk, dk⟩ ⟨dk, dk, dk⟩ dk dk dk⟩,
    ⟨_, .lineFails (migrT 0 topLine) 63 0x14 ⟨dk, dk⟩ ⟨dk, dk, dk⟩ dk dk dk dk dk⟩,
    ⟨_, .lastLine (migrT (~~~topLine) topLine) 63 ⟨dk, dk⟩ ⟨dk, dk, dk⟩ dk dk⟩⟩

def bankT (row : Option Nat) : Bank := ⟨0, 0, row, 0⟩
def bankBox (rs : List MemReq) (row : Option Nat) : State := onDie { box heroT with banks := [bankT row], reqs := rs } fun d => { d with cycle := 256 }
def openR : MemReq := reqT 3 .atHome (.load 4) (dieBase 0)
def slotT : FillRec := ⟨0, 0, 4, 0, 1, [], false⟩
def pageLoc : Nat := dieBase 0 + 4096 * 5
def winL : CLine := { lineT 1 with tracked := false, excl := false, window := true }
theorem witness_MemoryEvents_errors :
    Meets MemoryEvent (bankBox [] (some 5)) (.hbmIdlePrecharge 0 (bankOf openR.line)) ∧ Meets MemoryEvent (bankBox [openR] (some (rowOf openR.line))) (.hbmIdlePrecharge 0 0)
    ∧ Meets MemoryEvent (box heroT) (.hbmRefresh 31 0) ∧ Meets MemoryEvent (box heroT) (.eccError (.hbm 31 5 false))
    ∧ Meets MemoryEvent (box heroT) (.eccError (.hbm 31 5 true)) ∧ Meets MemoryEvent (box heroT) (.eccError (.pte 31 4096 true))
    ∧ Meets MemoryEvent { box heroT with lines := [lineT 0] } (.eccError (.cache 0 (some 0) (lineT 0).line true))
    ∧ Meets MemoryEvent { box heroT with lines := [lineT 1] } (.eccError (.cache 0 (some 0) (lineT 1).line true))
    ∧ Meets MemoryEvent { box heroT with lines := [winL] } (.eccError (.cache 0 (some 0) (lineT 1).line true))
    ∧ Meets MemoryEvent { box heroT with l2 := [⟨0, pageLoc / 64, false⟩] } (.eccError (.l2 0 (pageLoc / 64) true))
    ∧ Meets MemoryEvent { box heroT with l2 := [⟨0, pageLoc / 64, true⟩] } (.eccError (.l2 0 (pageLoc / 64) true))
    ∧ Meets MemoryEvent { box heroT with bufs := [⟨255, 63, 1, 5, [], []⟩] } (.eccError (.scratch 31 7 63 0 true))
    ∧ Meets MemoryEvent (box heroT) (.eccError (.vreg 1 0 99 true)) ∧ Meets MemoryEvent (box heroT) (.eccError (.sreg 1 0 63 true))
    ∧ Meets MemoryEvent { box heroT with pipes := [{ Pipe.reset with slots := [(63, slotT)] }] } (.eccError (.weight 0 63 true)) :=
  ⟨⟨_, .precharged (bankT (some 5)) rfl dk dk⟩, ⟨_, .staysOpen (bankT (some (rowOf openR.line))) openR rfl dk rfl rfl rfl dk rfl⟩, ⟨_, .refreshed 31 0⟩,
    ⟨_, .correctedHbm 31 5 dk⟩, ⟨_, .failingHbm 31 5 dk⟩, ⟨_, .failingEntry 31 4096 dk⟩, ⟨_, .cleanLine 0 (some 0) _ (lineT 0) rfl rfl dk⟩,
    ⟨_, .dirtyLine 0 (some 0) _ (lineT 1) rfl dk rfl rfl dk⟩, ⟨_, .dirtyWindow 0 (some 0) _ winL rfl dk rfl dk⟩,
    ⟨_, .cleanSlice 0 _ ⟨0, pageLoc / 64, false⟩ dk rfl dk⟩, ⟨_, .dirtySlice 0 _ ⟨0, pageLoc / 64, true⟩ dk rfl dk⟩, ⟨_, .scratchBlock 31 7 63 0 ⟨255, 63, 1, 5, [], []⟩ rfl dk⟩,
    ⟨_, .vectorName heroT 99 _ rfl rfl⟩, ⟨_, .scalarName heroT 63 rfl⟩, ⟨_, .weightSlot 0 63 (63, slotT) dk dk dk dk⟩⟩

/-- A request with notice on die 0, and the same at the home of a line of memory. -/
def noteR (op : MemOp) (home loc : Nat) : MemReq := { reqT 3 .ready op loc with home := home }
def noteBox (r : MemReq) (ls : List CLine) : State := onDie { box heroT with reqs := [r], lines := ls } fun d => { d with notices := [⟨0, 0, 3⟩] }
def addR (home loc : Nat) : MemReq := noteR (.atom .add) home loc
def topStore : MemReq := { noteR .store 0 (pageLoc + 60) with pol := .own }
theorem witness_CoherenceEvents_notices :
    Meets CoherenceEvent (noteBox (addR 0 pageLoc) []) (.orderNetworkNotice 0)
    ∧ Meets CoherenceEvent (noteBox (addR 31 (dieBase 31)) []) (.orderNetworkNotice 0)
    ∧ Meets CoherenceEvent (noteBox (noteR (.load 4) 0 (pageLoc + 60)) [lineT 0]) (.orderNetworkNotice 0)
    ∧ Meets CoherenceEvent (noteBox topStore [lineT 0]) (.orderNetworkNotice 0)
    ∧ Meets CoherenceEvent (noteBox (addR 0 pageLoc) []) (.orderNetworkNotice 0) :=
  ⟨⟨_, .toOwnHome (addR 0 pageLoc) ⟨dk, ⟨⟨0, 0, 3⟩, dk, rfl⟩, rfl, rfl, dk, rfl, rfl, rfl⟩ rfl rfl⟩,
    ⟨_, .travels (addR 31 (dieBase 31)) ⟨dk, ⟨⟨0, 0, 3⟩, dk, rfl⟩, rfl, rfl, dk, rfl, rfl, rfl⟩ rfl dk dk rfl⟩,
    ⟨_, .hits (noteR (.load 4) 0 (pageLoc + 60)) (lineT 0) 4 ⟨dk, ⟨⟨0, 0, 3⟩, dk, rfl⟩, rfl, rfl, dk, rfl, rfl, rfl⟩ rfl dk (.inl rfl)⟩,
    ⟨_, .storesInL1 topStore (lineT 0) ⟨dk, ⟨⟨0, 0, 3⟩, dk, rfl⟩, rfl, rfl, dk, rfl, rfl, rfl⟩ rfl rfl rfl dk dk rfl⟩,
    ⟨_, .slotTaken (addR 0 pageLoc) ⟨dk, ⟨⟨0, 0, 3⟩, dk, rfl⟩, rfl, rfl, dk, rfl, rfl, rfl⟩ rfl rfl dk⟩⟩

def homeR (op : MemOp) (loc bytes : Nat) : MemReq := { reqT 3 .atHome op loc with bytes := bytes }
def homeBox (r : MemReq) (b : List Byte) : State := { objBox heroT b with reqs := [r] }
def signalR (gen : Nat) : MemReq := { homeR .bosig pageLoc 64 with val := natLe 4 gen }
def loneBytes : List Byte := [5, 0, 0, 0, 1, 0, 0, 0, 0, 0, 0, 0, 4, 0, 0, 0, 1]
def chunkBytes (next fin : Nat) : List Byte := natLe 8 next ++ natLe 8 fin ++ natLe 4 2 ++ natLe 4 4
def topR : MemReq := homeR (.load 4) (pageLoc + 60) 4
theorem atHead_of {s : State} {r : MemReq} (h : decide (Memory.wf s.mem = true ∧ (s.req? r.id = some r ∧ r.stage = .atHome ∧ s.waitingAt r = [r] ∧ s.lineBusy r = false)
    ∧ (r.kind = 0 ∧ r.win = none ∧ r.fault = none) ∧ s.lost? r.home r.line = none ∧ r.loc % 64 + r.bytes ≤ 64 ∧ 0 < r.bytes) = true := by decide +kernel) : atHead s r :=
  have g := of_decide_eq_true h
  ⟨g.1, g.2.1, g.2.2.1, g.2.2.2.1, g.2.2.2.2⟩
theorem soleOwner_of {s : State} {d base n : Nat} (h : decide ((∀ l ∈ s.lines, base ≤ l.line → l.line < base + n → l.excl = true → l.die = d)
    ∧ ∀ w ∈ s.wbs, base ≤ w.line → w.line < base + n → w.owner = true → w.die = d) = true := by decide +kernel) : soleOwner s d base n := (of_decide_eq_true h :)
theorem soundLine_of {s : State} {r : MemReq} (h : decide (s.migrs = [] ∧ s.isFailing r.line = false ∧ s.isDamaged r.line = false) = true := by decide +kernel) :
    soundLine s r := (of_decide_eq_true h :)
theorem roomy_of {s : State} (h : decide (s.lines.length + 1 < 4096) = true := by decide +kernel) : roomy s := (of_decide_eq_true h :)
theorem freeLine_of {s : State} {r : MemReq} (h1 : decide (s.region? r.home r.line = none) = true := by decide +kernel)
    (h2 : soundLine s r := by exact soundLine_of) (h3 : roomy s := by exact roomy_of) (h4 : soleOwner s r.home r.line 1 := by exact soleOwner_of) : freeLine s r :=
  ⟨of_decide_eq_true h1, h2, h3, h4⟩
def casR : MemReq := { homeR (.atom .cas) (pageLoc + 56) 8 with val := natLe 8 0, val2 := natLe 8 1 }
theorem witness_CoherenceEvents_home :
    Meets CoherenceEvent (homeBox topR []) (.homeRequest 3) ∧ Meets CoherenceEvent (homeBox (homeR .store (pageLoc + 60) 4) []) (.homeRequest 3)
    ∧ Meets CoherenceEvent (homeBox (homeR (.atom .inc) (pageLoc + 60) 4) []) (.homeRequest 3) ∧ Meets CoherenceEvent (homeBox casR []) (.homeRequest 3)
    ∧ Meets CoherenceEvent (homeBox (homeR .barinit pageLoc 64) objectBytes) (.homeRequest 3)
    ∧ Meets CoherenceEvent (homeBox (homeR .barinval pageLoc 64) objectBytes) (.homeRequest 3)
    ∧ Meets CoherenceEvent (homeBox (signalR 5) objectBytes) (.homeRequest 3) ∧ Meets CoherenceEvent (homeBox (signalR 5) loneBytes) (.homeRequest 3)
    ∧ Meets CoherenceEvent (homeBox (signalR 4) objectBytes) (.homeRequest 3) ∧ Meets CoherenceEvent (homeBox (signalR 0) []) (.homeRequest 3)
    ∧ Meets CoherenceEvent (homeBox (homeR .chunk pageLoc 32) (chunkBytes 9 10)) (.homeRequest 3)
    ∧ Meets CoherenceEvent (homeBox (homeR .chunk pageLoc 32) (chunkBytes 10 10)) (.homeRequest 3) :=
  ⟨⟨_, .loadAtHome topR 4 atHead_of freeLine_of rfl (.inl rfl)⟩, ⟨_, .storeAtHome (homeR .store (pageLoc + 60) 4) atHead_of freeLine_of rfl (.inl rfl) rfl dk⟩,
    ⟨_, .atomicAtHome (homeR (.atom .inc) (pageLoc + 60) 4) .inc atHead_of freeLine_of rfl (.inl rfl) rfl rfl⟩,
    ⟨_, .atomicAtHome casR .cas atHead_of freeLine_of rfl (.inr rfl) rfl rfl⟩,
    ⟨_, .objectMade (homeR .barinit pageLoc 64) atHead_of freeLine_of rfl dk⟩, ⟨_, .objectEnded (homeR .barinval pageLoc 64) atHead_of freeLine_of rfl dk⟩,
    ⟨_, .signalled (signalR 5) atHead_of freeLine_of rfl dk dk dk dk⟩, ⟨_, .lastSignal (signalR 5) atHead_of freeLine_of rfl dk dk dk dk⟩,
    ⟨_, .staleSignal (signalR 4) atHead_of freeLine_of rfl dk (.inr dk)⟩, ⟨_, .staleSignal (signalR 0) atHead_of freeLine_of rfl dk (.inl dk)⟩,
    ⟨_, .chunkTaken (homeR .chunk pageLoc 32) 9 10 atHead_of freeLine_of rfl dk dk dk dk⟩, ⟨_, .chunkEmpty (homeR .chunk pageLoc 32) atHead_of freeLine_of rfl dk dk⟩⟩

/-- An object of the graph of `smallBox` with a count, of slot 1 of node 0 on core 0, at depth 3. -/
def depBytes (count : Nat) : List Byte := natLe 4 count ++ [1, 0, 3, 0] ++ natLe 4 0 ++ natLe 4 1
def depBox (count : Nat) : State :=
  { smallBox heroT with mem := placedMem [] (depBytes count), reqs := [homeR .depdec pageLoc 32], graphs := [{ smallG with segs := [{ segT with deps := [1], recs := [] }] }] }
def holdT (st : RState) (hold : BitVec 33) : Region := ⟨0, pageLoc / 64, 0, st, hold, 0, 0, false⟩
def ownR : MemReq := { homeR .store (pageLoc + 60) 4 with pol := .own, die := 31 }
def depG : Graph := { smallG with segs := [{ segT with deps := [1], recs := [] }] }
def deadG : Graph := { depG with deadObjs := [pageLoc] }
def lapsedT : Region := { holdT .i 0 with llost := true }
def moveT : Migr := ⟨0, 0, 1, frame0 + 5, frame0 + 30, 0, 0, 0⟩
theorem witness_CoherenceEvents_held :
    Meets CoherenceEvent (depBox 2) (.homeRequest 3) ∧ Meets CoherenceEvent (depBox 1) (.homeRequest 3)
    ∧ Meets CoherenceEvent { depBox 1 with graphs := [deadG] } (.homeRequest 3)
    ∧ Meets CoherenceEvent (onDie (homeBox topR []) fun d => { d with damaged := [pageLoc / 64] }) (.homeRequest 3)
    ∧ Meets CoherenceEvent (onDie (homeBox topR []) fun d => { d with failing := [pageLoc / 64] }) (.homeRequest 3)
    ∧ Meets CoherenceEvent { homeBox topR [] with regions := [lapsedT] } (.homeRequest 3)
    ∧ Meets CoherenceEvent { homeBox topR [] with migrs := [moveT] } (.homeRequest 3)
    ∧ Meets CoherenceEvent { homeBox ownR [] with regions := [holdT .s 0x180000002] } (.homeRequest 3) :=
  ⟨⟨_, .dependent (homeR .depdec pageLoc 32) heroT depG _ atHead_of freeLine_of rfl dk rfl rfl rfl dk dk dk dk dk⟩,
    ⟨_, .independent (homeR .depdec pageLoc 32) heroT depG _ atHead_of freeLine_of rfl dk rfl rfl rfl dk dk dk dk dk⟩,
    ⟨_, .objectDead (homeR .depdec pageLoc 32) heroT deadG atHead_of freeLine_of rfl dk rfl rfl dk⟩,
    ⟨_, .damagedAtHome topR 4 atHead_of rfl dk dk rfl⟩, ⟨_, .failsAtHome topR 4 atHead_of rfl dk rfl dk dk dk⟩,
    ⟨_, .lapsedLease topR 4 lapsedT rfl rfl dk dk rfl rfl dk rfl⟩, ⟨_, .waitsForLine topR 4 moveT atHead_of rfl rfl⟩,
    ⟨_, .asksHolders ownR (holdT .s 0x180000002) atHead_of soundLine_of rfl rfl dk dk dk dk dk rfl rfl dk⟩⟩

/-- A packet at the head of its buffer at its destination. -/
def pktT (src dst chan : Nat) (load : Payload) : Packet := ⟨70, src, dst, chan, 0, 0, 0, dst, dst, false, false, some 0, false, false, false, 0, load⟩
theorem accepted_of {s : State} {p : Packet} (h : decide ((s.packet? p.id = some p ∧ p.returned = false ∧ p.held = false ∧ p.nack = false ∧ p.since ≠ none ∧ p.place = p.dst)
    ∧ p.tgtLife = s.lifeOf p.dst ∧ (p.chan = 1 ∨ (s.seqOf p.src p.dst p.chan).want = p.seq ∧ s.socketOn p.dst = true ∧ (s.router p.dst).inReset = false
      ∧ s.sharesPart p.src p.dst = true)) = true := by decide +kernel) : accepted s p := (of_decide_eq_true h :)
theorem brings_of {s : State} {src dst : Nat} {load : Payload} (p : Packet) (h : accepted s p := by exact accepted_of)
    (g : decide (s.packetIf src dst (· == load) = some p.id ∧ p.src = src ∧ p.dst = dst) = true := by decide +kernel) : brings s src dst load :=
  ⟨p, (of_decide_eq_true g).1, h, (of_decide_eq_true g).2⟩
theorem responds_of {s : State} {src dst : Nat} (h : decide (s.socketOn dst = true ∧ (meshPath (s.router src).down false src dst).isSome = true) = true
    := by decide +kernel) : responds s src dst := (of_decide_eq_true h :)

def txnT (targets : List (Nat × TAct)) (acks : List Nat) (granted grantAck : Bool) : Txn :=
  ⟨9, 0, pageLoc / 64, [3], 31, pageLoc / 64, 0, targets, acks, granted, grantAck, none, 22, false⟩
def txnBox (t : Txn) (ps : List Packet) : State := { box heroT with txns := [t], packets := ps }
def asksP : Packet := pktT 0 31 2 (.snoop 9)
def ackP : Packet := pktT 31 0 1 (.ack 9)
def grantP : Packet := pktT 0 31 1 (.grant 9)
def askT (a : TAct) : Txn := txnT [(31, a)] [] false false
def askBox (a : TAct) : State := txnBox (askT a) [asksP]
def fwdT : Txn := { askT .forward with from_ := 5 }
def farLine : CLine := { lineT 1 with die := 31 }
def fwdBox : State := { txnBox fwdT [asksP] with lines := [farLine] }
def grantR (op : MemOp) : MemReq := { reqT 3 .inTxn op (pageLoc + 60) with pol := .own, die := 31 }
def grantBox (op : MemOp) : State := { txnBox (txnT [] [] true false) [grantP] with reqs := [grantR op] }
def wbT (die : Nat) (owner : Bool) : WriteBack := ⟨9, die, some 7, 0, pageLoc / 64, List.replicate 64 7, 1#64 <<< 63, false, owner, false, false⟩
def wbP : Packet := pktT 31 0 0 (.wb 9)
def wbBox (die : Nat) (owner : Bool) : State := { box heroT with wbs := [wbT die owner], packets := [wbP] }
def ownerT : Region := { holdT .e 0 with owner := 31 }
def halfT (k : Nat) (st : RState) : Region := ⟨0, 512 * k, 9, st, 1, 0, 65536, false⟩
def newHalf : Region := { halfT 1 .s with quiet := 65535 }
def sharedL : CLine := { lineT 0 with core := none }
theorem asked_of {s : State} {t : Txn} {d : Nat} (h : decide (Memory.wf s.mem = true ∧ s.migrs = [] ∧ s.txn? t.id = some t ∧ d ≠ 32 ∧ t.base ≤ t.line ∧ t.line < t.base + 2 ^ t.size)
    = true := by decide +kernel) (g : brings s t.die d (.snoop t.id) := by exact brings_of asksP) (o : soleOwner s d t.base (2 ^ t.size) := by exact soleOwner_of) :
    asked s t d :=
  have f := of_decide_eq_true h
  ⟨f.1, f.2.1, f.2.2.1, f.2.2.2.1, f.2.2.2.2.1, f.2.2.2.2.2, g, o⟩
theorem grantsTo_of (op : MemOp) (h : decide (Memory.wf (grantBox op).mem = true ∧ (grantBox op).lines.length + 1 < 4096
    ∧ (txnT [] [] true false).line = (grantR op).line ∧ (grantR op).home ≠ (grantR op).die ∧ (grantR op).loc % 64 + (grantR op).bytes ≤ 64
    ∧ (grantBox op).lines = [] ∧ (grantBox op).wbs = [] ∧ (grantBox op).leases = []) = true := by decide +kernel)
    (a : accepted (grantBox op) grantP := by exact accepted_of) : grantsTo (grantBox op) (txnT [] [] true false) (grantR op) :=
  have f := of_decide_eq_true h
  ⟨f.1, rfl, f.2.1, rfl, rfl, rfl, rfl, f.2.2.1, rfl, rfl, f.2.2.2.1, rfl, rfl, rfl, f.2.2.2.2.1, (fun _ h => nomatch h), (fun _ h => nomatch h), grantP, rfl,
    a, rfl, rfl, (fun _ h => nomatch h)⟩
theorem witness_CoherenceEvents_transactions :
    Meets CoherenceEvent (askBox .inval) (.invalidationReceive 9 31) ∧ Meets CoherenceEvent (askBox .recall) (.recallReceive 9 31)
    ∧ Meets CoherenceEvent (askBox .downgrade) (.recallReceive 9 31) ∧ Meets CoherenceEvent fwdBox (.recallReceive 9 31)
    ∧ Meets CoherenceEvent (txnBox (askT .inval) []) (.invalidationReceive 9 31)
    ∧ Meets CoherenceEvent (grantBox (.load 4)) (.grantReceive 9) ∧ Meets CoherenceEvent (grantBox .store) (.grantReceive 9)
    ∧ Meets CoherenceEvent (txnBox (txnT [] [] true true) [ackP]) (.homeAckReceive 9 31)
    ∧ Meets CoherenceEvent (txnBox (txnT [] [0, 31] false false) [ackP]) (.homeAckReceive 9 31)
    ∧ Meets CoherenceEvent (wbBox 0 true) (.writeBackArrival 9) ∧ Meets CoherenceEvent { wbBox 31 true with regions := [ownerT] } (.writeBackArrival 9)
    ∧ Meets CoherenceEvent (wbBox 31 true) (.writeBackArrival 9) ∧ Meets CoherenceEvent (wbBox 0 false) (.writeBackArrival 9) :=
  ⟨⟨_, .invalidates (askT .inval) 31 asked_of dk⟩, ⟨_, .recalls (askT .recall) 31 asked_of dk⟩, ⟨_, .downgrades (askT .downgrade) 31 asked_of dk⟩,
    ⟨_, .forwards fwdT 31 farLine asked_of roomy_of rfl dk dk dk dk rfl rfl⟩, ⟨_, .onItsWay (askT .inval) 31 rfl dk dk dk⟩,
    ⟨_, .granted (txnT [] [] true false) (grantR (.load 4)) 4 (grantsTo_of _) rfl⟩, ⟨_, .granted_own (txnT [] [] true false) (grantR .store) (grantsTo_of _) rfl rfl rfl⟩,
    ⟨_, .grantAcked (txnT [] [] true true) rfl rfl rfl (brings_of ackP)⟩,
    ⟨_, .oneAck (txnT [] [0, 31] false false) 31 rfl rfl dk dk dk (brings_of ackP)⟩, ⟨_, .writtenBack (wbT 0 true) canonical_of rfl rfl rfl rfl dk⟩,
    ⟨_, .writtenFar (wbT 31 true) ownerT canonical_of rfl rfl rfl dk rfl rfl (brings_of wbP) dk rfl rfl dk dk responds_of⟩,
    ⟨_, .discarded (wbT 31 true) rfl rfl rfl dk rfl (brings_of wbP) (fun _ h => nomatch h) dk⟩, ⟨_, .emptyHanded (wbT 0 false) rfl rfl rfl rfl rfl dk⟩⟩
theorem witness_CoherenceEvents_evictions :
    Meets CoherenceEvent { box heroT with lines := [{ lineT 0 with excl := false }] } (.lineEviction 0 (some 0) (lineT 0).line)
    ∧ Meets CoherenceEvent { box heroT with lines := [lineT 1] } (.lineEviction 0 (some 0) (lineT 1).line)
    ∧ Meets CoherenceEvent { box heroT with lines := [farLine] } (.lineEviction 31 (some 0) (lineT 1).line)
    ∧ Meets CoherenceEvent { box heroT with lines := [lineT 1, sharedL] } (.lineEviction 0 (some 0) (lineT 1).line)
    ∧ Meets CoherenceEvent { box heroT with regions := [halfT 0 .s, halfT 1 .s] } (.regionMerge 0 0)
    ∧ Meets CoherenceEvent { box heroT with regions := [halfT 0 .e, halfT 1 .s] } (.regionMerge 0 0)
    ∧ Meets CoherenceEvent { box heroT with regions := [halfT 0 .s, newHalf] } (.regionMerge 0 0)
    ∧ Meets CoherenceEvent { box heroT with combines := [⟨0, pageLoc / 64, [3]⟩], reqs := [noteR .store 31 pageLoc] } (.rdcCombineFlush 0 (pageLoc / 64)) :=
  ⟨⟨_, .cleanEvicted { lineT 0 with excl := false } 0 dk rfl rfl rfl dk⟩, ⟨_, .dirtyEvicted (lineT 1) 0 dk rfl dk dk (fun h => absurd rfl h)⟩,
    ⟨_, .dirtyEvicted farLine 0 dk rfl dk dk (fun _ => dk)⟩, ⟨_, .handedDown (lineT 1) 0 sharedL dk rfl rfl dk rfl rfl dk⟩,
    ⟨_, .merged (halfT 0 .s) (halfT 1 .s) dk dk dk dk dk rfl rfl dk dk⟩, ⟨_, .notMerged (halfT 0 .e) (halfT 1 .s) dk dk dk dk dk rfl dk⟩,
    ⟨_, .tooSoon (halfT 0 .s) newHalf dk dk (.inr dk)⟩, ⟨_, .combined ⟨0, pageLoc / 64, [3]⟩ (noteR .store 31 pageLoc) [] dk dk dk⟩⟩

def leaseT (renewing : Bool) : Lease := ⟨0, 31, 0, 0, 0, 22, 0, renewing⟩
def leaseBox (l : Lease) (ps : List Packet) : State := { box heroT with leases := [l], lines := [farLine], regions := [ownerT], packets := ps }
def lateBox (cycle : Nat) : State := { leaseBox (leaseT false) [] with dies := (box heroT).dies.map fun d => { d with cycle := cycle } }
def owedT : Txn := askT .recall
def owedR : MemReq := reqT 3 .inTxn (.load 4) (pageLoc + 60)
def hostT (a : TAct) : Txn := { txnT [(32, a), (31, .inval)] [] false false with hostDue := some 0 }
theorem witness_CoherenceEvents_leases :
    Meets CoherenceEvent (leaseBox (leaseT false) []) (.leaseRenewalSend 31 0)
    ∧ Meets CoherenceEvent (leaseBox (leaseT true) [pktT 31 0 0 .renew]) (.leaseRenewalReceive 0 31)
    ∧ Meets CoherenceEvent (leaseBox { leaseT true with life := 7 } [pktT 31 0 0 .renew]) (.leaseRenewalReceive 0 31)
    ∧ Meets CoherenceEvent (leaseBox (leaseT true) [pktT 0 31 1 (.renewed (some 30))]) (.renewalAckReceive 31 0)
    ∧ Meets CoherenceEvent (leaseBox (leaseT true) [pktT 0 31 1 (.renewed none)]) (.renewalAckReceive 31 0)
    ∧ Meets CoherenceEvent (lateBox (2 ^ 22)) (.leaseLapse 0 31) ∧ Meets CoherenceEvent { lateBox (2 ^ 22) with txns := [owedT], reqs := [owedR] } (.leaseLapse 0 31)
    ∧ Meets CoherenceEvent (lateBox (2 ^ 22 - 1)) (.leaseLapse 0 31) ∧ Meets CoherenceEvent (lateBox (2 ^ 22 - 2 ^ 20)) (.leaseDrop 31 0)
    ∧ Meets CoherenceEvent (txnBox (hostT .inval) []) (.backinvalTimeout 9)
    ∧ Meets CoherenceEvent { txnBox (hostT .recall) [] with reqs := [owedR] } (.backinvalTimeout 9) :=
  ⟨⟨_, .renewalSent (leaseT false) rfl rfl dk dk dk⟩, ⟨_, .renewed (leaseT true) rfl rfl (brings_of (pktT 31 0 0 .renew)) responds_of⟩,
    ⟨_, .renewalRefused 0 31 (brings_of (pktT 31 0 0 .renew)) (by intro l h; cases h; exact dk) responds_of⟩,
    ⟨_, .renewalAcked (leaseT true) (pktT 0 31 1 (.renewed (some 30))) 30 rfl rfl accepted_of rfl rfl⟩,
    ⟨_, .refusalAcked 0 31 (pktT 0 31 1 (.renewed none)) rfl accepted_of rfl rfl⟩,
    ⟨_, .lapses (leaseT false) ownerT rfl rfl dk rfl dk rfl rfl rfl⟩, ⟨_, .lapsesOwed (leaseT false) owedT owedR rfl rfl dk rfl rfl rfl rfl dk rfl rfl rfl dk⟩,
    ⟨_, .standing (leaseT false) rfl dk⟩, ⟨_, .drops (leaseT false) rfl dk⟩, ⟨_, .hostLapses (hostT .inval) 0 31 rfl rfl rfl rfl dk dk⟩,
    ⟨_, .hostLoses (hostT .recall) 0 owedR rfl rfl rfl rfl dk dk rfl rfl rfl dk⟩⟩

end Sys2Proof.Tests
end

