-- ==== Sys2Proof/Tests/NetWitnesses.lean ====
section
/-! SUPPORT. Witnesses for the statements that are tables of events: the mesh, the outside, the register windows. -/

namespace Sys2Proof.Tests

open Sys2Proof Sys2Proof.Machine Sys2Proof.Claims

set_option Elab.async false

/-! The tables of `box` map one page: what an enumeration of its leaves gives, without evaluating the enumeration. -/

theorem cellGet_other (m : List Host.Cell) (a : Nat) (h : ∀ x ∈ m, x.1 ≠ a) : cellGet m a = emptyByte := by
  induction m with
  | nil => rfl
  | cons x m ih =>
    obtain ⟨b, v⟩ := x
    have hb : b ≠ a := h (b, v) (by simp)
    simp only [cellGet, hb, if_false]
    split
    · rfl
    · exact ih fun y hy => h y (by simp [hy])
/-- No copy of a line stands outside its home, and no frame migrates. -/
def atRest (s : State) : Prop := s.lines = [] ∧ s.wbs = [] ∧ s.migrs = []
theorem viewD_empty {s : State} (h : atRest s) (hm : ∀ x ∈ s.mem, x.1 % 4096 < 8) (a : Nat) (h8 : 8 ≤ a % 4096) (ha : a % 8 = 0) : s.viewD a = 0 := by
  have hv (i : Nat) (hi : i < 8) : s.viewByte (a + i) = 0 := by
    unfold State.viewByte State.ownedByte State.migrOf?
    rw [h.1, h.2.1, h.2.2]
    exact cellGet_other _ _ fun x hx he => by have := hm x hx; omega
  have hl : s.view a 8 = (List.range 8).map fun _ => 0 := List.map_congr_left fun i hi => hv i (List.mem_range.mp hi)
  unfold State.viewD
  rw [hl]
  decide
theorem locOf_entry {c : Ctx} {k : Nat} (hf : c.homeFrame k = some (0, k)) (hk : k < 2 ^ 20) (i : Nat) (hi : i < 512) :
    c.locOf (4096 * k + 8 * i) = some (4096 * k + 8 * i) := by
  unfold Ctx.locOf paKind
  rw [if_pos (by omega), show (4096 * k + 8 * i) / 2 ^ 12 = k by omega, hf]
  simp only [Option.map_some, dieBase]
  congr 1
  omega
theorem leaves_head {s : State} {c : Ctx} (h : atRest s) (hm : ∀ x ∈ s.mem, x.1 % 4096 < 8) {k : Nat} (hf : c.homeFrame k = some (0, k)) (hk : k < 2 ^ 20)
    (level va : Nat) : s.leavesFrom c (level + 1) (4096 * k) va =
      if s.viewD (4096 * k) = 0 then [] else if pteLeaf (s.viewD (4096 * k)) then
        (if pteShare (s.viewD (4096 * k)) = 0 then [] else [⟨va, level + 1, s.viewD (4096 * k), 4096 * k⟩])
      else if pteShare (s.viewD (4096 * k)) = 1 then s.leavesFrom c level (ptePfn (s.viewD (4096 * k)) * 4096) va else [] := by
  rw [State.leavesFrom, List.range_succ_eq_map, List.flatMap_cons, List.flatMap_eq_nil_iff.mpr, List.append_nil]
  · have h0 := locOf_entry hf hk 0 (by omega)
    simp only [Nat.mul_zero, Nat.add_zero] at h0
    simp only [Nat.mul_zero, Nat.add_zero, Nat.zero_mul, h0]
  · intro x hx
    obtain ⟨i, hi, rfl⟩ := List.mem_map.mp hx
    have hi := List.mem_range.mp hi
    rw [locOf_entry hf hk _ (by omega)]
    simp only
    rw [viewD_empty h hm _ (by omega) (by omega)]
    rfl
theorem box_leaves {s : State} {c : Ctx} (h : atRest s) (hm : s.mem = placedMem [] []) (hf : ∀ k, k < 5 → c.homeFrame k = some (0, k))
    (hp : c.ptb = rootPte placedFrame) : s.leaves c = [⟨0, 1, leafT, 4096 * 4⟩] := by
  have hc : ∀ x ∈ s.mem, x.1 % 4096 < 8 := by rw [hm]; decide
  have hd (k : Nat) (p : DWord) (hb : ((List.range 8).map fun i => cellGet (placedMem [] []) (4096 * k + i)) = natLe 8 p.toNat)
      (hq : BitVec.ofNat 64 (leNat (natLe 8 p.toNat)) = p) : s.viewD (4096 * k) = p := by
    have hv : s.view (4096 * k) 8 = natLe 8 p.toNat := by
      rw [← hb]
      refine List.map_congr_left fun i _ => ?_
      unfold State.viewByte State.ownedByte State.migrOf?
      rw [h.1, h.2.1, h.2.2, hm]
      rfl
    unfold State.viewD
    rw [hv, hq]
  have h1 := hd 1 (tablePte 2) dk dk
  have h2 := hd 2 (tablePte 3) dk dk
  have h3 := hd 3 (tablePte 4) dk dk
  have h4 := hd 4 leafT dk dk
  unfold State.leaves
  rw [hp, if_pos (by decide), show fieldD (rootPte placedFrame) 51 12 * 4096 = 4096 * 1 by decide,
    leaves_head h hc (hf 1 (by decide)) (by decide), h1, if_neg (by decide), if_neg (by decide), if_pos (by decide), show ptePfn (tablePte 2) * 4096 = 4096 * 2 by decide,
    leaves_head h hc (hf 2 (by decide)) (by decide), h2, if_neg (by decide), if_neg (by decide), if_pos (by decide), show ptePfn (tablePte 3) * 4096 = 4096 * 3 by decide,
    leaves_head h hc (hf 3 (by decide)) (by decide), h3, if_neg (by decide), if_neg (by decide), if_pos (by decide), show ptePfn (tablePte 4) * 4096 = 4096 * 4 by decide,
    leaves_head h hc (hf 4 (by decide)) (by decide), h4, if_neg (by decide), if_pos (by decide), if_neg (by decide)]

/-- The packet of `pktT` on its way from die 31 to die 0, with the request 3 travelling. -/
def packBox (p : Packet) : State := { box heroT with packets := [p], reqs := [reqT 3 .travelling (.load 4) 0] }
def memP : Packet := pktT 31 0 0 (.mem [3])
def repP (life : BitVec 16) : Packet := { pktT 31 0 1 (.reply [3]) with tgtLife := life }
def backP : Packet := { memP with returned := true, since := none, place := 31 }
theorem arrived_of {s : State} {p : Packet} (h : decide (s.packet? p.id = some p ∧ p.returned = false ∧ p.held = false ∧ p.nack = false ∧ p.since ≠ none ∧ p.place = p.dst) = true
    := by decide +kernel) : arrived s p := (of_decide_eq_true h :)
theorem inTurn_of {s : State} {p : Packet} (h : decide (p.chan ≠ 1 ∧ (s.seqOf p.src p.dst p.chan).want = p.seq) = true := by decide +kernel)
    (g : arrived s p := by exact arrived_of) : inTurn s p := ⟨g, of_decide_eq_true h⟩
/-- The clock of the router that the packet stands at. -/
def atClock (s : State) (k c : Nat) : State := { s with routers := s.routers.modify k fun r => { r with clock := c } }
/-- The links of die 31 are down, as its router knows. -/
def cutOff (s : State) : State := { s with routers := s.routers.modify 31 fun r => { r with down := (List.range 64).map fun k => (min k 31, max k 31) } }
theorem witness_MeshEvents_packets :
    Meets MeshEvent (packBox memP) (.packetArrival 70) ∧ Meets MeshEvent (packBox { memP with seq := 1 }) (.packetArrival 70)
    ∧ Meets MeshEvent (packBox { memP with nack := true, place := 31 }) (.responseArrival 70)
    ∧ Meets MeshEvent (inReset (packBox memP) 0) (.packetArrival 70) ∧ Meets MeshEvent (packBox { memP with tgtLife := 1 }) (.packetArrival 70)
    ∧ Meets MeshEvent (packBox (repP 0)) (.responseArrival 70) ∧ Meets MeshEvent (packBox (repP 1)) (.responseArrival 70)
    ∧ Meets MeshEvent (packBox (pktT 31 0 1 (.wbAck 9))) (.responseArrival 70)
    ∧ Meets MeshEvent (packBox backP) (.nackResend 31 0) ∧ Meets MeshEvent (cutOff (packBox backP)) (.nackResend 31 0)
    ∧ Meets MeshEvent (atClock (packBox memP) 0 64) (.escapeMove 70) ∧ Meets MeshEvent (atClock (packBox memP) 0 63) (.escapeMove 70) :=
  ⟨⟨_, .arrives memP _ accepted_of dk rfl⟩, ⟨_, .outOfTurn { memP with seq := 1 } _ arrived_of dk rfl dk⟩,
    ⟨_, .comesBack { memP with nack := true, place := 31 } rfl rfl rfl rfl dk rfl⟩, ⟨_, .noLongerThere memP _ 3 inTurn_of rfl (.inr (.inl rfl)) dk⟩,
    ⟨_, .otherLife { memP with tgtLife := 1 } _ 3 inTurn_of rfl rfl rfl dk dk dk dk⟩, ⟨_, .replyLands (repP 0) _ accepted_of rfl rfl⟩,
    ⟨_, .staleReply (repP 1) _ arrived_of rfl rfl dk dk⟩, ⟨_, .bufferFreed (pktT 31 0 1 (.wbAck 9)) 9 accepted_of rfl rfl⟩, ⟨_, .resent 31 0 dk dk⟩,
    ⟨_, .givenUp 31 0 backP _ 3 dk rfl rfl rfl dk dk rfl dk⟩, ⟨_, .escapes memP 0 rfl rfl rfl rfl rfl rfl dk⟩,
    ⟨_, .staysOn memP rfl fun c h => by cases h; exact dk⟩⟩

def noteT (up : Bool) (applied acked : List Nat) (settled : Bool) : Notice := ⟨5, 0, 1, up, applied, acked, settled⟩
def dueR : MemReq := { reqT 3 .travelling (.load 4) 0 with deadline := some 100 }
def atCycle (s : State) (d c : Nat) : State := { s with dies := s.dies.modify d fun x => { x with cycle := c } }
theorem witness_MeshEvents_links :
    Meets MeshEvent (packBox memP) (.linkFailure 1 0) ∧ Meets MeshEvent { box heroT with linksDown := [(0, 1)] } (.linkUp 1 0)
    ∧ Meets MeshEvent { box heroT with notices := [noteT false [] [] false] } (.linkStateNotice 63 5)
    ∧ Meets MeshEvent { box heroT with notices := [noteT false [63] (List.range 63) false] } (.linkStateAck 63 5)
    ∧ Meets MeshEvent { box heroT with notices := [noteT false [] [] true] } (.settledNotice 63 5)
    ∧ Meets MeshEvent (atCycle { box heroT with reqs := [dueR] } 0 100) (.completionTimeout 3)
    ∧ Meets MeshEvent (atCycle { box heroT with reqs := [dueR] } 0 99) (.completionTimeout 3) :=
  ⟨⟨_, .fails_ 1 0 dk dk dk⟩, ⟨_, .comesUp 1 0 dk dk⟩, ⟨_, .noticed (noteT false [] [] false) 63 rfl dk dk rfl⟩,
    ⟨_, .acked (noteT false [63] (List.range 63) false) 63 dk dk dk⟩, ⟨_, .settles (noteT false [] [] true) 63 dk rfl dk⟩,
    ⟨_, .timesOut dueR 100 rfl rfl dk dk⟩, ⟨_, .inTime dueR 100 rfl rfl dk⟩⟩

def mailT (die : Nat) : Message := ⟨0, 6, die, 7, 0, 0, 0, 0, List.replicate 56 0⟩
def fullMail (die src : Nat) : State := { box heroT with mailboxes := [⟨die, src, 7, List.replicate 16 (mailT die)⟩] }
def mailP (life : BitVec 16) : Packet := { pktT 31 0 0 (.mail (mailT 0)) with tgtLife := life }
theorem witness_MeshEvents_mail :
    Meets MeshEvent (box heroT) (.mailboxSend 31 7 (mailT 31)) ∧ Meets MeshEvent (fullMail 31 7) (.mailboxSend 31 7 (mailT 31))
    ∧ Meets MeshEvent (box heroT) (.mailboxSend 31 7 (mailT 0)) ∧ Meets MeshEvent (box heroT) (.mailboxSend 31 7 (mailT 32))
    ∧ Meets MeshEvent (fullMail 31 5) (.mailboxReceive 31 7) ∧ Meets MeshEvent (packBox (mailP 0)) (.mailboxRemoteDeliver 70)
    ∧ Meets MeshEvent { fullMail 0 6 with packets := [mailP 0] } (.mailboxRemoteDeliver 70) ∧ Meets MeshEvent (packBox (mailP 1)) (.mailboxRemoteDeliver 70) :=
  ⟨⟨_, .mailed 31 7 (mailT 31) dk dk dk rfl dk⟩, ⟨_, .mailFull 31 7 (mailT 31) dk dk dk rfl dk⟩, ⟨_, .mailAway 31 7 (mailT 0) dk dk dk dk dk dk dk⟩,
    ⟨_, .mailAstray 31 7 (mailT 32) dk dk dk dk dk⟩, ⟨_, .read 31 7 5 (mailT 31) _ dk rfl⟩, ⟨_, .delivered (mailP 0) _ accepted_of rfl dk⟩,
    ⟨_, .refused (mailP 0) _ accepted_of dk rfl dk⟩, ⟨_, .mailStale (mailP 1) _ inTurn_of rfl rfl rfl dk dk⟩⟩

def fabricR : MemReq := { reqT 3 .atHome (.load 4) 0 with kind := 10 }
def cxlLine : CLine := { lineT 1 with line := 9 * 2 ^ 42 }
def peerT (a : OutsideAccess) : PeerReq := ⟨1, 0, 0, a, none⟩
def expCtx : Ctx := { placedCtx with expLen := 4096 }
def expBox : State := { box heroT with ctxs := [expCtx] }
def hostPart : Partition := { newPartition (List.range 32) with hostCtx := some 0, hostLen := 16 }
def hostBox : State := { box heroT with partitions := [hostPart] }
theorem portLive_of {s : State} {k : Nat} (h : decide (k ∉ s.fabricDown ∧ s.socketOn (48 + k / 4) = true) = true := by decide +kernel) : portLive s k :=
  (of_decide_eq_true h :)
def lastPort : State := { box heroT with fabricDown := List.range 15, reqs := [fabricR] }
theorem noPort : ∀ j, j < 16 → j ≠ 15 → ¬portLive lastPort j := fun j hj hn h => by
  have : j ∈ List.range 15 := List.mem_range.mpr (by omega)
  exact h.1 this
theorem witness_OutsideEvents_ports :
    Meets OutsideEvent (box heroT) (.fabricPortFailure 15) ∧ Meets OutsideEvent lastPort (.fabricPortFailure 15)
    ∧ Meets OutsideEvent (box heroT) (.ethernetPortDown 1) ∧ Meets OutsideEvent (box heroT) (.ethReadRequest 1 0)
    ∧ Meets OutsideEvent { box heroT with lines := [cxlLine] } (.cxlLinkLoss 0) ∧ Meets OutsideEvent (box heroT) (.cxlRetrainDone 1)
    ∧ Meets OutsideEvent (box heroT) (.mgmtPortRequest (.energy 0)) ∧ Meets OutsideEvent (box heroT) (.mgmtPortRequest (.health 31)) :=
  ⟨⟨_, .portFails 15 dk dk ⟨0, dk, dk, portLive_of⟩⟩,
    ⟨_, .lastPortFails 15 fabricR dk dk noPort rfl dk rfl (.inl ⟨rfl, rfl⟩) dk⟩, ⟨_, .ethernetDown 1 dk dk⟩, ⟨_, .noReads 1 0 dk dk⟩,
    ⟨_, .linkLost 0 _ cxlLine dk dk dk dk rfl rfl dk⟩, ⟨_, .retrained 1⟩, ⟨_, .energyRead 0 (newPartition (List.range 32)) dk⟩, ⟨_, .healthRead 31 dk⟩⟩

/-- The last line of the exported window is damaged; no entry of the page is cached. -/
def badBox : State := onDie expBox fun d => { d with damaged := [pageLoc / 64 + 63] }
def coldBox : State := { expBox with tlbs := [] }
def coldHost : State := { hostBox with tlbs := [] }
theorem peerWrites_row : Meets OutsideEvent expBox (.peerRequest (peerT (.write 4092 [1, 2, 3, 4]))) := by
  obtain ⟨s1, h⟩ := done_of (x := expBox.writeVa expCtx expCtx.lowDie (expCtx.expVa + BitVec.ofNat 64 4092) [1, 2, 3, 4]) dk
  exact ⟨_, .peerWrites (peerT (.write 4092 [1, 2, 3, 4])) expCtx 4092 [1, 2, 3, 4] s1 rfl rfl rfl dk h⟩
theorem hostWrites_row : Meets OutsideEvent hostBox (.hostWindowAccess 0 (.write 8 (natLe 8 7))) := by
  obtain ⟨s1, h⟩ := done_of (x := hostBox.writeVa placedCtx placedCtx.lowDie (hostPart.hostVa + BitVec.ofNat 64 8) (natLe 8 7)) dk
  exact ⟨_, .hostWrites 0 hostPart 0 placedCtx 8 (natLe 8 7) s1 dk rfl rfl dk dk h⟩
theorem park_of {x : DescEnd} (h : (match x with | .park _ => true | _ => false) = true) : ∃ s1, x = .park s1 := by
  cases x with
  | park s1 => exact ⟨s1, rfl⟩
  | _ => cases h
theorem fault_of {x : DescEnd} (h : (match x with | .fault _ _ => true | _ => false) = true) : ∃ e s1, x = .fault e s1 := by
  cases x with
  | fault e s1 => exact ⟨e, s1, rfl⟩
  | _ => cases h
theorem bytes_of {x : DescEnd} {b : List Byte} (h : (match x with | .bytes y => decide (y = b) | _ => false) = true) : x = .bytes b := by
  cases x with
  | bytes y => exact congrArg _ (of_decide_eq_true h)
  | _ => cases h
theorem go_of {x : AtomEnd} (h : (match x with | .go => true | _ => false) = true) : x = .go := by
  cases x with
  | go => rfl
  | _ => cases h
theorem peerWaits_row : Meets OutsideEvent coldBox (.peerRequest (peerT (.read 4092 4))) := by
  obtain ⟨s1, h⟩ := park_of (x := coldBox.descRead expCtx expCtx.lowDie (expCtx.expVa + BitVec.ofNat 64 4092) 4) dk
  exact ⟨_, .peerWaits (peerT (.read 4092 4)) expCtx 4092 4 s1 rfl rfl dk h⟩
theorem hostWaits_row : Meets OutsideEvent coldHost (.hostWindowAccess 0 (.read 8 8)) := by
  obtain ⟨s1, h⟩ := park_of (x := coldHost.descRead placedCtx placedCtx.lowDie (hostPart.hostVa + BitVec.ofNat 64 8) 8) dk
  exact ⟨_, .hostWaits 0 hostPart 0 placedCtx 8 8 s1 dk rfl rfl dk dk h⟩
theorem peerFails_row : Meets OutsideEvent badBox (.peerRequest (peerT (.read 4092 4))) := by
  obtain ⟨e, s1, h⟩ := fault_of (x := badBox.descRead expCtx expCtx.lowDie (expCtx.expVa + BitVec.ofNat 64 4092) 4) dk
  exact ⟨_, .peerFails (peerT (.read 4092 4)) expCtx 4092 4 e s1 rfl rfl dk h⟩
theorem witness_OutsideEvents_accesses :
    Meets OutsideEvent (box heroT) (.peerRequest { peerT (.read 0 1) with ctx := 255 }) ∧ Meets OutsideEvent expBox (.peerRequest (peerT (.read 4093 4)))
    ∧ Meets OutsideEvent expBox (.peerRequest (peerT (.read 4092 4)))
    ∧ Meets OutsideEvent expBox (.peerRequest { peerT (.write 4088 (natLe 8 7)) with atom := some .add })
    ∧ Meets OutsideEvent (box heroT) (.hostWindowAccess 0 (.read 0 8)) ∧ Meets OutsideEvent hostBox (.hostWindowAccess 0 (.read 16 8))
    ∧ Meets OutsideEvent hostBox (.hostWindowAccess 0 (.read 8 8)) :=
  ⟨⟨_, .noWindow _ rfl⟩, ⟨_, .pastWindow _ expCtx rfl dk⟩, ⟨_, .peerReads _ expCtx 4092 4 (List.replicate 4 0) rfl rfl dk dk⟩,
    ⟨_, .peerAdds { peerT (.write 4088 (natLe 8 7)) with atom := some .add } expCtx 4088 (natLe 8 7) (pageLoc + 4088) placedLeaf rfl rfl rfl dk dk dk dk dk dk (go_of dk)⟩,
    ⟨_, .unbound 0 (newPartition (List.range 32)) 0 8 dk rfl⟩, ⟨_, .pastLimit 0 hostPart 16 8 dk dk⟩,
    ⟨_, .hostReads 0 hostPart 0 placedCtx 8 8 (List.replicate 8 0) dk rfl rfl dk dk (bytes_of dk)⟩⟩

/-- Queue 63 of partition 0, with 16 slots. -/
def queueT (en err : Bool) (tail : Word) : JobQueue := ⟨0, 0, 4, en, err, 0, tail, 0⟩
def queueBox (q : JobQueue) : State := { box heroT with partitions := [{ newPartition (List.range 32) with queues := [(63, q)] }] }
def onBox : State := queueBox (queueT true false 0)
def part0 : Partition := newPartition (List.range 32)
def busyPart : Partition := { part0 with busy := 0x8000 }
theorem witness_WindowEvents :
    Meets WindowEvent onBox (.jqnotifyWrite 0 63 .low 16) ∧ Meets WindowEvent onBox (.jqnotifyWrite 0 63 .low 17)
    ∧ Meets WindowEvent (box heroT) (.jqnotifyWrite 0 63 .low 16) ∧ Meets WindowEvent (box heroT) (.jqctlEnSet 0 63 .whole 0xF00000001)
    ∧ Meets WindowEvent (box heroT) (.jqctlEnSet 0 63 .whole 0xFF0000000001) ∧ Meets WindowEvent onBox (.jqctlEnClear 0 63 .low 0)
    ∧ Meets WindowEvent (queueBox (queueT true true 0)) (.jqctlErrClear 0 63 .low 3) ∧ Meets WindowEvent (box heroT) (.jqConfigWrite 0 63 true .whole (-1))
    ∧ Meets WindowEvent onBox (.jqConfigWrite 0 63 true .whole 128) ∧ Meets WindowEvent (box heroT) (.mqsubmitWrite 0 .low 15)
    ∧ Meets WindowEvent { box heroT with partitions := [busyPart] } (.mqsubmitWrite 0 .low 15) ∧ Meets WindowEvent (box heroT) (.mqdoneClear 0 .low 0x8000)
    ∧ Meets WindowEvent (box heroT) (.registerWrite 0 0x4FF8 .host .whole 7) ∧ Meets WindowEvent (box heroT) (.registerWrite 0 0x2008 .host .whole 7)
    ∧ Meets WindowEvent (box heroT) (.registerWrite 0 0x4FF8 .program .whole 7) :=
  ⟨⟨_, .notified 0 63 16 placedCtx 0 dk dk dk dk rfl rfl dk dk⟩, ⟨_, .tooFar 0 63 17 placedCtx 0 dk dk dk dk rfl rfl dk⟩, ⟨_, .notEnabled 0 63 16 (.inl dk)⟩,
    ⟨_, .enabled 0 63 placedCtx 0xF00000001 dk dk dk dk dk dk rfl dk⟩, ⟨_, .noContext 0 63 0xFF0000000001 dk dk dk dk dk dk⟩,
    ⟨_, .disabled 0 63 0 dk dk dk dk dk⟩, ⟨_, .errorCleared 0 63 3 dk dk dk dk dk dk⟩, ⟨_, .baseSet 0 63 (-1) dk dk dk⟩, ⟨_, .baseRefused 0 63 128 dk dk dk dk⟩,
    ⟨_, .submitted 0 part0 15 dk dk⟩, ⟨_, .stillBusy 0 busyPart 15 dk dk⟩, ⟨_, .doneCleared 0 part0 0x8000 dk⟩, ⟨_, .slotWritten 0 part0 0x4FF8 7 dk dk dk dk dk⟩,
    ⟨_, .readOnly 0 0x2008 .host .whole 7 (.inr rfl)⟩, ⟨_, .programSlot 0 0x4FF8 .whole 7 dk dk⟩⟩

end Sys2Proof.Tests
end

