-- ==== Sys2Proof/Tests/WorkWitnesses.lean ====
section
/-! SUPPORT. Witnesses for the statements that are tables of events: management, jobs, scheduling, graphs. -/

namespace Sys2Proof.Tests

open Sys2Proof Sys2Proof.Machine Sys2Proof.Claims

set_option Elab.async false

theorem some_of {α : Type} {o : Option α} (h : o.isSome = true) : o = some (o.get h) := by simp
/-- Slot 15 of partition 0 holds operation `op` for context 0 with these arguments, and has been submitted. -/
def mqBytes (op : Byte) (args : List Byte) : List Byte := [op, 0, 0, 0, 0, 0, 0, 0] ++ args ++ List.replicate (248 - args.length) 0
def mqPart (b : List Byte) : Partition := { part0 with slots := [(15, b)], submitted := [15], busy := 0x8000 }
def mqBox (b : List Byte) : State := { box heroT with partitions := [mqPart b] }
def servT (moved : Nat) : Serving := ⟨15, 0, 1, [], [], moved⟩
def servPart (b : List Byte) : Partition := { mqPart b with serving := some (servT 16) }
def servBox (b : List Byte) : State := { mqBox b with partitions := [servPart b] }
def placeArgs (mask : Nat) : List Byte := natLe 4 mask ++ [0, 0, 0, 0] ++ natLe 8 7
def mapArgs (va : Nat) : List Byte := natLe 8 va ++ natLe 8 4096 ++ [0, 3, 1, 0]
def rangeArgs (va : Nat) : List Byte := natLe 8 va ++ natLe 8 4096
def newB : List Byte := mqBytes 1 (placeArgs 1)
def newC : Ctx := newCtx 0 1 (BitVec.ofNat 32 (leAt newB 8 4)) (byteAt newB 12) (BitVec.ofNat 64 (leAt newB 16 8))
def newBox : State := { mqBox newB with ctxs := (mqBox newB).ctxs ++ [newC] }
theorem firstFrom_none (ok : Nat → Bool) (m : Nat) : ∀ n i, firstFrom ok m n i = none → ∀ j, j < n → ok ((i + j) % m) = false := by
  intro n
  induction n with
  | zero => intro _ _ j hj; omega
  | succ n ih =>
    intro i h j hj
    unfold firstFrom at h
    split at h
    · cases h
    · rename_i hf
      cases j with
      | zero => simpa using hf
      | succ j => rw [show i + (j + 1) = i + 1 + j by omega]; exact ih _ h j (by omega)
theorem firstFrom_finds (ok : Nat → Bool) (m i k : Nat) (hk : k < m) (hok : ok k = true) : (firstFrom ok m m i).isSome = true := by
  cases h : firstFrom ok m m i with
  | some x => rfl
  | none =>
    have hm : 0 < m := by omega
    have := firstFrom_none ok m m i h ((k + (m - i % m)) % m) (Nat.mod_lt _ hm)
    have hi := Nat.mod_lt i hm
    rw [Nat.add_mod, Nat.mod_mod, ← Nat.add_mod, show i + (k + (m - i % m)) = k + m * (i / m + 1) by rw [Nat.mul_add]; have := Nat.div_add_mod i m; omega,
      Nat.add_mul_mod_self_left, Nat.mod_eq_of_lt hk, hok] at this
    cases this
theorem takeFrame_finds {s : State} {c : Ctx} {p : Nat → Bool} (k : Nat) (hk : k < 2 ^ 28) (h : (p k && s.frameFree c k) = true) :
    (s.takeFrame c p).isSome = true := by
  unfold State.takeFrame
  have := firstFrom_finds (fun f => p f && s.frameFree c f) (2 ^ 28) (Config.frameStart s.fresh) k hk h
  unfold State.pickFrame
  split
  · rename_i hn; rw [hn] at this; cases this
  · rfl
theorem serves_of {s : State} {k : Nat} {p : Partition} {slot op : Nat} {b : List Byte} (h : decide (s.part k = some p ∧ p.submitted.head? = some slot ∧ slot < 16
    ∧ b = slotBytes p slot ∧ b.length = 256 ∧ byteAt b 0 = op ∧ mqBad b = false ∧ (s.router p.lead).inReset = false) = true := by decide +kernel) :
    serves s k p slot op b := by
  obtain ⟨h1, h2, h⟩ := of_decide_eq_true h
  cases hs : p.submitted with
  | nil => rw [hs] at h2; cases h2
  | cons x r => rw [hs] at h2; cases h2; exact ⟨h1, ⟨r, hs⟩, h⟩
theorem ofContext_of {s : State} {k : Nat} {b : List Byte} {c : Ctx} (h : decide (s.ctx? (256 * k + byteAt b 3) = some c ∧ c ∈ s.ctxs ∧ c.part = k ∧ c.num = byteAt b 3)
    = true := by decide +kernel) : ofContext s k b c := (of_decide_eq_true h :)
theorem doneP {x : WriteEnd} {p : State → Bool} (h : (match x with | .done s1 => p s1 | _ => false) = true) : ∃ s1, x = .done s1 ∧ p s1 = true := by
  cases x with
  | done s1 => exact ⟨s1, rfl, h⟩
  | _ => cases h
theorem created_row : Meets ManagementEvent (mqBox newB) (.ctxcreate 0) := by
  obtain ⟨⟨f, s1⟩, h⟩ := Option.isSome_iff_exists.mp (takeFrame_finds (s := newBox) (c := newC) (p := fun _ => true) 0 (by decide) dk)
  exact ⟨_, .created 0 (mqPart newB) 15 newB 1 f s1 serves_of dk dk h⟩
def mapB : List Byte := mqBytes 3 (natLe 8 0x1000 ++ natLe 8 4096 ++ [0, 3, 6, 0, 0, 0, 0, 0] ++ natLe 8 (8 * 2 ^ 48))
theorem isSomeP {α : Type} {o : Option α} {p : α → Bool} (h : o.any p = true) : ∃ x, o = some x ∧ p x = true := by
  cases o with
  | none => cases h
  | some x => exact ⟨x, rfl, h⟩
theorem mapped_row : Meets ManagementEvent (mqBox mapB) (.mgmtMap 0) := by
  obtain ⟨s1, h, hp⟩ := isSomeP (o := (mqBox mapB).mapPages placedCtx 0 (mapSpec mapB) (if byteAt mapB 26 = 6 then some (leAt mapB 32 8) else none)
    (leAt mapB 16 8 / 4096) (leAt mapB 8 8)) (p := fun s => s.part 0 == some (mqPart mapB)) dk
  exact ⟨_, .mapped 0 (mqPart mapB) 15 mapB placedCtx s1 serves_of ofContext_of dk (by unfold State.anyMapped; rw [box_leaves ⟨rfl, rfl, rfl⟩ rfl dk rfl]; decide +kernel) dk h (beq_iff_eq.mp hp)⟩
def migB : List Byte := mqBytes 5 (rangeArgs 0x1000)
theorem notMigrated_row : Meets ManagementEvent (mqBox migB) (.migrate 0) := by
  have h1 : State.migrateRefused migB ((mqBox migB).leavesIn placedCtx (leAt migB 8 8) (leAt migB 16 8)) = false := (by unfold State.leavesIn; rw [box_leaves ⟨rfl, rfl, rfl⟩ rfl dk rfl]; decide +kernel)
  have h2 : allMapped ((mqBox migB).leavesIn placedCtx (leAt migB 8 8) (leAt migB 16 8)) (leAt migB 8 8) (leAt migB 16 8) = false := (by unfold State.leavesIn; rw [box_leaves ⟨rfl, rfl, rfl⟩ rfl dk rfl]; decide +kernel)
  exact ⟨_, .notMigrated 0 (mqPart migB) 15 migB placedCtx serves_of ofContext_of dk h1 h2⟩
theorem witness_ManagementEvents_contexts :
    Meets ManagementEvent (mqBox newB) (.ctxcreate 0) ∧ Meets ManagementEvent (mqBox (mqBytes 1 (placeArgs 0))) (.ctxcreate 0)
    ∧ Meets ManagementEvent { mqBox (mqBytes 2 []) with levels := [lvT] } (.ctxdestroy 0) ∧ Meets ManagementEvent (servBox (mqBytes 2 [])) (.ctxdestroy 0)
    ∧ Meets ManagementEvent (mqBox (mqBytes 3 (mapArgs 0))) (.mgmtMap 0) ∧ Meets ManagementEvent (mqBox mapB) (.mgmtMap 0)
    ∧ Meets ManagementEvent (mqBox (mqBytes 4 (rangeArgs 0x1000))) (.mgmtUnmap 0) ∧ Meets ManagementEvent (servBox (mqBytes 4 (rangeArgs 0))) (.mgmtUnmap 0)
    ∧ Meets ManagementEvent { servBox (mqBytes 4 (rangeArgs 0)) with invals := [⟨31, 0, 0, 1⟩] } (.mgmtUnmap 0)
    ∧ Meets ManagementEvent (servBox (mqBytes 5 (rangeArgs 0))) (.migrate 0) ∧ Meets ManagementEvent (mqBox migB) (.migrate 0) :=
  ⟨created_row,
    ⟨_, .badPlace 0 (mqPart (mqBytes 1 (placeArgs 0))) 15 (mqBytes 1 (placeArgs 0)) serves_of dk⟩,
    ⟨_, .inUse 0 (mqPart (mqBytes 2 [])) 15 (mqBytes 2 []) placedCtx serves_of ofContext_of dk dk⟩,
    ⟨_, .destroyed 0 (servPart (mqBytes 2 [])) 15 (mqBytes 2 []) placedCtx (servT 16) serves_of ofContext_of dk dk dk⟩,
    ⟨_, .overlap 0 (mqPart (mqBytes 3 (mapArgs 0))) 15 (mqBytes 3 (mapArgs 0)) placedCtx serves_of ofContext_of dk (by unfold State.anyMapped; rw [box_leaves ⟨rfl, rfl, rfl⟩ rfl dk rfl]; decide +kernel)⟩,
    mapped_row,
    ⟨_, .notMapped 0 (mqPart (mqBytes 4 (rangeArgs 0x1000))) 15 (mqBytes 4 (rangeArgs 0x1000)) placedCtx serves_of ofContext_of dk (by unfold State.leavesIn; rw [box_leaves ⟨rfl, rfl, rfl⟩ rfl dk rfl]; decide +kernel)⟩,
    ⟨_, .unmapped 0 (servPart (mqBytes 4 (rangeArgs 0))) 15 (mqBytes 4 (rangeArgs 0)) placedCtx (servT 16) serves_of ofContext_of dk dk dk⟩,
    ⟨_, .acksOutstanding 0 (servPart (mqBytes 4 (rangeArgs 0))) 15 (mqBytes 4 (rangeArgs 0)) placedCtx (servT 16) ⟨31, 0, 0, 1⟩ serves_of ofContext_of dk rfl dk rfl dk⟩,
    ⟨_, .migrated 0 (servPart (mqBytes 5 (rangeArgs 0))) 15 (mqBytes 5 (rangeArgs 0)) placedCtx (servT 16) serves_of ofContext_of dk rfl rfl dk⟩,
    notMigrated_row⟩

def setArgs (reg : Byte) : List Byte := [reg, 0, 0, 0, 0, 0, 0, 0] ++ List.replicate 8 0xFF
def shardCtx : Ctx := { placedCtx with shard := rootPte 9 }
def hostArgs : List Byte := natLe 8 0 ++ natLe 8 4096
def heldPart (b : List Byte) : Partition := { mqPart b with hostCtx := some 7 }
def reportArgs (len : Nat) : List Byte := List.replicate 32 1 ++ natLe 8 0 ++ natLe 8 len
def attB : List Byte := mqBytes 16 (reportArgs 4096)
theorem attested_row : Meets ManagementEvent (mqBox attB) (.attest 0) := by
  obtain ⟨s1, h, hp⟩ := doneP (x := (mqBox attB).writeVa placedCtx (mqPart attB).lead (BitVec.ofNat 64 (leAt attB 40 8)) ((mqBox attB).boot.report ((attB.drop 8).take 32)))
    (p := fun u => u.part 0 == some (mqPart attB)) dk
  exact ⟨_, .attested 0 (mqPart attB) 15 attB placedCtx s1 serves_of ofContext_of dk dk dk h (beq_iff_eq.mp hp)⟩
def sendB : List Byte := [16, 0, 2, 0, 0, 0, 0, 0] ++ reportArgs 0 ++ List.replicate 200 0
theorem witness_ManagementEvents_registers :
    Meets ManagementEvent (mqBox (mqBytes 6 (setArgs 4))) (.setreg 0) ∧ Meets ManagementEvent (mqBox (mqBytes 6 (setArgs 0x2F))) (.setreg 0)
    ∧ Meets ManagementEvent (mqBox (mqBytes 6 (setArgs 5))) (.setreg 0) ∧ Meets ManagementEvent { mqBox (mqBytes 7 [15]) with ctxs := [shardCtx] } (.shardgrp 0)
    ∧ Meets ManagementEvent (mqBox (mqBytes 8 [255, 1, 2, 3, 4])) (.mgmtPeer 0) ∧ Meets ManagementEvent (mqBox (mqBytes 9 hostArgs)) (.mgmtExport 0)
    ∧ Meets ManagementEvent (mqBox (mqBytes 10 hostArgs)) (.hostwin 0)
    ∧ Meets ManagementEvent { mqBox (mqBytes 10 hostArgs) with partitions := [heldPart (mqBytes 10 hostArgs)] } (.hostwin 0)
    ∧ Meets ManagementEvent (mqBox (mqBytes 11 [1])) (.mgmtDebug 0) ∧ Meets ManagementEvent (mqBox attB) (.attest 0)
    ∧ Meets ManagementEvent (mqBox sendB) (.attest 0) ∧ Meets ManagementEvent { mqBox sendB with ethDown := [0, 1] } (.attest 0)
    ∧ Meets ManagementEvent (mqBox (mqBytes 16 (reportArgs 0))) (.attest 0)
    ∧ Meets ManagementEvent { mqBox (mqBytes 11 [1]) with ctxs := [] } (.mgmtDebug 0) :=
  ⟨⟨_, .register 0 (mqPart (mqBytes 6 (setArgs 4))) 15 (mqBytes 6 (setArgs 4)) placedCtx serves_of ofContext_of dk⟩, ⟨_, .windowRegister 0 (mqPart (mqBytes 6 (setArgs 0x2F))) 15 (mqBytes 6 (setArgs 0x2F)) placedCtx 15 serves_of ofContext_of dk dk dk⟩,
    ⟨_, .saveInUse 0 (mqPart (mqBytes 6 (setArgs 5))) 15 (mqBytes 6 (setArgs 5)) placedCtx wgT serves_of ofContext_of dk dk rfl⟩,
    ⟨_, .groupSet 0 (mqPart (mqBytes 7 [15])) 15 (mqBytes 7 [15]) shardCtx (List.replicate 256 0) serves_of ofContext_of dk (by unfold State.usesGroup; rw [box_leaves ⟨rfl, rfl, rfl⟩ rfl dk rfl]; decide +kernel) dk⟩,
    ⟨_, .peerSet 0 (mqPart (mqBytes 8 [255, 1, 2, 3, 4])) 15 (mqBytes 8 [255, 1, 2, 3, 4]) placedCtx serves_of ofContext_of dk⟩, ⟨_, .exported 0 (mqPart (mqBytes 9 hostArgs)) 15 (mqBytes 9 hostArgs) placedCtx serves_of ofContext_of⟩,
    ⟨_, .hostBound 0 (mqPart (mqBytes 10 hostArgs)) 15 (mqBytes 10 hostArgs) placedCtx serves_of ofContext_of dk dk⟩, ⟨_, .hostHeld 0 (heldPart (mqBytes 10 hostArgs)) 15 (mqBytes 10 hostArgs) placedCtx 7 serves_of ofContext_of dk dk dk⟩,
    ⟨_, .debugSet 0 (mqPart (mqBytes 11 [1])) 15 (mqBytes 11 [1]) placedCtx serves_of ofContext_of⟩, attested_row,
    ⟨_, .attestedAfar 0 (mqPart sendB) 15 sendB placedCtx serves_of ofContext_of dk dk⟩, ⟨_, .noPortUp 0 (mqPart sendB) 15 sendB placedCtx serves_of ofContext_of dk dk⟩,
    ⟨_, .reportTooLong 0 (mqPart (mqBytes 16 (reportArgs 0))) 15 (mqBytes 16 (reportArgs 0)) placedCtx serves_of ofContext_of dk dk⟩, ⟨_, .unknownContext 0 (mqPart (mqBytes 11 [1])) 15 (mqBytes 11 [1]) serves_of dk⟩⟩

theorem mem_entry {s : State} {c : Ctx} {k level va i : Nat} {x : LeafAt} {p : DWord} (hf : c.homeFrame k = some (0, k)) (hk : k < 2 ^ 20) (hi : i < 512)
    (hd : s.viewD (4096 * k + 8 * i) = p) (hz : p ≠ 0)
    (hx : x ∈ if pteLeaf p then (if pteShare p = 0 then [] else [⟨va + i * 2 ^ (12 + 9 * level), level + 1, p, 4096 * k + 8 * i⟩])
      else if pteShare p = 1 then s.leavesFrom c level (ptePfn p * 4096) (va + i * 2 ^ (12 + 9 * level)) else []) :
    x ∈ s.leavesFrom c (level + 1) (4096 * k) va := by
  rw [State.leavesFrom]
  refine List.mem_flatMap.mpr ⟨i, List.mem_range.mpr hi, ?_⟩
  rw [locOf_entry hf hk i hi]
  simp only [hd]
  rw [if_neg hz]
  exact hx
/-- Page 1 is a sharded page of group 15. -/
def shardLeafT : DWord := (⟨2, 15, false, false, false, false, true, true, false⟩ : LeafSpec).pte 40
def groupB : List Byte := mqBytes 7 [15]
def groupBox : State := { mqBox groupB with ctxs := [shardCtx], mem := cellsSet (placedMem [] []) (4096 * 4 + 8) (natLe 8 shardLeafT.toNat) }
theorem groupBox_leaf : (⟨4096, 1, shardLeafT, 4096 * 4 + 8 * 1⟩ : LeafAt) ∈ groupBox.leaves shardCtx := by
  have hf (k : Nat) (hk : k < 5) : shardCtx.homeFrame k = some (0, k) := by revert k; decide +kernel
  unfold State.leaves
  rw [if_pos (by decide), show fieldD shardCtx.ptb 51 12 * 4096 = 4096 * 1 by decide]
  refine mem_entry (i := 0) (p := tablePte 2) (hf 1 (by decide)) (by decide) (by decide) dk (by decide) ?_
  rw [if_neg (by decide), if_pos (by decide), show ptePfn (tablePte 2) * 4096 = 4096 * 2 by decide]
  refine mem_entry (i := 0) (p := tablePte 3) (hf 2 (by decide)) (by decide) (by decide) dk (by decide) ?_
  rw [if_neg (by decide), if_pos (by decide), show ptePfn (tablePte 3) * 4096 = 4096 * 3 by decide]
  refine mem_entry (i := 0) (p := tablePte 4) (hf 3 (by decide)) (by decide) (by decide) dk (by decide) ?_
  rw [if_neg (by decide), if_pos (by decide), show ptePfn (tablePte 4) * 4096 = 4096 * 4 by decide]
  refine mem_entry (i := 1) (p := shardLeafT) (hf 4 (by decide)) (by decide) (by decide) dk (by decide) ?_
  rw [if_pos (by decide), if_neg (by decide)]
  exact List.mem_singleton.mpr rfl
theorem witness_ManagementEvents_group : Meets ManagementEvent groupBox (.shardgrp 0) :=
  ⟨_, .groupInUse 0 (mqPart groupB) 15 groupB shardCtx (List.replicate 256 0) serves_of ofContext_of dk (List.any_eq_true.mpr ⟨_, groupBox_leaf, by decide +kernel⟩)⟩

def jobT (type : Nat) : Job := ⟨7, 0, 0, 63, 0, 0, type, 4, 5, 0, 0, 0, 0, 0, 0, false, false, .none⟩
def tailBox (mem : List Byte) (j : Job) : State := { queueBox (queueT true false 1) with mem := placedMem [] mem, jobs := [j] }
def parseBox (mem : List Byte) : State := { queueBox (queueT true false 1) with mem := placedMem [] mem }
def levelJ : Level := { lvT with kind := .job, job := 7 }
def stepDesc : List Byte := natLe 8 1 ++ List.replicate 56 0 ++ ([1] ++ List.replicate 15 0 ++ natLe 4 1 ++ natLe 4 1 ++ natLe 4 1 ++ List.replicate 36 0)
theorem witness_JobEvents :
    Meets JobEvent (parseBox []) (.parserReadPacket 0 0) ∧ Meets JobEvent (parseBox [3]) (.parserReadPacket 0 0)
    ∧ Meets JobEvent (onDie (parseBox []) fun d => { d with damaged := [pageLoc / 64] }) (.parserReadPacket 0 0)
    ∧ Meets JobEvent (tailBox [] (jobT 0)) (.jobNoop 7) ∧ Meets JobEvent (tailBox [] (jobT 1)) (.jobGraph 7)
    ∧ Meets JobEvent (tailBox stepDesc (jobT 2)) (.jobStep 7) ∧ Meets JobEvent (tailBox [] (jobT 2)) (.jobStep 7)
    ∧ Meets JobEvent (tailBox [] (jobT 8)) (.jobWait 7) ∧ Meets JobEvent (tailBox [] { jobT 8 with wval := 1 }) (.jobWait 7)
    ∧ Meets JobEvent (tailBox [1] { jobT 8 with wval := 1, started := true, waiting := true }) (.waitPacketRecheck 7)
    ∧ Meets JobEvent { tailBox [] { jobT 9 with id := 8, waddr := 5 } with jobs := [{ jobT 1 with started := true }, { jobT 9 with id := 8, waddr := 5 }], levels := [levelJ] } (.jobCancel 8) :=
  ⟨⟨_, .packetRead 0 0 63 placedCtx 0 (List.replicate 128 0) dk dk dk dk dk dk dk⟩, ⟨_, .badPacket 0 0 63 placedCtx 0 (3 :: List.replicate 127 0) dk dk dk dk dk dk dk⟩,
    ⟨_, .unreadable 0 0 63 placedCtx 0 0x14 dk dk dk dk dk⟩, ⟨_, .noop (jobT 0) placedCtx ⟨rfl, rfl, rfl, dk⟩⟩, ⟨_, .graph (jobT 1) placedCtx ⟨rfl, rfl, rfl, dk⟩⟩,
    ⟨_, .step (jobT 2) placedCtx (stepDesc.take 64) (stepDesc.drop 64) ⟨rfl, rfl, rfl, dk⟩ dk dk dk dk⟩, ⟨_, .badStep (jobT 2) placedCtx (List.replicate 64 0) ⟨rfl, rfl, rfl, dk⟩ dk dk dk⟩,
    ⟨_, .waitOver (jobT 8) placedCtx (List.replicate 8 0) ⟨rfl, rfl, rfl, dk⟩ dk dk dk dk dk⟩, ⟨_, .waitOn { jobT 8 with wval := 1 } placedCtx (List.replicate 8 0) ⟨rfl, rfl, rfl, dk⟩ dk dk dk dk⟩,
    ⟨_, .rechecked { jobT 8 with wval := 1, started := true, waiting := true } placedCtx (1 :: List.replicate 7 0) rfl rfl rfl rfl dk dk dk dk dk⟩,
    ⟨_, .cancels { jobT 9 with id := 8, waddr := 5 } placedCtx levelJ { jobT 1 with started := true } ⟨rfl, rfl, rfl, dk⟩ dk rfl rfl rfl dk rfl dk rfl rfl rfl⟩⟩

/-- A context of dies 0 and 1, whose second die is its device's deputy. -/
def pairCtx : Ctx := { newCtx 0 0 3 0 0 with ptb := rootPte placedFrame }
def deputyBox (st : DepSt) : State := { tailBox [] { jobT 0 with deputy := st } with ctxs := [pairCtx] }
theorem witness_JobEvents_deputy :
    Meets JobEvent (inReset (parseBox []) 0) (.parserReadPacket 0 0) ∧ Meets JobEvent (deputyBox .none) (.jobNoop 7) ∧ Meets JobEvent (deputyBox .sent) (.jobNoop 7)
    ∧ Meets JobEvent (inReset (deputyBox .sent) 1) (.jobNoop 7) ∧ Meets JobEvent (deputyBox .held) (.jobNoop 7) :=
  ⟨⟨_, .parserDown 0 0 rfl⟩, ⟨_, .toDeputy { jobT 0 with deputy := .none } pairCtx 1 0 _ (.inl ⟨rfl, rfl⟩) rfl rfl rfl rfl dk rfl⟩,
    ⟨_, .atDeputy { jobT 0 with deputy := .sent } pairCtx 1 0 _ (.inl ⟨rfl, rfl⟩) rfl rfl rfl rfl dk rfl dk dk⟩,
    ⟨_, .deputyDown { jobT 0 with deputy := .sent } pairCtx 1 0 _ (.inl ⟨rfl, rfl⟩) rfl rfl rfl rfl dk rfl rfl⟩,
    ⟨_, .fromDeputy { jobT 0 with deputy := .held } pairCtx 1 0 _ (.inl ⟨rfl, rfl⟩) rfl rfl rfl rfl dk rfl⟩⟩

end Sys2Proof.Tests
end

