-- ==== Sys2Proof/Tests/TaskWitnesses.lean ====
section
/-! SUPPORT. Witnesses for the statements that are tables of events: scheduling, graphs. -/

namespace Sys2Proof.Tests

open Sys2Proof Sys2Proof.Machine Sys2Proof.Claims

set_option Elab.async false

def admT (st : AdmState) : Adm := ⟨0, 0, .kernel 2 0, 5, st⟩
def richPart : Partition := { part0 with bal := 5 }
def saveCtx : Ctx := { placedCtx with save := 0x0001000000000001 }
/-- A kernel descriptor of one troupe at the greatest peak; one whose energy is above a ceiling of 0; one that R328 refuses. -/
def kernelBytes (energy version : Byte) : List Byte := natLe 8 0 ++ [32, 1] ++ natLe 2 512 ++ [0, 0, 0, 0, energy, 0, 0, 0, 0, 0, 0, 0, 0, 0, 0, version]
def launchL : Level := { lvT with kind := .launch, admitted := false }
def launchBox (b : List Byte) : State := { box heroT with levels := [launchL], ctxs := [saveCtx], mem := placedMem [] b }
def kd : Kdesc := ⟨0, 32, 16, 128, 0, 0, 0, 0, 0, 0, 0⟩
def runL : Level := { lvT with kind := .launch, total := 1, kdesc := some kd }
def runBox : State := { box heroT with levels := [runL], ctxs := [saveCtx] }
def admBox (a : Adm) (p : Partition) : State := { box heroT with adms := [a], partitions := [p] }
def stepL : Level := { lvT with kind := .step, total := 1, members := [⟨true, 64, 1, 1, 1, 0, none⟩] }
def upL : Level := { lvT with kind := .step, up := some 3 }
def topL : Level := { lvT with id := 3, kind := .job, total := 2 }
def sigL : Level := { lvT with kind := .step, sig := some (8, 7) }
def endL : Level := { lvT with kind := .job, job := 7 }
def sigBox : State := { box heroT with levels := [sigL] }
theorem levelSignals_row : Meets SchedulingEvent sigBox (.levelEnd 2) := by
  obtain ⟨s1, h⟩ := done_of (x := sigBox.writeVa placedCtx (sigBox.writerOf placedCtx sigL.dev) 8
    (natLe 8 (sigBox.levelStatus sigL ++ (7 : DWord).extractLsb' 0 56 : DWord).toNat)) dk
  exact ⟨_, .levelSignals sigL placedCtx 8 7 s1 rfl rfl dk dk rfl dk rfl h⟩
def ackedJob : Job := { jobT 0 with deputy := .acked }
def busyL : Level := { upL with total := 1 }
theorem witness_SchedulingEvents_levels :
    Meets SchedulingEvent (atCycle (box heroT) 31 (2 ^ 20)) (.energyCredit 31) ∧ Meets SchedulingEvent (atCycle (box heroT) 31 (2 ^ 20 - 1)) (.energyCredit 31)
    ∧ Meets SchedulingEvent (admBox (admT .asked) richPart) (.energyAdmit 0) ∧ Meets SchedulingEvent (admBox (admT .asked) part0) (.energyAdmit 0)
    ∧ Meets SchedulingEvent (launchBox (kernelBytes 0 1)) (.kernelLaunchAdmit 2) ∧ Meets SchedulingEvent (launchBox (kernelBytes 0 0)) (.kernelLaunchAdmit 2)
    ∧ Meets SchedulingEvent (launchBox (kernelBytes 1 1)) (.kernelLaunchAdmit 2) ∧ Meets SchedulingEvent { box heroT with levels := [stepL] } (.stepMemberStart 2)
    ∧ Meets SchedulingEvent { box heroT with levels := [{ stepL with cancel := true }] } (.stepMemberStart 2)
    ∧ Meets SchedulingEvent { box heroT with levels := [upL, topL] } (.levelEnd 2) ∧ Meets SchedulingEvent { box heroT with levels := [sigL] } (.levelEnd 2)
    ∧ Meets SchedulingEvent { box heroT with levels := [endL], jobs := [jobT 0] } (.levelEnd 2)
    ∧ Meets SchedulingEvent { box heroT with levels := [lvT], partitions := [{ part0 with cancels := [(9, 2)] }] } (.levelCancelApply 0)
    ∧ Meets SchedulingEvent { box heroT with levels := [endL], jobs := [ackedJob] } (.levelEnd 2)
    ∧ Meets SchedulingEvent { box heroT with levels := [upL, topL], lines := [winL] } (.levelEnd 2) ∧ Meets SchedulingEvent { box heroT with levels := [busyL] } (.levelEnd 2) :=
  ⟨⟨_, .credited 31 0 part0 dk dk dk dk⟩, ⟨_, .notDue 31 dk⟩, ⟨_, .granted 0 richPart (admT .asked) dk dk dk⟩, ⟨_, .refused 0 part0 (admT .asked) dk dk dk⟩,
    ⟨_, .launchAdmitted launchL saveCtx (kernelBytes 0 1 ++ List.replicate 36 0) rfl rfl rfl rfl rfl dk dk dk dk dk dk⟩, ⟨_, .launchRefused launchL saveCtx (kernelBytes 0 0 ++ List.replicate 36 0) rfl rfl rfl rfl rfl dk dk dk⟩,
    ⟨_, .launchTooHot launchL saveCtx (kernelBytes 1 1 ++ List.replicate 36 0) rfl rfl rfl rfl rfl dk dk dk dk⟩,
    ⟨_, .memberStarts stepL placedCtx ⟨true, 64, 1, 1, 1, 0, none⟩ rfl rfl rfl rfl rfl dk dk rfl⟩,
    ⟨_, .stepCancelled { stepL with cancel := true } placedCtx ⟨true, 64, 1, 1, 1, 0, none⟩ _ rfl rfl rfl rfl rfl dk (some_of dk)⟩,
    ⟨_, .levelEnds upL placedCtx topL 3 rfl rfl dk dk rfl dk rfl rfl dk dk⟩, levelSignals_row,
    ⟨_, .jobEnds endL placedCtx (jobT 0) rfl rfl dk dk rfl rfl rfl rfl rfl dk dk⟩,
    ⟨_, .cancelApplies 0 { part0 with cancels := [(9, 2)] } 9 lvT [] dk rfl rfl⟩,
    ⟨_, .deputyHolds endL placedCtx ackedJob rfl rfl dk dk rfl rfl rfl rfl rfl rfl⟩, ⟨_, .flushes upL placedCtx rfl rfl dk dk⟩, ⟨_, .notOver busyL placedCtx rfl rfl dk⟩⟩

def wgSt (st : WgStatus) : Workgroup := { wgT with status := st, peak := 100 }
def wgBox (st : WgStatus) : State := { box heroT with wgs := [wgSt st] }
def stopT : Troupe := { heroT with stopped := true }
def hugeW : Workgroup := { wgT with status := .saved, bufs := 65 }
/-- The saved workgroup asks for one buffer; every core's are taken, those of core 7 by a later workgroup that waits in `waitmem`. -/
def coreW (k : Nat) : Workgroup := { wgT with id := 10 + k, core := k, bufs := 64, startSeq := 2 + k }
def waitW (k : Nat) : Troupe :=
  { heroT with wg := 10 + k, pipe := 4 * k, regs := [], wait := if k = 7 then .mem 0 0 20 true .own .sys true none 0 [] else .none }
def oneW : Workgroup := { wgT with status := .saved, bufs := 1, peak := 0 }
def crowdBox : State :=
  { box heroT with wgs := oneW :: (List.range 8).map coreW, troupes := (List.range 8).map waitW }
def gexEnd : Troupe := { heroT with exited := true, pend := [gexP] }
/-- The workgroup has chosen core 7, whose victim still stops. -/
def waitsW : Workgroup := { oneW with resume := some 7 }
def clearBox : State := { crowdBox with wgs := [waitsW, { coreW 7 with status := .stopping }] }
theorem witness_SchedulingEvents_workgroups :
    Meets SchedulingEvent { runBox with wgs := [] } (.workgroupStart 0) ∧ Meets SchedulingEvent { runBox with adms := [admT .granted] } (.workgroupStart 0)
    ∧ Meets SchedulingEvent (wgBox .saved) (.resumption 0) ∧ Meets SchedulingEvent { box heroT with wgs := [hugeW] } (.resumption 0)
    ∧ Meets SchedulingEvent (wgBox .saved) (.resumeCheck 0) ∧ Meets SchedulingEvent crowdBox (.resumeCheck 0)
    ∧ Meets SchedulingEvent (wgBox .stopping) (.preemptStop 1) ∧ Meets SchedulingEvent { box stopT with wgs := [wgSt .stopping] } (.preemptSave 1)
    ∧ Meets SchedulingEvent (box heroT) (.contextSwitch 0) ∧ Meets SchedulingEvent { wgBox .saved with ctxs := [{ placedCtx with phase := .stopping }] } (.contextSwitch 0)
    ∧ Meets SchedulingEvent { box heroT with ctxs := [{ placedCtx with phase := .saving }] } (.ptStateSaveDone 0)
    ∧ Meets SchedulingEvent { box heroT with ctxs := [{ placedCtx with phase := .off }] } (.contextReturn 0) ∧ Meets SchedulingEvent (wgBox .halted) (.debugRelease 1)
    ∧ Meets SchedulingEvent { box heroT with wgs := [{ wgSt .draining with lvl := 2 }], levels := [runL] } (.workgroupRetire 1)
    ∧ Meets SchedulingEvent { wgBox .draining with splits := [postS] } (.workgroupRetire 1)
    ∧ Meets SchedulingEvent { box gexEnd with wgs := [wgSt .draining] } (.workgroupRetire 1)
    ∧ Meets SchedulingEvent clearBox (.resumption 0) ∧ Meets SchedulingEvent clearBox (.resumeCheck 0) :=
  ⟨⟨_, .asks 0 runL 0 kd saveCtx 1 dk dk dk dk rfl rfl dk dk dk⟩, ⟨_, .starts 0 0 runL 0 kd 5 15 dk rfl rfl dk dk dk⟩,
    ⟨_, .resumes 0 (wgSt .saved) 1 heroT dk rfl dk dk ⟨rfl, dk⟩ rfl rfl⟩, ⟨_, .resumesNot 0 hugeW dk dk dk⟩, ⟨_, .fitsAlready 0 (wgSt .saved) 1 dk dk⟩,
    ⟨_, .makesRoom 0 oneW (coreW 7) 7 dk dk dk dk dk dk rfl dk⟩, ⟨_, .stops (wgSt .stopping) heroT rfl rfl dk ⟨rfl, dk⟩ rfl rfl rfl⟩,
    ⟨_, .saves (wgSt .stopping) stopT rfl rfl dk ⟨rfl, dk⟩ rfl rfl⟩, ⟨_, .switches placedCtx wgT rfl rfl rfl rfl rfl⟩,
    ⟨_, .switched { placedCtx with phase := .stopping } rfl rfl dk⟩, ⟨_, .stateSaved { placedCtx with phase := .saving } rfl rfl dk⟩,
    ⟨_, .returns { placedCtx with phase := .off } rfl rfl⟩, ⟨_, .released (wgSt .halted) rfl rfl⟩,
    ⟨_, .retires { wgSt .draining with lvl := 2 } runL part0 rfl rfl dk rfl rfl dk⟩, ⟨_, .drains (wgSt .draining) rfl dk⟩, ⟨_, .stillToDo (wgSt .draining) gexEnd rfl dk rfl dk⟩,
    ⟨_, .stillClearing 0 waitsW 7 { coreW 7 with status := .stopping } dk rfl dk rfl rfl rfl dk⟩, ⟨_, .onceOnly 0 waitsW 7 { coreW 7 with status := .stopping } dk rfl dk rfl rfl rfl⟩⟩

end Sys2Proof.Tests
end

