-- ==== Sys2Proof/Tests/GraphWitnesses.lean ====
section
/-! SUPPORT. Witnesses for the statements that are tables of events: task graphs and steals. -/

namespace Sys2Proof.Tests

open Sys2Proof Sys2Proof.Machine Sys2Proof.Claims

set_option Elab.async false

/-- A graph of one node at address 0: its header, its entry at 64, its kernel descriptor at 128. -/
def graphHead : List Byte := natLe 2 1 ++ [4, 0] ++ natLe 4 0 ++ natLe 8 0 ++ natLe 8 4096 ++ List.replicate 40 0
/-- Its vat area is short; it has one initial record, at address 256. -/
def shortHead : List Byte := natLe 2 1 ++ [4, 0] ++ natLe 4 0 ++ natLe 8 0 ++ natLe 8 64 ++ List.replicate 40 0
def initHead : List Byte := natLe 2 1 ++ [4, 0] ++ natLe 4 0 ++ natLe 8 0 ++ natLe 8 4096 ++ [0, 0, 0, 0] ++ natLe 4 1 ++ natLe 8 256 ++ List.replicate 24 0
def nodeEntry : List Byte := natLe 8 128 ++ natLe 4 1 ++ List.replicate 52 0
/-- An entry without records; an entry whose kernel descriptor lies on a page that is not in the lookaside. -/
def emptyEntry : List Byte := natLe 8 128 ++ List.replicate 56 0
def farEntry : List Byte := natLe 8 4096 ++ natLe 4 1 ++ List.replicate 52 0
def nodeKd : List Byte := natLe 8 0 ++ [32, 1] ++ natLe 2 512 ++ [0, 0, 0, 1] ++ natLe 8 0 ++ natLe 2 16 ++ [31, 1] ++ List.replicate 36 0
def graphMem (h e : List Byte) : State := { box heroT with levels := [lvT], ctxs := [saveCtx], mem := placedMem [] (h ++ e ++ nodeKd) }
def admNode : GNode := ⟨kdescOf nodeKd, 1, 0, 0, 0, 0⟩
theorem graphDue_of {s : State} {l : Level} {c : Ctx} {h : List Byte} (g : decide (s.level? l.id = some l ∧ s.ctx? l.ctx = some c ∧ l.kind = .graph ∧ l.status = 0
    ∧ s.graph? l.id = none ∧ s.cancelOf l.id = none ∧ s.graphWaits l = false ∧ s.readVa c (c.lead l.dev) .read 2 l.desc 64 = .bytes h) = true := by decide +kernel) :
    graphDue s l c h := (of_decide_eq_true g :)
/-- What the one node's checks give. -/
def checks (s : State) : GraphCheck := (List.range 1).foldl (State.checkNode saveCtx 0 0) ⟨s, [], 0, false⟩
theorem checkNode_of {s : State} (h1 : s.readVa saveCtx 0 .read 2 ((0 : DWord) + BitVec.ofNat 64 (64 + 64 * 0)) 64 = .bytes nodeEntry)
    (h2 : s.readVa saveCtx 0 .read 2 (BitVec.ofNat 64 (leAt nodeEntry 0 8)) 64 = .bytes nodeKd) (h3 : s.kdescStatus saveCtx 0 true nodeKd = 0) :
    checks s = ⟨s, [admNode], 0, false⟩ := by
  have h4 : (leAt nodeEntry 13 3 ≠ 0 || leNat (nodeEntry.drop 24) != 0 || leAt nodeEntry 8 4 == 0 || leAt nodeEntry 0 8 % 64 != 0) = false := by decide +kernel
  have e1 : s.descRead saveCtx 0 ((0 : DWord) + BitVec.ofNat 64 (64 + 64 * 0)) 64 = .bytes nodeEntry := by
    unfold State.descRead; rw [show 64 / 4096 + 2 = 2 by decide, h1]
  have e2 : s.descRead saveCtx 0 (BitVec.ofNat 64 (leAt nodeEntry 0 8)) 64 = .bytes nodeKd := by
    unfold State.descRead; rw [show 64 / 4096 + 2 = 2 by decide, h2]
  unfold checks
  rw [show List.range 1 = [0] from rfl, List.foldl_cons, List.foldl_nil]
  unfold State.checkNode
  rw [if_neg (by simp)]
  simp only [e1, h4, Bool.false_eq_true, if_false, e2, h3, List.nil_append]
  rfl
theorem admitted_row : Meets GraphEvent (graphMem graphHead nodeEntry) (.graphAdmit 2) :=
  ⟨_, .admitted lvT saveCtx graphHead [admNode] graphDue_of ⟨dk, checkNode_of dk dk dk⟩ dk dk⟩
theorem vatShort_row : Meets GraphEvent (graphMem shortHead nodeEntry) (.graphAdmit 2) :=
  ⟨_, .vatShort lvT saveCtx shortHead [admNode] graphDue_of ⟨dk, checkNode_of dk dk dk⟩ dk⟩
theorem refused_row : Meets GraphEvent (graphMem [] nodeEntry) (.graphAdmit 2) := ⟨_, .refused lvT saveCtx nodeEntry graphDue_of dk⟩
theorem behind_row : Meets GraphEvent { graphMem graphHead nodeEntry with levels := [lvT, { lvT with id := 1 }] } (.graphAdmit 2) :=
  ⟨_, .behind lvT saveCtx rfl rfl dk⟩
/-- The checks have ended so. -/
theorem checksIs {k : GraphCheck} {p : State → Byte → Bool} {w : Bool} (h : (p k.s k.status && k.wait == w) = true) : ∃ s1 ns st, k = ⟨s1, ns, st, w⟩ ∧ p s1 st = true := by
  obtain ⟨s1, ns, st, w'⟩ := k
  simp only [Bool.and_eq_true, beq_iff_eq] at h
  exact ⟨s1, ns, st, h.2 ▸ rfl, h.1⟩
theorem nodeRefused_row : Meets GraphEvent (graphMem graphHead emptyEntry) (.graphAdmit 2) := by
  obtain ⟨s1, ns, st, h, hp⟩ := checksIs (k := checks (graphMem graphHead emptyEntry)) (p := fun u st => st != 0 && decide (u.level? 2 = some lvT)) (w := false) dk
  simp only [Bool.and_eq_true, bne_iff_ne, decide_eq_true_eq] at hp
  exact ⟨_, .nodeRefused lvT saveCtx graphHead ns st s1 graphDue_of ⟨dk, h⟩ hp.1 hp.2⟩
theorem nodeAwaited_row : Meets GraphEvent (graphMem graphHead farEntry) (.graphAdmit 2) := by
  obtain ⟨s1, ns, st, h, -⟩ := checksIs (k := checks (graphMem graphHead farEntry)) (p := fun _ _ => true) (w := true) dk
  exact ⟨_, .nodeAwaited lvT saveCtx graphHead ns st s1 graphDue_of ⟨dk, h⟩⟩
theorem initIs {r : Graph × GraphCheck} (h : (r.2.nodes.isEmpty && r.2.status == 0 && !r.2.wait) = true) : ∃ g0 s1, r = (g0, ⟨s1, [], 0, false⟩) := by
  obtain ⟨g, s1, ns, st, w⟩ := r
  simp only [Bool.and_eq_true, List.isEmpty_iff, beq_iff_eq, Bool.not_eq_true'] at h
  obtain ⟨⟨rfl, rfl⟩, rfl⟩ := h
  exact ⟨g, s1, rfl⟩
theorem admittedFull_row : Meets GraphEvent (graphMem initHead nodeEntry) (.graphAdmit 2) := by
  obtain ⟨g0, s1, h⟩ := initIs (r := (List.range (leAt initHead 28 4)).foldl
    (State.initRecord saveCtx (saveCtx.lead lvT.dev) (8 * (saveCtx.devDies lvT.dev).length) (leAt initHead 24 2) (saveCtx.devDies lvT.dev) admNode (List.replicate 16 0))
    (firstGraph lvT saveCtx initHead [admNode], ⟨graphMem initHead nodeEntry, [], 0, false⟩)) dk
  exact ⟨_, .admittedFull lvT saveCtx initHead [admNode] admNode (List.replicate 16 0) g0 s1 graphDue_of ⟨dk, checkNode_of dk dk dk⟩ dk rfl dk (bytes_of dk) h⟩

def stealT (stage : StealStage) (recs : List GRec) (bytes : List (List Byte)) : Steal := ⟨9, 2, 0, 0, 1, stage, recs, bytes, []⟩
def thiefSeg : Seg := ⟨0, 1, [], [], [], 0, [], false, (0, 0)⟩
def twoG : Graph := { smallG with segs := [segT, thiefSeg] }
def stealBox (t : Steal) : State := { smallBox heroT with graphs := [twoG], steals := [t], wgs := [] }
def heldSeg : Seg := { segT with recs := [⟨1, 3, false, 0⟩] }
def waitG : Graph := { smallG with segs := [heldSeg] }
def waitBox : State := { smallBox heroT with graphs := [waitG] }
/-- The engine of core 0's segment has applied a later operation of this cycle. -/
def lateG : Graph := { smallG with segs := [{ segT with last := (0, QOp.steal.key) }] }
/-- A whole group stands ready. -/
def readySeg : Seg := { segT with recs := (List.range 96).map fun i => ⟨i, 3, true, 0⟩ }
def readyG : Graph := { smallG with segs := [readySeg] }
def cancelled (s : State) : State := { s with levels := [{ lvT with cancel := true }] }
theorem witness_GraphEvents_queues :
    Meets GraphEvent { waitBox with counts := [⟨9, 2, 0, 0, [1]⟩] } (.recordCountAck 9)
    ∧ Meets GraphEvent (cancelled { waitBox with counts := [⟨9, 2, 0, 0, [1]⟩] }) (.recordCountAck 9)
    ∧ Meets GraphEvent waitBox (.holdLapse 2 0 0) ∧ Meets GraphEvent (smallBox heroT) (.holdLapse 2 0 0)
    ∧ Meets GraphEvent (smallBox heroT) (.graphDrainOrder 2) ∧ Meets GraphEvent { smallBox heroT with graphs := [{ smallG with running := 1 }] } (.graphDrainOrder 2)
    ∧ Meets GraphEvent { smallBox heroT with graphs := [readyG] } (.graphDrainOrder 2) :=
  ⟨⟨_, .counted ⟨9, 2, 0, 0, [1]⟩ waitG heldSeg ⟨1, 3, false, 0⟩ rfl ⟨rfl, rfl, rfl⟩ dk dk dk⟩,
    ⟨_, .countedLate ⟨9, 2, 0, 0, [1]⟩ waitG heldSeg rfl ⟨rfl, rfl, rfl⟩ dk dk⟩, ⟨_, .lapsed 2 0 0 waitG heldSeg ⟨rfl, rfl, rfl⟩ dk⟩,
    ⟨_, .offered 2 0 0 smallG segT ⟨rfl, rfl, rfl⟩ dk dk dk dk⟩,
    ⟨_, .drains smallG segT rfl rfl (by intro y hy n hn; simp only [smallG, List.mem_singleton] at hy; subst hy; cases hn; decide) dk dk⟩,
    ⟨_, .stillRunning { smallG with running := 1 } rfl dk⟩, ⟨_, .stillFull readyG readySeg { gNode with segrec := 2 } rfl dk rfl dk⟩⟩

def nodeAdm (st : AdmState) : Adm := ⟨0, 0, .node 2 0 0, 0, st⟩
def nodeBox (st : AdmState) : State := { smallBox heroT with adms := [nodeAdm st] }
theorem witness_GraphEvents_groups :
    Meets GraphEvent { smallBox heroT with wgs := [], ctxs := [saveCtx] } (.nodeGroupStart 0) ∧ Meets GraphEvent (nodeBox .granted) (.nodeGroupStart 0)
    ∧ Meets GraphEvent { nodeBox .granted with graphs := [lateG] } (.nodeGroupStart 0) ∧ Meets GraphEvent { nodeBox .granted with graphs := [waitG] } (.nodeGroupStart 0)
    ∧ Meets GraphEvent (nodeBox .refused) (.nodeGroupStart 0) :=
  ⟨⟨_, .groupAsks 0 ⟨0, 2, 0, 0⟩ smallG segT { gNode with segrec := 2 } lvT saveCtx dk dk dk ⟨rfl, rfl, rfl⟩ rfl rfl rfl dk dk dk⟩,
    ⟨_, .groupStarts 0 0 2 0 0 0 smallG segT { gNode with segrec := 2 } lvT dk ⟨rfl, rfl, rfl⟩ rfl rfl dk dk dk dk⟩,
    ⟨_, .groupWaits 0 0 2 0 0 0 lateG dk rfl dk⟩,
    ⟨_, .groupWithdrawn 0 0 2 0 0 0 waitG heldSeg { gNode with segrec := 2 } 0 part0 dk ⟨rfl, rfl, rfl⟩ rfl dk dk dk dk⟩, ⟨_, .groupRefused 0 0 2 0 0 0 dk⟩⟩

def recT : GRec := ⟨1, 3, true, 0⟩
def movedT : Steal := stealT .moved [recT] [List.replicate 16 7]
/-- The thief's segment has no free slot; what it could not place goes back. -/
def fullG : Graph := { smallG with segs := [segT, { thiefSeg with taken := [0, 1] }] }
def backT : Steal := { stealT .placed [] [] with back := [recT] }
def idleBox : State := { smallBox heroT with graphs := [twoG], wgs := [], ctxs := [saveCtx] }
def backedBox (cycle : Nat) (s : State) : State := onDie s fun d => { d with cores := d.cores.map fun k => { k with backoff := 256 }, cycle := cycle }
theorem stealAt_of {s : State} {t : Steal} {st : StealStage} {g : Graph} {n : GNode} {c : Ctx} (l : Level) (h : decide (s.steals.find? (fun x => x.id == t.id) = some t
    ∧ t.stage = st ∧ s.graph? t.lvl = some g ∧ g.lvl = t.lvl ∧ g.nodes[t.node]? = some n ∧ s.level? t.lvl = some l ∧ s.ctx? l.ctx = some c) = true := by decide +kernel) :
    stealAt s t st g n c :=
  have f := of_decide_eq_true h
  ⟨f.1, f.2.1, f.2.2.1, f.2.2.2.1, f.2.2.2.2.1, l, f.2.2.2.2.2⟩
theorem stealLands_row : Meets GraphEvent (stealBox movedT) (.stealArrive 9) := by
  obtain ⟨s1, h⟩ := done_of (x := (stealBox movedT).writeVa placedCtx 0 (twoG.slotVa 8 0 1 0) (List.replicate 16 7)) dk
  exact ⟨_, .stealLands movedT twoG { gNode with segrec := 2 } placedCtx recT (List.replicate 16 7) 0 _ s1 (stealAt_of lvT) dk rfl rfl dk rfl h⟩
theorem witness_GraphEvents_requests :
    Meets GraphEvent idleBox (.stealRequest 0 1) ∧ Meets GraphEvent (box heroT) (.stealRequest 0 1) ∧ Meets GraphEvent (backedBox 0 idleBox) (.stealRequest 0 1)
    ∧ Meets GraphEvent { box heroT with steals := [stealT .asked [] []] } (.stealReply 9)
    ∧ Meets GraphEvent { waitBox with steals := [stealT .asked [] []] } (.stealReply 9) ∧ Meets GraphEvent (cancelled (stealBox (stealT .asked [] []))) (.stealReply 9)
    ∧ Meets GraphEvent (stealBox (stealT .asked [] [])) (.stealReply 9) :=
  ⟨⟨_, .stealAsked 0 1 twoG thiefSeg dk dk dk⟩, ⟨_, .notIdle 0 1 dk⟩, ⟨_, .backedOff 0 1 dk⟩, ⟨_, .stealGone (stealT .asked [] []) rfl rfl⟩,
    ⟨_, .stealRefused (stealT .asked [] []) waitG heldSeg rfl ⟨rfl, rfl, rfl⟩ (.inl rfl)⟩,
    ⟨_, .stealRefused (stealT .asked [] []) twoG segT rfl ⟨rfl, rfl, rfl⟩ (.inr dk)⟩,
    ⟨_, .stealGiven (stealT .asked [] []) twoG segT { gNode with segrec := 2 } lvT placedCtx [List.replicate 16 0] rfl ⟨rfl, rfl, rfl⟩ rfl rfl rfl dk dk dk dk dk⟩⟩
theorem witness_GraphEvents_arrivals :
    Meets GraphEvent (stealBox (stealT .refused [] [])) (.stealArrive 9) ∧ Meets GraphEvent { box heroT with steals := [movedT] } (.stealArrive 9)
    ∧ Meets GraphEvent { stealBox movedT with graphs := [fullG] } (.stealArrive 9) ∧ Meets GraphEvent (cancelled (stealBox movedT)) (.stealArrive 9)
    ∧ Meets GraphEvent (stealBox (stealT .placed [recT] [])) (.stealAck 9) ∧ Meets GraphEvent (stealBox backT) (.stealAck 9)
    ∧ Meets GraphEvent (cancelled (stealBox backT)) (.stealAck 9)
    ∧ Meets GraphEvent (backedBox 256 (box heroT)) (.stealBackoff 0 7) ∧ Meets GraphEvent (backedBox 255 (box heroT)) (.stealBackoff 0 7) :=
  ⟨⟨_, .stealFails (stealT .refused [] []) twoG rfl rfl rfl dk dk⟩, ⟨_, .stealOrphaned movedT rfl rfl⟩,
    ⟨_, .stealFindsNoSlot movedT fullG { gNode with segrec := 2 } placedCtx recT (List.replicate 16 7) (stealAt_of lvT) dk rfl rfl dk⟩,
    ⟨_, .stealCancelled movedT twoG { gNode with segrec := 2 } placedCtx (stealAt_of { lvT with cancel := true }) dk⟩,
    ⟨_, .stealAcked (stealT .placed [recT] []) twoG { gNode with segrec := 2 } segT recT rfl ⟨rfl, rfl, rfl⟩ rfl rfl rfl⟩,
    ⟨_, .stealGivesBack backT twoG segT recT rfl ⟨rfl, rfl, rfl⟩ dk rfl rfl⟩,
    ⟨_, .stealBackCancelled backT twoG { gNode with segrec := 2 } segT recT rfl ⟨rfl, rfl, rfl⟩ rfl dk rfl rfl⟩, ⟨_, .backoffOver 0 7 dk dk dk dk⟩,
    ⟨_, .backoffStands 0 7 dk⟩⟩

end Sys2Proof.Tests
end

