-- ==== Sys2Proof/Tests/ShardWitnesses.lean ====
section
/-! SUPPORT. Witnesses for the statements that are tables of events: shard pages. -/

namespace Sys2Proof.Tests

open Sys2Proof Sys2Proof.Machine Sys2Proof.Claims

set_option Elab.async false

/-- A group of two members, of which this is member 0: its entry in the table, and page 1 as one of its shard pages. -/
def entryT (stage : Nat) : List Byte :=
  [2, 0, 16, 0] ++ natLe 4 77 ++ natLe 8 0 ++ natLe 8 stage ++ List.replicate 40 0 ++ [0, 1] ++ List.replicate 190 0
def memberCtx : Ctx := { placedCtx with shard := rootPte 9, peers := [⟨1, 1, 0, 0⟩] }
def shardMem (stage : Nat) : List Host.Cell :=
  cellsSet (cellsSet (placedMem [] []) (4096 * 4 + 8) (natLe 8 shardLeafT.toNat)) (4096 * 9 + 256 * 15) (entryT stage)
def shardBox : State := { box heroT with ctxs := [memberCtx], mem := shardMem 4096 }
def shMsg : ShardMsg := ⟨0, 15, 1, 1, 77, 0, 0, 0, false, false, false, List.replicate 2048 7⟩
def entryG : List Byte := entryT 4096
theorem shard_for : shardBox.forGroup shMsg = some (memberCtx, entryG) := by decide +kernel
/-- The same with gathers, reduction records and partial pages. -/
def shBox (g : List Gather) (r : List Reduction) (p : List Part) : State := { shardBox with gathers := g, reductions := r, parts := p }
theorem shBox_for (g r p) : (shBox g r p).forGroup shMsg = some (memberCtx, entryG) := by
  rw [← shard_for]
  simp only [State.forGroup, State.ctx?, State.liveEntry, State.groupEntry, State.view, State.viewByte, State.ownedByte, State.migrOf?, shBox]
theorem fromPeer_of {s : State} {m : ShardMsg} {c : Ctx} {e : List Byte} (g : s.forGroup m = some (c, e))
    (h : decide (m.member ≠ geSelf e ∧ s.livePorts ≠ []) = true := by decide +kernel) : fromPeer s m c e := ⟨g, of_decide_eq_true h⟩
theorem named_of {s : State} {m : ShardMsg} {c : Ctx} {f : Nat} (l : LeafAt) (h : decide (m.target = c.memberLife ∧ s.shardFrame c m.page = some f
    ∧ s.shardLeaf c m.page = some l ∧ pteGroup l.pte = m.group ∧ pteRole l.pte = m.role ∧ pteRfmt l.pte = m.rfmt) = true := by decide +kernel) : named s m c f :=
  have g := of_decide_eq_true h
  ⟨g.1, g.2.1, l, g.2.2⟩
def leafG : LeafAt := ⟨4096, 1, shardLeafT, 4096 * 4 + 8⟩
def savingCtx : Ctx := { memberCtx with phase := .saving }
def gathT (waiting again : List Nat) : Gather := ⟨0, 1, 15, waiting, again, false⟩
def gathBox (waiting again : List Nat) : State := shBox [gathT waiting again] [] []
def halfOnes : List Byte := (List.replicate 1024 [0x00, 0x3F]).flatten
/-- Its first block of page 1 is damaged; the record of page 1 is being added. -/
def badShard : State := onDie shardBox fun d => { d with damaged := [64 * 40] }
def addingT : Reduction := ⟨0, 0, 1, 15, 0, [⟨1, 0, 1, [halfOnes]⟩], 0, .adding⟩
theorem witness_ShardEvents_gathers :
    Meets ShardEvent shardBox (.gatherReceive shMsg) ∧ Meets ShardEvent shardBox (.gatherReceive { shMsg with target := 1 })
    ∧ Meets ShardEvent { shardBox with ctxs := [savingCtx] } (.gatherReceive shMsg) ∧ Meets ShardEvent (shBox [] [addingT] []) (.gatherReceive shMsg)
    ∧ Meets ShardEvent (inReset shardBox 0) (.gatherReceive shMsg) ∧ Meets ShardEvent badShard (.gatherReceive shMsg)
    ∧ Meets ShardEvent shardBox (.gatherReceive { shMsg with page := 5 }) ∧ Meets ShardEvent shardBox (.gatherReceive { shMsg with group := 0 })
    ∧ Meets ShardEvent shardBox (.gatherReceive { shMsg with group := 0, target := 1 }) :=
  ⟨⟨_, .dataSent shMsg memberCtx entryG 40 (fromPeer_of shard_for) (named_of leafG) dk dk dk dk⟩,
    ⟨_, .otherLife { shMsg with target := 1 } memberCtx entryG (fromPeer_of dk) dk⟩,
    ⟨_, .deferred shMsg savingCtx entryG 40 (fromPeer_of dk) (named_of leafG) dk (.inl rfl)⟩,
    ⟨_, .deferred shMsg memberCtx entryG 40 (fromPeer_of (shBox_for _ _ _)) (named_of leafG) dk (.inr ⟨addingT, dk⟩)⟩,
    ⟨_, .frameGone shMsg memberCtx entryG 40 (fromPeer_of dk) (named_of leafG) dk⟩,
    ⟨_, .frameFails shMsg memberCtx entryG 40 0x14 (fromPeer_of dk) (named_of leafG) dk dk dk dk⟩,
    ⟨_, .notShard { shMsg with page := 5 } memberCtx entryG (fromPeer_of dk) rfl dk⟩, ⟨_, .noGroup { shMsg with group := 0 } dk (by intro c h; cases h; rfl)⟩,
    ⟨_, .noGroupLife { shMsg with group := 0, target := 1 } memberCtx dk rfl dk⟩⟩
theorem witness_ShardEvents_answers :
    Meets ShardEvent (gathBox [1, 0] []) (.dataReceive shMsg) ∧ Meets ShardEvent (gathBox [0] []) (.dataReceive shMsg)
    ∧ Meets ShardEvent shardBox (.dataReceive shMsg) ∧ Meets ShardEvent shardBox (.deferredReceive shMsg) ∧ Meets ShardEvent (gathBox [1] []) (.lifeReceive shMsg)
    ∧ Meets ShardEvent (gathBox [1] [1]) (.lifeReceive shMsg) ∧ Meets ShardEvent shardBox (.lifeReceive shMsg) ∧ Meets ShardEvent (gathBox [1] []) (.lostReceive shMsg) :=
  ⟨⟨_, .gathered shMsg memberCtx entryG (gathT [1, 0] []) 40 0 (shBox_for _ _ _) dk dk dk dk rfl dk⟩,
    ⟨_, .notAwaited shMsg memberCtx entryG (gathT [0] []) (shBox_for _ _ _) dk dk⟩, ⟨_, .dataHeard shMsg memberCtx entryG shard_for rfl⟩,
    ⟨_, .deferredTold shMsg memberCtx entryG shard_for dk⟩, ⟨_, .askedAgain shMsg memberCtx entryG (gathT [1] []) leafG (fromPeer_of (shBox_for _ _ _)) dk dk dk⟩,
    ⟨_, .lifeTwice shMsg memberCtx entryG (gathT [1] [1]) (shBox_for _ _ _) dk dk rfl⟩, ⟨_, .lifeHeard shMsg memberCtx entryG shard_for rfl⟩,
    ⟨_, .lost shMsg memberCtx entryG (gathT [1] []) (shBox_for _ _ _) dk rfl dk⟩⟩

def redT (page reserved : Nat) (cs : List Contrib) : Reduction := ⟨0, 0, page, 15, 0, cs, reserved, .collecting⟩
def redBox (r : Reduction) : State := shBox [] [r] []
def partT (opening : List Nat) (busy : List (Nat × Nat)) (del : Option (List Nat)) : Part := ⟨0, 0, 1, 15, 40, 41, 0, opening, busy, del, false⟩
def partBox (p : Part) : State := shBox [] [] [p]
def heardG : ShGroup := ⟨15, 0, [], [(1, 0)], 0, [], [], []⟩
def heardCtx : Ctx := { memberCtx with groups := [heardG] }
def heardBox : State := { shardBox with ctxs := [heardCtx] }
theorem witness_ShardEvents_rounds :
    Meets ShardEvent shardBox (.openReceive shMsg) ∧ Meets ShardEvent (redBox (redT 2 1 [])) (.openReceive shMsg)
    ∧ Meets ShardEvent (redBox (redT 1 0 [])) (.openReceive shMsg) ∧ Meets ShardEvent (partBox (partT [1, 0] [] none)) (.openokReceive shMsg)
    ∧ Meets ShardEvent (partBox (partT [1] [] none)) (.openokReceive shMsg) ∧ Meets ShardEvent (partBox (partT [1] [] none)) (.busyReceive shMsg)
    ∧ Meets ShardEvent (atCycle (partBox (partT [] [(1, 0)] none)) 0 1024) (.busyResend 0 1 1)
    ∧ Meets ShardEvent (atCycle (partBox (partT [] [(1, 0)] none)) 0 1023) (.busyResend 0 1 1)
    ∧ Meets ShardEvent (redBox (redT 1 0 [⟨1, 0, 1, []⟩])) (.deliverReceive shMsg) ∧ Meets ShardEvent (redBox (redT 1 0 [⟨1, 5, 1, []⟩])) (.deliverReceive shMsg)
    ∧ Meets ShardEvent (partBox (partT [] [] (some [1, 0]))) (.delackReceive shMsg) ∧ Meets ShardEvent (partBox (partT [] [] (some [1]))) (.delackReceive shMsg)
    ∧ Meets ShardEvent shardBox (.closeReceive shMsg) ∧ Meets ShardEvent shardBox (.doneReceive shMsg) ∧ Meets ShardEvent shardBox (.renewSend 0 15)
    ∧ Meets ShardEvent shardBox (.renewReceive shMsg) ∧ Meets ShardEvent (atCycle heardBox 0 (2 ^ 16)) (.memberDead 0 15 1)
    ∧ Meets ShardEvent (atCycle heardBox 0 (2 ^ 16 - 1)) (.memberDead 0 15 1) ∧ Meets ShardEvent { shardBox with fabricDown := List.range 16 } (.memberDead 0 15 1) :=
  ⟨⟨_, .opened shMsg memberCtx entryG (fromPeer_of shard_for) dk dk⟩, ⟨_, .noRoom shMsg memberCtx entryG (fromPeer_of (shBox_for _ _ _)) dk dk⟩, ⟨_, .joined shMsg memberCtx entryG (redT 1 0 []) (fromPeer_of (shBox_for _ _ _)) dk dk⟩,
    ⟨_, .openOk shMsg memberCtx entryG (partT [1, 0] [] none) 0 (shBox_for _ _ _) dk dk dk⟩, ⟨_, .allOpen shMsg memberCtx entryG (partT [1] [] none) leafG (shBox_for _ _ _) dk dk rfl rfl rfl dk⟩,
    ⟨_, .busy shMsg memberCtx entryG (partT [1] [] none) (shBox_for _ _ _) dk dk⟩, ⟨_, .resent (partT [] [(1, 0)] none) memberCtx entryG 1 0 dk dk dk dk dk dk dk dk⟩,
    ⟨_, .resendEarly 0 1 1 (partT [] [(1, 0)] none) dk dk⟩, ⟨_, .delivered shMsg memberCtx entryG (redT 1 0 [⟨1, 0, 1, []⟩]) (fromPeer_of (shBox_for _ _ _)) dk dk dk⟩,
    ⟨_, .deliveredOld shMsg memberCtx entryG (redT 1 0 [⟨1, 5, 1, []⟩]) (fromPeer_of (shBox_for _ _ _)) dk dk dk⟩, ⟨_, .delack shMsg memberCtx entryG (partT [] [] (some [1, 0])) _ 0 (shBox_for _ _ _) dk rfl rfl dk dk⟩,
    ⟨_, .lastDelack shMsg memberCtx entryG (partT [] [] (some [1])) (shBox_for _ _ _) dk rfl rfl⟩, ⟨_, .closed shMsg memberCtx entryG 0 shard_for dk dk dk dk⟩, ⟨_, .done shMsg memberCtx entryG shard_for⟩,
    ⟨_, .renewed memberCtx 15 entryG dk dk dk⟩, ⟨_, .renewHeard shMsg memberCtx entryG shard_for⟩, ⟨_, .dead heardCtx 15 entryG 1 0 dk dk dk dk dk dk⟩,
    ⟨_, .alive heardCtx 15 entryG 1 0 dk dk dk dk dk⟩, ⟨_, .noPort memberCtx 15 entryG 1 dk dk dk dk dk⟩⟩

/-- The other member's CLOSE is the last of the round: this member has closed it. -/
def closedCtx : Ctx := { memberCtx with groups := [{ heardG with closes := [(0, 0)] }] }
def closedBox (r : List Reduction) : State := { shBox [] r [] with ctxs := [closedCtx] }
theorem last_close : lastClose shMsg closedCtx entryG := by unfold lastClose; decide +kernel
theorem witness_ShardEvents_ends :
    Meets ShardEvent (closedBox []) (.closeReceive shMsg)
    ∧ Meets ShardEvent (closedBox [redT 1 0 [⟨1, 0, 1, [halfOnes]⟩]]) (.closeReceive shMsg)
    ∧ Meets ShardEvent (closedBox [redT 1 0 [⟨1, 5, 1, [halfOnes]⟩]]) (.closeReceive shMsg) :=
  ⟨⟨_, .roundOver shMsg closedCtx entryG (fromPeer_of dk) last_close rfl⟩,
    ⟨_, .adds shMsg closedCtx entryG (redT 1 0 [⟨1, 0, 1, [halfOnes]⟩]) dk last_close rfl rfl dk⟩,
    ⟨_, .roundLost shMsg closedCtx entryG (redT 1 0 [⟨1, 5, 1, [halfOnes]⟩]) (fromPeer_of dk) last_close rfl rfl dk⟩⟩

end Sys2Proof.Tests
end

