-- ==== Sys2Proof/Tests/UnitWitnesses.lean ====
section
/-! SUPPORT. Witnesses for the statements that are tables of events: copies, the matrix quarter, resets, and the turns of the units. -/

namespace Sys2Proof.Tests

open Sys2Proof Sys2Proof.Machine Sys2Proof.Claims

set_option Elab.async false

def copyOf (stage : CopyStage) (sig kind ctl : Nat) : Copy :=
  { captured (box heroT) heroT (fO (sO 20) (sO 2) (sO 4)) wgT 7 stage 0 with layout := 0, coords := [0, 0, 0, 0], sig := sig, kind := kind, ctl := BitVec.ofNat 32 ctl }
/-- A layout of one 8-byte element from 1024 to 2048. -/
def layoutB : List Byte := [0, 3, 1, 0] ++ natLe 4 0 ++ natLe 8 1024 ++ natLe 8 2048 ++ natLe 2 1 ++ List.replicate 38 0
def copyBox (x : Copy) (b : List Byte) : State := { box heroT with copies := [x], mem := placedMem [] b }
def compCtx : Ctx := { placedCtx with comp := BitVec.ofNat 64 1 }
def compBox : State := { copyBox (copyOf .signalled 0 0 64) [] with ctxs := [compCtx] }
def armedC : Copy := { copyOf (.armed 1) 0 0 0 with counter := 255 }
/-- The same to peer 1, at its address 2048; over the Ethernet to queue 0. -/
def layoutFar : List Byte := [2, 3, 1, 0] ++ natLe 2 1 ++ [0, 0] ++ natLe 8 1024 ++ natLe 8 2048 ++ natLe 2 1 ++ List.replicate 38 0
def layoutNet : List Byte := [4, 3, 1, 0] ++ natLe 4 0 ++ natLe 8 1024 ++ natLe 8 2048 ++ natLe 2 1 ++ List.replicate 38 0
def waitC : Copy := copyOf .waiting 0 0 0
def farBox : State := { copyBox waitC layoutFar with ctxs := [memberCtx], peerWins := [(1, 0, 0, 4096)] }
/-- Something of copy 7 still stands in a port's queue. -/
def queued (o : FabLoad) : FabMsg := ⟨5, 1, 0, some 7, o⟩
def queuedBox (x : Copy) : State := { copyBox x [] with fabQ := [queued (.data (10 * 2 ^ 48) [7])] }
theorem copyDue_of {s : State} {x : Copy} {c : Ctx} {w : Workgroup} {b : List Byte} (h : decide (s.copies.find? (fun y => y.id == x.id && y.stage == .waiting) = some x
    ∧ s.ctx? x.ctx = some c ∧ s.wg? x.wg = some w ∧ s.copyReady x = true ∧ s.readVa c x.die .read 2 x.layout 64 = .bytes b) = true := by decide +kernel) :
    copyDue s x c w b := (of_decide_eq_true h :)
theorem oneElement_of {s : State} {x : Copy} {c : Ctx} {l : Layout} {d : List Byte} (h : decide (l.srcPad = false ∧ l.dims = 1 ∧ l.count = 1
    ∧ s.readVa c x.die .read 2 (l.src + firstElement x l) (2 ^ l.esize) = .bytes d) = true := by decide +kernel) : oneElement s x c l d := (of_decide_eq_true h :)
theorem reachable_of {s : State} {c : Ctx} {e : Nat} {p : PeerEntry} (h : decide (c.peers.find? (fun q => q.e == e) = some p ∧ p.pod ≠ s.boot.pod.toNat ∧ s.livePorts ≠ [])
    = true := by decide +kernel) : reachable s c e p := (of_decide_eq_true h :)
theorem moves_row : Meets UnitEvent (copyBox waitC layoutB) (.copyEngineStart 7) := by
  obtain ⟨s1, h⟩ := done_of (x := (copyBox waitC layoutB).writeVa placedCtx 0 ((layoutOf layoutB).dst + firstElement waitC (layoutOf layoutB)) (List.replicate 8 0)) dk
  exact ⟨_, .moves waitC placedCtx wgT layoutB _ (List.replicate 8 0) s1 copyDue_of rfl dk dk oneElement_of dk dk h⟩
theorem recorded_row : Meets UnitEvent compBox (.copyComplete 7) := by
  obtain ⟨s1, h⟩ := done_of (x := compBox.writeVa compCtx compCtx.lowDie (BitVec.ofNat 64 ((compCtx.comp.extractLsb' 12 36).toNat * 4096
    + 32 * (compCtx.seq % 2 ^ (7 + (compCtx.comp.extractLsb' 8 4).toNat)))) (completionBytes (copyOf .signalled 0 0 64) compCtx.seq)) dk
  exact ⟨_, .recorded (copyOf .signalled 0 0 64) compCtx s1 rfl rfl rfl dk dk dk dk h⟩
theorem witness_UnitEvents_starts :
    Meets UnitEvent (copyBox waitC []) (.copyEngineStart 7) ∧ Meets UnitEvent { copyBox waitC [] with reqs := [reqT 3 .ready .store pageLoc] } (.copyEngineStart 7)
    ∧ Meets UnitEvent { copyBox waitC layoutNet with ethDown := [0, 1] } (.copyEngineStart 7) ∧ Meets UnitEvent farBox (.copyEngineStart 7)
    ∧ Meets UnitEvent (copyBox waitC layoutB) (.copyEngineStart 7) :=
  ⟨⟨_, .badLayout waitC placedCtx wgT (List.replicate 64 0) copyDue_of dk⟩, ⟨_, .notReady waitC placedCtx wgT rfl rfl rfl dk⟩,
    ⟨_, .noEthernet waitC placedCtx wgT layoutNet copyDue_of dk rfl dk⟩,
    ⟨_, .movesFar waitC memberCtx wgT layoutFar _ (List.replicate 8 0) ⟨1, 1, 0, 0⟩ copyDue_of rfl dk dk oneElement_of dk reachable_of dk dk⟩, moves_row⟩
theorem witness_UnitEvents_copies :
    Meets UnitEvent (queuedBox (copyOf .moved 0 2 0)) (.copyComplete 7) ∧ Meets UnitEvent (queuedBox (copyOf .signalled 0 2 0)) (.copyComplete 7)
    ∧ Meets UnitEvent (copyBox (copyOf .moved 0 0 0) []) (.copyComplete 7)
    ∧ Meets UnitEvent { copyBox { copyOf .moved 2 2 0 with peer := 1 } [] with ctxs := [memberCtx] } (.copyComplete 7)
    ∧ Meets UnitEvent (copyBox (copyOf .moved 2 1 0) []) (.copyComplete 7) ∧ Meets UnitEvent (copyBox (copyOf .signalled 0 0 7) []) (.copyComplete 7)
    ∧ Meets UnitEvent compBox (.copyComplete 7) ∧ Meets UnitEvent { copyBox armedC [] with signals := [(0, 255)] } (.receiveCounterSignal 0 255) :=
  ⟨⟨_, .stillQueued (copyOf .moved 0 2 0) placedCtx rfl (.inl rfl) rfl dk⟩, ⟨_, .stillQueued (copyOf .signalled 0 2 0) placedCtx rfl (.inr rfl) rfl dk⟩,
    ⟨_, .noSignal (copyOf .moved 0 0 0) placedCtx rfl rfl rfl rfl dk⟩,
    ⟨_, .peerSignal { copyOf .moved 2 2 0 with peer := 1 } memberCtx ⟨1, 1, 0, 0⟩ rfl rfl rfl rfl (.inl rfl) dk reachable_of⟩,
    ⟨_, .counterSignal (copyOf .moved 2 1 0) placedCtx rfl rfl rfl rfl dk dk⟩,
    ⟨_, .completes (copyOf .signalled 0 0 7) placedCtx wgT rfl rfl rfl dk dk dk rfl rfl dk⟩, recorded_row, ⟨_, .counted 0 255 placedCtx rfl dk⟩⟩

def opT (kind : MatKind) (acc : Nat) : MatOp := ⟨9, 1, 0, none, 0, kind, acc, allLanes, []⟩
def mmaK : MatKind := .mma 4 0 63 0 0 [64] none 0 [] []
def tileRec (damaged : Bool) : FillRec := ⟨0, 0, 4, 0, 1, [], damaged⟩
def quarterBox (o : MatOp) (slots : List (Nat × FillRec)) : State := { box heroT with pipes := [{ Pipe.reset with ops := [o], slots := slots }] }
def fillT : Fill := ⟨9, 0, 50, 0, 0, 4, 0, 63⟩
def fillBox : State := { box heroT with fills := [fillT], splits := [lastS], pipes := [Pipe.reset] }
def downBox : State := { box heroT with boot := Boot.reset }
theorem filled_row : Meets UnitEvent fillBox (.tileFillComplete 9) := by
  have h : (match fillBox.readVa placedCtx (fillT.pipe / 32) .read 4 fillT.addr (tileBytes fillT.fmt fillT.sp) with | .bytes _ => true | _ => false) = true := by
    decide +kernel
  split at h
  · rename_i b hb
    exact ⟨_, .filled fillT lastS placedCtx b rfl rfl dk dk dk rfl hb dk dk⟩
  · exact absurd h (by decide)
theorem witness_UnitEvents_matrix :
    Meets UnitEvent (quarterBox (opT .mclr 36) []) (.matrixOpPerform 0) ∧ Meets UnitEvent (quarterBox (opT (.mbscale 0x3F803F80) 36) []) (.matrixOpPerform 0)
    ∧ Meets UnitEvent (quarterBox (opT mmaK 0) [(63, tileRec false)]) (.matrixOpPerform 0) ∧ Meets UnitEvent (quarterBox (opT mmaK 0) [(63, tileRec true)]) (.matrixOpPerform 0)
    ∧ Meets UnitEvent (box heroT) (.matrixOpPerform 1023) ∧ Meets UnitEvent fillBox (.tileFillComplete 9) :=
  ⟨⟨_, .clears 0 (opT .mclr 36) heroT ⟨dk, ⟨[], rfl⟩, rfl, rfl, rfl, dk⟩ rfl⟩, ⟨_, .scales 0 (opT (.mbscale 0x3F803F80) 36) heroT _ ⟨dk, ⟨[], rfl⟩, rfl, rfl, rfl, dk⟩ rfl⟩,
    ⟨_, .multiplies 0 (opT mmaK 0) heroT 4 0 63 0 0 [64] 0 heroT wgT (63, tileRec false) ⟨dk, ⟨[], rfl⟩, rfl, rfl, rfl, dk⟩ rfl rfl rfl dk rfl rfl⟩,
    ⟨_, .tileDamaged 0 (opT mmaK 0) heroT 4 0 63 0 0 [64] none 0 [] [] heroT wgT (63, tileRec true) ⟨dk, ⟨[], rfl⟩, rfl, rfl, rfl, dk⟩ rfl rfl rfl dk rfl rfl⟩,
    ⟨_, .noOp 1023 dk⟩, filled_row⟩
theorem witness_UnitEvents_resets :
    Meets UnitEvent (box heroT) .powerOn ∧ Meets UnitEvent downBox .powerOn ∧ Meets UnitEvent (box heroT) .moduleReset ∧ Meets UnitEvent (box heroT) (.dieReset 31)
    ∧ Meets UnitEvent downBox (.dieReset 0) ∧ Meets UnitEvent (box heroT) (.dieReset 32) ∧ Meets UnitEvent (box heroT) (.resetBroadcast 63)
    ∧ Meets UnitEvent (box heroT) (.powerLoss true) ∧ Meets UnitEvent (box heroT) (.xDieReset 0) ∧ Meets UnitEvent (box heroT) (.xDieReset 3)
    ∧ Meets UnitEvent (box heroT) (.xDieReset 4) :=
  ⟨⟨_, .powered rfl⟩, ⟨_, .starts rfl⟩, ⟨_, .moduleResets⟩, ⟨_, .dieResets 31 rfl dk dk dk dk dk⟩, ⟨_, .noDie 0 (.inl rfl)⟩, ⟨_, .noDie 32 (.inr (by decide))⟩,
    ⟨_, .told 63 dk⟩, ⟨_, .powerLost true⟩, ⟨_, .xDie 0 dk dk⟩, ⟨_, .xDie 3 dk dk⟩, ⟨_, .noXDie 4 dk⟩⟩

/-! ## The turns of the package's units -/

/-- The state meets every hypothesis of a row of the table for this turn. -/
def MeetsTurn (s : State) (t : UnitTurn) : Prop := ∃ post, TurnEvent s t post
def hopP : Packet := { memP with place := 31 }
/-- The next router's buffer is full, whatever its size. -/
def thereP : Packet := { hopP with id := 71, place := 30, port := 31 }
def fullBox : State := { packBox hopP with packets := hopP :: List.replicate (Config.bufferFlits + 1) thereP }
theorem sum_replicate (n k a : Nat) : (List.replicate n k).foldl (· + ·) a = a + n * k := by
  induction n generalizing a with
  | zero => simp
  | succ n ih => rw [List.replicate_succ, List.foldl_cons, ih, Nat.succ_mul]; omega
theorem full_takes {s : State} (hp : s.packets = hopP :: List.replicate (Config.bufferFlits + 1) thereP) (hf : s.flits thereP = 2) : s.bufferTakes hopP 30 false = false := by
  have h0 : (hopP.moving && hopP.place == 30 && hopP.port == hopP.place && hopP.vc == hopP.vc) = false := by decide
  have h1 : (thereP.moving && thereP.place == 30 && thereP.port == hopP.place && thereP.vc == hopP.vc) = true := by decide
  have h3 : hopP.vc = 0 := by decide
  unfold State.bufferTakes
  simp only [hp, List.filter_cons, h0, List.filter_replicate, h1, Bool.false_eq_true, if_false, if_true, Bool.false_and, List.map_replicate, hf, sum_replicate]
  rw [h3, List.replicate_succ]
  simp
  omega
theorem blocked_row : MeetsTurn fullBox (.hop 70) := ⟨_, .blocked hopP 30 false rfl rfl dk dk (full_takes rfl rfl)⟩
theorem witness_UnitEvents_mesh :
    MeetsTurn (packBox hopP) (.hop 70) ∧ MeetsTurn (packBox { hopP with since := none }) (.hop 70) ∧ MeetsTurn (box heroT) (.rail 31 false)
    ∧ MeetsTurn (box heroT) (.rail 63 false) ∧ MeetsTurn (box heroT) (.rail 63 true) ∧ MeetsTurn (box heroT) (.timeout 30) ∧ MeetsTurn (box heroT) (.timeout 31)
    ∧ MeetsTurn (box heroT) (.ethUp 1) ∧ MeetsTurn (box heroT) (.fabricUp 15) ∧ MeetsTurn (box heroT) (.flitError 15) :=
  ⟨⟨_, .crosses hopP 30 rfl rfl dk dk dk⟩, ⟨_, .notAtHead { hopP with since := none } rfl rfl⟩, ⟨_, .railOff 31 dk dk dk dk⟩, ⟨_, .otherRailOff 63 dk dk dk⟩,
    ⟨_, .railOn 63 dk dk⟩, ⟨_, .timeoutSet 30 dk dk⟩, ⟨_, .timeoutKept 31 (.inr dk)⟩, ⟨_, .ethernetUp 1⟩, ⟨_, .fabricUp 15⟩, ⟨_, .corrected 15 0 dk⟩⟩

def noteM : FabMsg := queued (.note (.answer 1 [] 0))
def dataM : FabMsg := queued (.data (10 * 2 ^ 48) [7])
def sendBox (m : FabMsg) : State := { box heroT with fabQ := [m] }
def dueC : Copy := { copyOf .moved 0 2 0 with due := some 100 }
def lateAns : State := { box heroT with lates := [31] }
theorem witness_UnitEvents_fabric :
    MeetsTurn (sendBox noteM) (.fabricSend 5) ∧ MeetsTurn (sendBox dataM) (.fabricSend 5) ∧ MeetsTurn (sendBox { noteM with seq := 1 }) (.fabricSend 5)
    ∧ MeetsTurn (atCycle (queuedBox dueC) 0 100) (.copyTimeout 7) ∧ MeetsTurn (atCycle (queuedBox dueC) 0 99) (.copyTimeout 7)
    ∧ MeetsTurn lateAns (.lateAnswer 31) ∧ MeetsTurn lateAns (.lateAnswer 0) ∧ MeetsTurn (box heroT) (.hostReg 0 0x1FFC 16) :=
  ⟨⟨_, .noteTaken noteM _ rfl dk rfl⟩, ⟨_, .dataTaken dataM _ _ rfl dk rfl⟩, ⟨_, .outOfTurn { noteM with seq := 1 } rfl dk⟩,
    ⟨_, .copyGivenUp dueC 100 rfl rfl rfl dk dk⟩, ⟨_, .copyInTime dueC 100 rfl rfl dk⟩, ⟨_, .late 31 dk dk⟩, ⟨_, .noneLate 0 dk⟩,
    ⟨_, .hostReads 0 part0 0x1FFC 16 dk⟩⟩

/-- Page 1's leaf says that it is gathered. -/
def heldLeaf : DWord := (⟨3, 15, false, false, false, false, true, true, false⟩ : LeafSpec).pte 40
def leafH : LeafAt := ⟨4096, 1, heldLeaf, 4096 * 4 + 8⟩
def heldBox : State := { shardBox with mem := cellsSet (shardMem 4096) (4096 * 4 + 8) (natLe 8 heldLeaf.toNat) }
def openP : Part := { partT [] [] none with isOpen := true }
def netBox : State := queueBox (queueT true false 0)
theorem packetWritten_row : MeetsTurn netBox (.netWrite 0 63 31 (List.replicate 128 7)) := by
  obtain ⟨s1, h⟩ := done_of (x := netBox.writeVa placedCtx (placedCtx.lead 0) ((netBox.queue 0 63).base + BitVec.ofNat 64 (128 * (31 % 2 ^ (netBox.queue 0 63).log2)))
    (List.replicate 128 7)) dk
  exact ⟨_, .packetWritten 0 63 placedCtx 0 31 (List.replicate 128 7) s1 dk dk dk dk h⟩
theorem witness_UnitEvents_pages :
    MeetsTurn (shBox [] [addingT] []) (.addition 0 1 0) ∧ MeetsTurn heldBox (.evictPage 0 1) ∧ MeetsTurn (partBox openP) (.early 0 1)
    ∧ MeetsTurn (box heroT) (.release 7) ∧ MeetsTurn netBox (.netWrite 0 63 31 (List.replicate 128 7))
    ∧ MeetsTurn { netBox with ethDown := [0, 1] } (.netWrite 0 63 31 (List.replicate 128 7)) :=
  ⟨⟨_, .added 0 1 memberCtx entryG addingT 40 leafG ⟨rfl, dk⟩ dk dk rfl dk⟩, ⟨_, .evicted 0 1 memberCtx leafH ⟨rfl, dk⟩ dk rfl⟩,
    ⟨_, .early 0 1 memberCtx leafG openP ⟨rfl, dk⟩ rfl rfl rfl dk rfl rfl⟩, ⟨_, .forgotten 7⟩, packetWritten_row, ⟨_, .noPortUp 0 63 31 _ dk⟩⟩

end Sys2Proof.Tests
end

section
/-! PROOFS. Vector moves, selections, bit counts and carry additions (R350, R351, R357, R358): what each meaning computes on one
word, and the instructions that write it in their effective lanes. -/

namespace Sys2Proof.Machine

/-! ## What the words of the meanings are -/

theorem mulAdd_eq (d a b : Word) : d + a * b = BitVec.ofNat 32 (d.toNat + a.toNat * b.toNat) := by
  apply BitVec.eq_of_toNat_eq
  simp [BitVec.toNat_add, BitVec.toNat_mul]

theorem moveHigh_eq (a old : Word) :
    moveHigh a old = BitVec.ofNat 32 (a.toNat % 2 ^ 16 * 2 ^ 16 + old.toNat % 2 ^ 16) := by
  apply BitVec.eq_of_toNat_eq
  have hlt : old.toNat % 2 ^ 16 < 2 ^ 16 := Nat.mod_lt _ (by decide)
  rw [moveHigh, BitVec.toNat_append, BitVec.extractLsb'_toNat, BitVec.extractLsb'_toNat, Nat.shiftRight_zero, Nat.shiftRight_zero,
    ← Nat.shiftLeft_add_eq_or_of_lt hlt, Nat.shiftLeft_eq, BitVec.toNat_ofNat]
  omega

theorem abs32_eq (a : Word) : abs32 a = BitVec.ofNat 32 a.toInt.natAbs := by
  apply BitVec.eq_of_toNat_eq
  have hvalue : a.toInt = if 2 * a.toNat < 2 ^ 32 then (a.toNat : Int) else (a.toNat : Int) - 2 ^ 32 :=
    BitVec.toInt_eq_toNat_cond a
  unfold abs32
  split
  · rw [BitVec.toNat_neg, BitVec.toNat_ofNat]
    omega
  · rw [BitVec.toNat_ofNat]
    omega

theorem neg_eq_ofInt (a : Word) : -a = BitVec.ofInt 32 (-(a.toNat : Int)) := by
  rw [BitVec.ofInt_neg, BitVec.ofInt_natCast, BitVec.ofNat_toNat, BitVec.setWidth_eq]

/-- `vbfi` places the low bits of a in the field that b names (R357). -/
theorem bfInsert_eq (d a b : Word) :
    bfInsert d a b = (d &&& ~~~(BitVec.ofNat 32 ((2 ^ bfLen b - 1) * 2 ^ bfPos b)))
      ||| (BitVec.ofNat 32 (a.toNat * 2 ^ bfPos b) &&& BitVec.ofNat 32 ((2 ^ bfLen b - 1) * 2 ^ bfPos b)) := by
  have hshift : a <<< bfPos b = BitVec.ofNat 32 (a.toNat * 2 ^ bfPos b) := by
    apply BitVec.eq_of_toNat_eq
    rw [BitVec.toNat_shiftLeft, Nat.shiftLeft_eq, BitVec.toNat_ofNat]
  rw [bfInsert, hshift, bfMask]

theorem length_filter_eq_sum {α : Type} (p : α → Bool) (l : List α) :
    (l.filter p).length = (l.map fun a => (p a).toNat).sum := by
  induction l with
  | nil => rfl
  | cons a l ih => cases h : p a <;> simp [h, ih, Nat.add_comm]

theorem popcount_eq_sum {w : Nat} (x : BitVec w) : popcount x = ((List.range w).map fun k => (x.getLsbD k).toNat).sum :=
  length_filter_eq_sum _ _

/-- The numbers before the first that meets a test, counted. -/
theorem length_takeWhile_range (p : Nat → Bool) (n : Nat) :
    ((List.range n).takeWhile fun k => !p k).length = ((List.range n).find? p).getD n := by
  rw [List.takeWhile_eq_take_findIdx_not, List.length_take, List.length_range]
  simp only [Bool.not_not]
  cases h : (List.range n).find? p with
  | none =>
    have hnone := List.find?_eq_none.mp h
    rw [List.findIdx_eq_length_of_false fun k hk => by simpa using hnone k hk]
    simp
  | some i =>
    obtain ⟨hpi, hin, hbefore⟩ := List.find?_range_eq_some.mp h
    have hlen : i < (List.range n).length := by simpa using hin
    rw [(List.findIdx_eq hlen).mpr ⟨by simpa using hpi, fun j hj => by simpa using hbefore j hj⟩]
    exact Nat.min_eq_left (Nat.le_of_lt (List.mem_range.mp hin))

theorem ctz32_eq (a : Word) : ctz32 a = ((List.range 32).takeWhile fun k => !a.getLsbD k).length := by
  rw [length_takeWhile_range (fun k => a.getLsbD k), ctz32]
  cases (List.range 32).find? fun k => a.getLsbD k <;> rfl

/-- The highest set bit of a word that is not 0 is the bit of its binary logarithm. -/
theorem clz32_eq (a : Word) : clz32 a = if a = 0 then 32 else 31 - Nat.log2 a.toNat := by
  unfold clz32
  by_cases ha : a = 0
  · subst ha
    rfl
  · have hne : a.toNat ≠ 0 := fun h => ha (BitVec.eq_of_toNat_eq (by simpa using h))
    have hlog : Nat.log2 a.toNat < 32 := (Nat.log2_lt hne).mpr a.isLt
    have hfind : (List.range 32).find? (fun i => a.getLsbD (31 - i)) = some (31 - Nat.log2 a.toNat) := by
      rw [List.find?_range_eq_some]
      refine ⟨?_, by simp; omega, fun j hj => ?_⟩
      · rw [show 31 - (31 - Nat.log2 a.toNat) = Nat.log2 a.toNat by omega]
        exact Nat.testBit_log2 hne
      · have habove : a.toNat < 2 ^ (31 - j) := (Nat.log2_lt hne).mp (by omega)
        simpa [BitVec.getLsbD] using Nat.testBit_lt_two_pow habove
    rw [hfind, if_neg ha]

theorem sum_map_mul_const {α : Type} (g : α → Nat) (c : Nat) (l : List α) :
    (l.map fun a => g a * c).sum = (l.map g).sum * c := by
  induction l with
  | nil => exact (Nat.zero_mul c).symm
  | cons a l ih => rw [List.map_cons, List.map_cons, List.sum_cons, List.sum_cons, ih, Nat.add_mul]

/-- A word with bit k moved to bit w − 1 − k (R358), by the word's width: the highest bit comes lowest. -/
theorem toNat_reverse_eq_sum {w : Nat} (x : BitVec w) :
    x.reverse.toNat = ((List.range w).map fun k => 2 ^ (w - 1 - k) * (x.getLsbD k).toNat).sum := by
  induction w with
  | zero => simp [BitVec.of_length_zero]
  | succ w ih =>
    have hlow : ((List.range w).map fun k => 2 ^ (w - k) * (x.getLsbD k).toNat).sum
        = ((List.range w).map fun k => 2 ^ (w - 1 - k) * ((x.setWidth w).getLsbD k).toNat).sum * 2 := by
      rw [← sum_map_mul_const]
      refine congrArg List.sum (List.map_congr_left fun k hk => ?_)
      have hkw : k < w := List.mem_range.mp hk
      rw [show w - k = w - 1 - k + 1 by omega, Nat.pow_succ, BitVec.getLsbD_setWidth]
      simp [hkw, Nat.mul_right_comm]
    rw [← BitVec.concat_reverse_setWidth_msb_eq_reverse, BitVec.toNat_concat, ih, List.range_succ, List.map_append, List.sum_append]
    simp only [Nat.add_sub_cancel, hlow, BitVec.msb_eq_getLsbD_last, List.map_cons, List.map_nil, List.sum_cons, List.sum_nil,
      Nat.sub_self, Nat.pow_zero, Nat.one_mul, Nat.add_zero]

theorem reverse_eq_sum (a : Word) :
    a.reverse = BitVec.ofNat 32 (((List.range 32).map fun k => 2 ^ (31 - k) * (a.getLsbD k).toNat).sum) := by
  rw [← toNat_reverse_eq_sum a, BitVec.ofNat_toNat, BitVec.setWidth_eq]

theorem ofNat_add_word (l : Nat) (a : Word) : BitVec.ofNat 32 l + a = BitVec.ofNat 32 (l + a.toNat) := by
  rw [BitVec.ofNat_add, BitVec.ofNat_toNat, BitVec.setWidth_eq]

/-! ## The pair of a carry addition -/

/-- The operand forms of `vaddc` (R351). -/
def shCarry : Shape := ⟨[.vc], accVSI, accVSI⟩

/-- The sum of a lane of `vaddc`, with the carry that its first name holds. -/
def carrySum (s : State) (t : Troupe) (f : OForm) (l : Nat) : Nat :=
  (lane (s.rdLanes t 1 f.a 0) l).toNat + (lane (s.rdLanes t 2 f.b 0) l).toNat + (lane (s.rdLanes t 0 f.d 0) l).toNat

/-- What `vaddc` writes: the low words of the sums, and the carries out in the next name. -/
def carryPair (s : State) (t : Troupe) (f : OForm) : List (Nat × Lanes) :=
  [(numOf f.d, lanesOf fun l => BitVec.ofNat 32 (carrySum s t f l)),
    (numOf f.d + 1, lanesOf fun l => BitVec.ofNat 32 (carrySum s t f l / 2 ^ 32))]

theorem execVaddc_eq (f : OForm) (s : State) :
    execVaddc f s = s.operate f.c (vecBeats f.c) (opndsO shCarry f) okMod noLate noHold fun s t s' t' =>
      s'.commitV t' f.c vecLat (s.effOf t f.c) (carryPair s t f) := rfl

/-- The destination of R351 is two names, neither of them v255. -/
theorem dst_carryPair {o : Opnds} {t : Troupe} (hd : o.sh.d = [.vc]) (h : o.ok t = true) (n : Nat) :
    n ∈ o.dst t ↔ n ≠ 255 ∧ n ∈ [numOf o.d, numOf o.d + 1] := by
  obtain ⟨a, -, -, ha, -, -⟩ := uses_of_ok h
  obtain rfl : a = .vc := by simpa [hd] using use_mem ha
  rw [Opnds.dst, Opnds.ud, ha]
  have hok := use_ok ha
  cases hod : o.d with
  | vec k last pat par => simp [dstNames, vecNames, numOf, window, List.range_succ, and_comm]
  | scal k => simp [hod, Troupe.accOk] at hok
  | imm v => simp [hod, Troupe.accOk] at hok
  | special k => simp [hod, Troupe.accOk] at hok
  | bad raw => simp [hod, Troupe.accOk] at hok

end Sys2Proof.Machine

namespace Sys2Proof.Claims

open Sys2Proof Sys2Proof.Machine

/-! ## Vector instructions of one result -/

section
variable {i : Instr} {f : OForm} {s : State} {t : Troupe} {val : Nat → Word}

/-- An instruction whose meaning is `vecOp` sets its effective lanes, when its lanes at issue are those stated. -/
theorem setsLanes_of_vecOp {sh : Shape} {lanesAt : State → Troupe → Lanes} (hexec : exec i s = vecOp sh vecLat f lanesAt s)
    (hd : sh.d = [.vw 1 false] ∨ sh.d = [.vd 1 false]) (hval : lanesAt s (s.atIssue t) = lanesOf val)
    (h : s.issuesWith t f.c (ops f sh) true) : SetsLanes i s t f.c (ops f sh) 6 [(numOf f.d, lanesOf val)] := by
  have hone : ∀ a ∈ sh.d, ∃ vp, a = .vw 1 vp ∨ a = .vd 1 vp := by
    rcases hd with hd | hd <;> simp [hd]
  obtain ⟨u, t', hu, hkeeps, hlanes⟩ := vecOp_spec (lat := vecLat) (val := lanesAt) hone (by decide) h
  rw [hval] at hlanes
  exact ⟨u, t', hexec.trans hu, hkeeps, hlanes⟩

theorem setsLanes_vec1 {op : Word → Word} (hexec : exec i s = vec1 op f s) (hop : ∀ l, op (rA s t f 0 l) = val l)
    (h : s.issuesWith t f.c (ops f shOne) true) : SetsLanes i s t f.c (ops f shOne) 6 [(numOf f.d, lanesOf val)] :=
  setsLanes_of_vecOp hexec (.inl rfl) (lanesOf_congr fun l _ => hop l) h

theorem setsLanes_vec3 {op : Word → Word → Word → Word} (hexec : exec i s = vec3 op f s)
    (hop : ∀ l, op (rD s t f 0 l) (rA s t f 0 l) (rB s t f 0 l) = val l)
    (h : s.issuesWith t f.c (ops f shThree) true) : SetsLanes i s t f.c (ops f shThree) 6 [(numOf f.d, lanesOf val)] :=
  setsLanes_of_vecOp hexec (.inr rfl) (lanesOf_congr fun l _ => hop l) h

theorem setsLanes_of_vectorOther {sh : Shape} {result : State → Troupe → Nat → Word} (hi : VectorOther i f sh result)
    (h : s.issuesWith t f.c (ops f sh) true) : SetsLanes i s t f.c (ops f sh) 6 [(numOf f.d, lanesOf (result s t))] := by
  cases hi with
  | vmad => exact setsLanes_vec3 (exec_vmad f s) (fun _ => mulAdd_eq _ _ _) h
  | vsel => exact setsLanes_vec3 (exec_vsel f s) (fun _ => ite_not _ _ _) h
  | vbfi => exact setsLanes_vec3 (exec_vbfi f s) (fun _ => bfInsert_eq _ _ _) h
  | vmovh =>
    exact setsLanes_of_vecOp (exec_vmovh f s) (.inr rfl) (lanesOf_congr fun _ _ => moveHigh_eq _ _) h
  | vnot => exact setsLanes_vec1 (exec_vnot f s) (fun _ => rfl) h
  | vabs => exact setsLanes_vec1 (exec_vabs f s) (fun _ => abs32_eq _) h
  | vneg => exact setsLanes_vec1 (exec_vneg f s) (fun _ => neg_eq_ofInt _) h
  | vmov => exact setsLanes_vec1 (exec_vmov f s) (fun _ => rfl) h
  | vpop => exact setsLanes_vec1 (exec_vpop f s) (fun _ => congrArg (BitVec.ofNat 32) (popcount_eq_sum _)) h
  | vclz => exact setsLanes_vec1 (exec_vclz f s) (fun _ => congrArg (BitVec.ofNat 32) (clz32_eq _)) h
  | vctz => exact setsLanes_vec1 (exec_vctz f s) (fun _ => congrArg (BitVec.ofNat 32) (ctz32_eq _)) h
  | vbrev => exact setsLanes_vec1 (exec_vbrev f s) (fun _ => reverse_eq_sum _) h
  | vlane =>
    exact setsLanes_of_vecOp (exec_vlane f s) (.inl rfl) (lanesOf_congr fun l _ => ofNat_add_word l _) h

end

/-! ## The carry addition -/

theorem setsLanes_vaddc {f : OForm} {s : State} {t : Troupe} (h : s.issuesWith t f.c (ops f shCarry) true) :
    SetsLanes (.vaddc f) s t f.c (ops f shCarry) 6 (carryPair s (s.atIssue t) f) := by
  obtain ⟨s', u, b, hstart, hexec⟩ := operate_starts (bts := vecBeats f.c) (o := opndsO shCarry f) (mod := okMod)
    (late := noLate) (hold := noHold)
    (act := fun s t s' t' => s'.commitV t' f.c vecLat (s.effOf t f.c) (carryPair s t f)) h rfl rfl
  obtain ⟨t', hkeeps, hlanes⟩ := commitV_keeps (lat := vecLat) (m := s.effOf (s.atIssue t) f.c)
    (ws := carryPair s (s.atIssue t) f) h.1 hstart (by decide)
    (dst_carryPair (o := ops f shCarry) rfl (ok_of_passes h.2)) (by simp [carryPair])
  exact ⟨_, t', (exec_vaddc f s).trans ((execVaddc_eq f s).trans hexec), hkeeps, hlanes⟩

/-- Settles O7: the instructions of one result by their table, `vaddc` by its pair. -/
theorem vectorOtherResult : Obligations.VectorOtherResult := by
  unfold Obligations.VectorOtherResult
  exact ⟨fun _ _ _ _ _ _ hi h => setsLanes_of_vectorOther hi h, fun _ _ _ h => setsLanes_vaddc h⟩

end Sys2Proof.Claims
end

section
/-! PROOFS. Scratchpad buffers (R423 to R425): how an instruction that a late check or a wait stops ends, what storing a workgroup
leaves of the others, and the outcomes of `bget`, `bgive` and `bfree`. -/

namespace Sys2Proof.Machine

/-! ## An instruction that does not issue -/

section
variable {s : State} {t : Troupe} {c : Ctl} {bts : State → Troupe → Nat} {o : Troupe → Opnds} {mod : Troupe → Bool}
  {late : State → Troupe → Option TrapInfo} {hold : State → Troupe → Bool} {act : State → Troupe → State → Troupe → State}

/-- A check of R302 after step 5 that fails takes its trap, precisely. -/
theorem operate_traps_late {i : TrapInfo} (h : s.issuesWith t c (o (s.atIssue t)) (mod (s.atIssue t)))
    (hl : late s (s.atIssue t) = some i) : s.operate c bts o mod late hold act = .next (s.takeTrap t i t.pc) := by
  obtain ⟨hm, hc, -⟩ := h
  unfold State.operate State.operateS
  rw [run_issues hm]
  simp only [hc, hl]
  rfl

/-- An instruction that passes its checks and must wait changes nothing. -/
theorem operate_waits (h : s.issuesWith t c (o (s.atIssue t)) (mod (s.atIssue t))) (hl : late s (s.atIssue t) = none)
    (hh : hold s (s.atIssue t) = true) : s.operate c bts o mod late hold act = .next s := by
  obtain ⟨hm, hc, -⟩ := h
  unfold State.operate State.operateS
  rw [run_issues hm]
  simp only [hc, hl, hh, if_true]

end

/-! ## Finding a workgroup after an update -/

theorem wg?_modWg_same {s : State} {i : Nat} {f : Workgroup → Workgroup} (hf : ∀ w, (f w).id = w.id) :
    (s.modWg i f).wg? i = (s.wg? i).map f :=
  find?_modWhere_same (p := fun w : Workgroup => w.id == i) (fun w hw => by simpa [hf w] using hw) s.wgs

theorem wg?_modWg_other {s : State} {i k : Nat} {f : Workgroup → Workgroup} (hf : ∀ w, (f w).id = w.id) (hk : i ≠ k) :
    (s.modWg i f).wg? k = s.wg? k :=
  find?_modWhere_other (fun w hw => by
    simp only [beq_iff_eq] at hw
    simp [hf w, hw, hk]) s.wgs

theorem wg?_of_wgs {s u : State} (h : u.wgs = s.wgs) (k : Nat) : u.wg? k = s.wg? k := by
  simp [State.wg?, h]

/-! ## What a commit leaves alone -/

theorem commitSLater_troupes {s u : State} (ht : u.troupes = s.troupes) (hf : u.fresh = s.fresh) (t : Troupe) (c : Ctl)
    (ws : List (Nat × Word)) : (u.commitSLater t c ws).troupes = (s.commitSLater t c ws).troupes := by
  simp [State.commitSLater, State.addPend, State.setTroupe, State.bump, ht, hf]

/-- A commit touches no workgroup, buffer, byte of memory or request. -/
theorem commit_kept (s : State) (t : Troupe) (c : Ctl) : (s.commit t c).wgs = s.wgs ∧ (s.commit t c).bufs = s.bufs
    ∧ (s.commit t c).mem = s.mem ∧ (s.commit t c).reqs = s.reqs := by
  unfold State.commit State.clearLater
  cases c.flag <;> exact ⟨rfl, rfl, rfl, rfl⟩

/-! ## What the three instructions do to the tables of buffers -/

/-- The state with one more free value drawn, and the troupe issued for one beat: what an instruction of plain operands acts on. -/
def State.drawn (s : State) : State := { s with free := s.free + 1 }
def State.issuedTroupe (s : State) (t : Troupe) (c : Ctl) : Troupe := (s.atIssue t).issued c (s.now t) 1

/-- A workgroup with another table of bindings (R155). -/
def Workgroup.rebind (f : List Binding → List Binding) (w : Workgroup) : Workgroup := { w with binds := f w.binds }

/-- The buffer that `bget` takes, and its binding (R423). -/
def State.newBuf (s : State) (t : Troupe) (i : Nat) : Buf := ⟨t.gcore, i, t.wg, s.free, [], []⟩
def Troupe.newBinding (t : Troupe) (i : Nat) : Binding := ⟨BitVec.ofNat 16 (t.gcore * 256 + i), t.gcore, i, none⟩

/-- Buffer i of the troupe's core is bound for its workgroup (R423). -/
def State.bindBuf (s : State) (t : Troupe) (i : Nat) : State :=
  { s with bufs := s.bufs ++ [s.newBuf t i] }.modWg t.wg (Workgroup.rebind (· ++ [t.newBinding i]))

/-- A binding leaves a workgroup's table. -/
def State.unbind (s : State) (wg : Nat) (b : Binding) : State :=
  s.modWg wg (Workgroup.rebind fun l => l.filter fun x => x.handle != b.handle)

/-- A binding passes to the workgroup r (R424), with the acquire of its core. -/
def State.passBuf (s : State) (wg : Nat) (r : Workgroup) (b : Binding) : State :=
  ((s.unbind wg b).modWg r.id (Workgroup.rebind (· ++ [b]))).acquire r.die r.core .cl

/-- What `bgive` does for the workgroup that it finds: the buffer passes when its status is 0 (R424). -/
def State.giveTo (s : State) (wg : Nat) (r : Option Workgroup) (b : Binding) : State :=
  match r with
  | some r => if giveStatus (some r) b = 0 then s.passBuf wg r b else s
  | none => s

/-- A binding ends and its buffer is free (R425). -/
def State.freeBuf (s : State) (wg : Nat) (b : Binding) : State :=
  { s.unbind wg b with bufs := s.bufs.filter fun x => !(x.core == b.core && x.idx == b.idx) }

@[simp] theorem rebind_id (f : List Binding → List Binding) (w : Workgroup) : (w.rebind f).id = w.id := rfl

@[simp] theorem freeBuf_troupes (s : State) (k : Nat) (b : Binding) : (s.freeBuf k b).troupes = s.troupes := rfl

/-- What is left of a table without a binding. -/
theorem wg?_unbind_same {s : State} {k : Nat} {g : Workgroup} (h : s.wg? k = some g) (b : Binding) :
    ∃ g', (s.unbind k b).wg? k = some g' ∧ g'.binds = g.binds.filter fun x => x.handle != b.handle := by
  rw [State.unbind, wg?_modWg_same (rebind_id _), h]
  exact ⟨_, rfl, rfl⟩

theorem wg?_unbind_other {s : State} {k j : Nat} (h : k ≠ j) (b : Binding) : (s.unbind k b).wg? j = s.wg? j :=
  wg?_modWg_other (rebind_id _) h

theorem wg?_bindBuf {s : State} {t : Troupe} {w : Workgroup} (h : s.wgOf t = some w) (i : Nat) :
    ∃ w', (s.bindBuf t i).wg? t.wg = some w' ∧ w'.binds = w.binds ++ [t.newBinding i] := by
  have hsame : ({ s with bufs := s.bufs ++ [s.newBuf t i] } : State).wg? t.wg = some w := h
  rw [State.bindBuf, wg?_modWg_same (rebind_id _), hsame]
  exact ⟨_, rfl, rfl⟩

theorem wg?_passBuf_giver {s : State} {k : Nat} {g r : Workgroup} (h : s.wg? k = some g) (hr : r.id ≠ k) (b : Binding) :
    ∃ g', (s.passBuf k r b).wg? k = some g' ∧ g'.binds = g.binds.filter fun x => x.handle != b.handle := by
  have hother : (s.passBuf k r b).wg? k = (s.unbind k b).wg? k := wg?_modWg_other (rebind_id _) hr
  rw [hother]
  exact wg?_unbind_same h b

theorem wg?_passBuf_taker {s : State} {k : Nat} {r : Workgroup} (h : s.wg? r.id = some r) (hr : r.id ≠ k) (b : Binding) :
    ∃ r', (s.passBuf k r b).wg? r.id = some r' ∧ r'.binds = r.binds ++ [b] := by
  have hsame : (s.passBuf k r b).wg? r.id = ((s.unbind k b).wg? r.id).map (Workgroup.rebind (· ++ [b])) :=
    wg?_modWg_same (rebind_id _)
  rw [hsame, wg?_unbind_other hr.symm, h]
  exact ⟨_, rfl, rfl⟩

theorem wg?_freeBuf {s : State} {k : Nat} {g : Workgroup} (h : s.wg? k = some g) (b : Binding) :
    ∃ g', (s.freeBuf k b).wg? k = some g' ∧ g'.binds = g.binds.filter fun x => x.handle != b.handle :=
  wg?_unbind_same h b

theorem mem_freeBuf {s : State} {k : Nat} {b : Binding} {x : Buf} :
    x ∈ (s.freeBuf k b).bufs ↔ x ∈ s.bufs ∧ ¬(x.core = b.core ∧ x.idx = b.idx) := by
  simp only [State.freeBuf, List.mem_filter, Bool.not_eq_true', Bool.and_eq_false_iff, beq_eq_false_iff_ne,
    Decidable.not_and_iff_not_or_not]

/-! ## The buffer that `bget` takes, the status of `bgive`, the handle of both and of `bfree` -/

/-- A workgroup may have one more buffer: within its reservation and its table of bindings (R155, R423). -/
def State.hasRoom (s : State) (w : Workgroup) : Prop := (s.bufs.filter fun b => b.wg == w.id).length < w.bufs ∧ w.binds.length < 64

theorem nextBuf_lowest {s : State} {t : Troupe} {w : Workgroup} {i : Nat} (hw : s.wgOf t = some w) (hr : s.hasRoom w)
    (hi : i < 64) (hfree : s.buf? t.gcore i = none) (hfull : ∀ j, j < i → (s.buf? t.gcore j).isSome = true) :
    s.nextBuf t = some i := by
  obtain ⟨hbufs, hbinds⟩ := hr
  have hfind : (List.range 64).find? (fun i => (s.buf? t.gcore i).isNone) = some i := by
    rw [List.find?_range_eq_some]
    exact ⟨by simp [hfree], List.mem_range.mpr hi, fun j hj => by simpa using hfull j hj⟩
  simp [State.nextBuf, hw, hbufs, hbinds, hfind]

theorem nextBuf_none {s : State} {t : Troupe} {w : Workgroup} (hw : s.wgOf t = some w)
    (h : ¬s.hasRoom w ∨ ∀ j, j < 64 → (s.buf? t.gcore j).isSome = true) : s.nextBuf t = none := by
  simp only [State.nextBuf, hw]
  split
  · next hroom =>
    simp only [Bool.and_eq_true, decide_eq_true_eq] at hroom
    have hfull := h.resolve_left fun hn => hn hroom
    rw [List.find?_eq_none]
    exact fun j hj => by simp [Option.isNone_iff_eq_none, Option.ne_none_iff_isSome.mpr (hfull j (List.mem_range.mp hj))]
  · rfl

theorem giveStatus_full {r : Workgroup} (b : Binding) (h : 64 ≤ r.binds.length) : giveStatus (some r) b = 2 := if_pos h

theorem giveStatus_held {r : Workgroup} {b : Binding} (h : r.binds.length < 64) (hx : ∃ x ∈ r.binds, x.handle = b.handle) :
    giveStatus (some r) b = 3 := by
  have hany : (r.binds.any fun x => x.handle == b.handle) = true := by simpa using hx
  rw [giveStatus, if_neg (Nat.not_le.mpr h), if_pos hany]

theorem giveStatus_taken {r : Workgroup} {b : Binding} (h : r.binds.length < 64) (hx : ∀ x ∈ r.binds, x.handle ≠ b.handle) :
    giveStatus (some r) b = 0 := by
  have hany : ¬(r.binds.any fun x => x.handle == b.handle) = true := by simpa using hx
  rw [giveStatus, if_neg (Nat.not_le.mpr h), if_neg hany]

theorem giveTo_passes {s : State} {r : Workgroup} {b : Binding} (h : giveStatus (some r) b = 0) (k : Nat) :
    s.giveTo k (some r) b = s.passBuf k r b := if_pos h

theorem giveTo_refused {s : State} {r : Workgroup} {b : Binding} (h : giveStatus (some r) b ≠ 0) (k : Nat) :
    s.giveTo k (some r) b = s := if_neg h

/-- Passing a buffer touches the tables of bindings and the untracked copies of lines only. -/
theorem giveTo_kept (s : State) (k : Nat) (r : Option Workgroup) (b : Binding) :
    (s.giveTo k r b).troupes = s.troupes ∧ (s.giveTo k r b).fresh = s.fresh ∧ (s.giveTo k r b).mem = s.mem
      ∧ (s.giveTo k r b).reqs = s.reqs ∧ (s.giveTo k r b).bufs = s.bufs := by
  cases r with
  | none => exact ⟨rfl, rfl, rfl, rfl, rfl⟩
  | some r =>
    unfold State.giveTo
    dsimp only
    split <;> exact ⟨rfl, rfl, rfl, rfl, rfl⟩

section
variable {s : State} {t : Troupe} {f : OForm} {g r : Workgroup} {b : Binding} {n : Nat}

theorem heldTrap_held (h : s.heldBuf t f = some b) : s.heldTrap t f = none := by
  simp [State.heldTrap, h]

theorem heldTrap_unheld (ht : s.takesOf t f.c = true) (h : s.heldBuf t f = none) :
    s.heldTrap t f = some ⟨0x0A, BitVec.ofNat 64 ((s.rdWord t 1 f.a 0).toNat % 2 ^ 16 * 2 ^ 16), 0⟩ := by
  simp [State.heldTrap, h, ht, scrown]

theorem heldBusy_held (ht : s.takesOf t f.c = true) (h : s.heldBuf t f = some b) :
    s.heldBusy t f = s.bufBusy t.wg b.core b.idx := by
  simp [State.heldBusy, h, ht]

/-- What the receiver of a buffer is, field by field. -/
theorem receiver_spec (hg : s.wgOf t = some g) (h : s.receiver t n = some r) :
    r.lvl = g.lvl ∧ r.node = g.node ∧ r.w = n ∧ (r.status = .running ∨ r.status = .stopping) ∧ r.die = t.die
      ∧ r.core / 4 = t.core / 4 := by
  rw [State.receiver, hg] at h
  simpa [and_assoc] using List.find?_some h

end

end Sys2Proof.Machine

namespace Sys2Proof.Claims

open Sys2Proof Sys2Proof.Machine

/-! ## The troupe after a buffer instruction -/

section
variable {s u x : State} {t t' : Troupe} {c : Ctl} {o : Opnds}

/-- A troupe that has issued as usual has gone on, in every state of the same troupes, memory and requests. -/
theorem goes_of_issueKeeps (hp : o.sh.plain = true) (hk : s.issueKeeps t c x t') (hr : t.regsKept t')
    (ht : u.troupes = x.troupes) (hmem : u.mem = s.mem) (hreqs : u.reqs = s.reqs) : Goes s t c o u t' := by
  obtain ⟨-, hothers, hnow, hpc, hflags, -, -⟩ := hk
  refine ⟨fun a b hn => (troupe?_of_troupes ht a b).trans (hothers a b hn), (troupe?_of_troupes ht ..).trans hnow, hpc, hflags,
    ?_, hr.sregs, hr.preds, hmem, hreqs⟩
  have hrel : rel s t o = [] := (plain_opnds (s.atIssue t) hp).1
  rw [Troupe.released, hrel, hr.regs]
  exact (List.filter_eq_self.mpr fun _ _ => rfl).symm

/-- The answer of a buffer instruction, written to sD later, after changes outside the troupes, memory and requests. -/
theorem goes_answers (h : s.mayIssue t c) (hp : o.sh.plain = true) (ht : u.troupes = s.troupes) (hf : u.fresh = s.fresh)
    (hmem : u.mem = s.mem) (hreqs : u.reqs = s.reqs) (d : Nat) (v : Word) :
    ∃ t', Goes s t c o (u.commitSLater (s.issuedTroupe t c) c [(d, v)]) t' ∧ Answers t t' c d v := by
  obtain ⟨t', hkeeps, hregs, hpend, hunwritten⟩ := commitSLater_keeps (b := 1) (ws := [(d, v)]) h
  obtain ⟨-, -, -, hspecials⟩ := hkeeps.issued
  exact ⟨t', goes_of_issueKeeps hp hkeeps hregs (commitSLater_troupes ht hf ..) hmem hreqs, hspecials, hpend, hunwritten⟩

end

section
variable {f : OForm} {s : State} {t : Troupe} {g r : Workgroup} {b : Binding} {i : Nat}

/-! ## `bget` -/

/-- `bget` binds the buffer that it takes, if there is one, and answers its handle or 0xFFFF. -/
theorem bget_acts (h : s.issuesWith t f.c (ops f shGet) true) (hm : s.memFree t) (ht : takes s t f.c = true) :
    exec (.bget f) s = .next (((s.nextBuf t).elim s (s.bindBuf t)).drawn.commitSLater (s.issuedTroupe t f.c) f.c
      [(numOf f.d, (s.nextBuf t).elim 0xFFFF fun i => (handleOf (8 * t.die + t.core) i).setWidth 32)]) := by
  refine (exec_bget f s).trans (Eq.trans (plain_acts (o := opndsO shGet f) h rfl rfl hm) ?_)
  have ht' : s.takesOf (s.atIssue t) f.c = true := ht
  have hnext : s.nextBuf (s.atIssue t) = s.nextBuf t := rfl
  simp only [ht', hnext, if_true]
  cases s.nextBuf t with
  | none => rfl
  | some i => rfl

/-! ## The handle of `bgive` and `bfree` -/

theorem heldBuf_atIssue (hg : s.wgOf t = some g) : s.heldBuf (s.atIssue t) f = g.bound? ((sA s t f 0).toNat % 2 ^ 16) := by
  have hg' : s.wgOf (s.atIssue t) = some g := hg
  rw [State.heldBuf, hg']
  rfl

section
variable (hg : s.wgOf t = some g) (hb : g.bound? ((sA s t f 0).toNat % 2 ^ 16) = some b)
include hg hb

theorem held_passes : s.heldTrap (s.atIssue t) f = none := heldTrap_held ((heldBuf_atIssue hg).trans hb)

variable (ht : takes s t f.c = true)
include ht

theorem held_busy : s.heldBusy (s.atIssue t) f = s.bufBusy t.wg b.core b.idx :=
  heldBusy_held ht ((heldBuf_atIssue hg).trans hb)

/-! ## `bgive` -/

/-- `bgive` answers with the status of the workgroup that it finds, and passes the buffer when that is 0. -/
theorem bgive_acts (h : s.issuesWith t f.c (ops f shGive) true) (hm : s.memFree t) (hbusy : s.bufBusy t.wg b.core b.idx = false)
    (hrel : s.releaseDone (s.atIssue t) s.fresh .cl 0 = true) :
    exec (.bgive f) s = .next ((s.giveTo t.wg (s.receiver t (sB s t f 0).toNat) b).drawn.commitSLater (s.issuedTroupe t f.c) f.c
      [(numOf f.d, BitVec.ofNat 32 (giveStatus (s.receiver t (sB s t f 0).toNat) b))]) := by
  have hheld : s.heldBuf (s.atIssue t) f = some b := (heldBuf_atIssue hg).trans hb
  have hm' : s.memHeld (s.atIssue t) = false := hm
  have hfree := (held_busy hg hb ht).trans hbusy
  have ht' : s.takesOf (s.atIssue t) f.c = true := ht
  refine (exec_bgive f s).trans (Eq.trans (plain_acts (o := opndsO shGive f) h rfl (held_passes hg hb) ?_) ?_)
  · simpa [hm', hfree] using fun _ => hrel
  have hr : s.receiver (s.atIssue t) (s.rdWord (s.atIssue t) 2 f.b 0).toNat = s.receiver t (sB s t f 0).toNat := rfl
  simp only [ht', hheld, hr]
  cases s.receiver t (sB s t f 0).toNat with
  | none => rfl
  | some r =>
    by_cases h0 : giveStatus (some r) b = 0
    · simp only [h0, giveTo_passes, if_true]
      rfl
    · simp only [h0, giveTo_refused h0, if_false]
      rfl

/-! ## `bfree` -/

theorem bfree_acts (h : s.issuesWith t f.c (ops f shFree) true) (hm : s.memFree t) (hbusy : s.bufBusy t.wg b.core b.idx = false) :
    exec (.bfree f) s = .next ((s.drawn.commit (s.issuedTroupe t f.c) f.c).freeBuf t.wg b) := by
  have hheld : s.heldBuf (s.atIssue t) f = some b := (heldBuf_atIssue hg).trans hb
  have hm' : s.memHeld (s.atIssue t) = false := hm
  have hfree := (held_busy hg hb ht).trans hbusy
  have ht' : s.takesOf (s.atIssue t) f.c = true := ht
  refine (exec_bfree f s).trans (Eq.trans (plain_acts (o := opndsO shFree f) h rfl (held_passes hg hb) ?_) ?_)
  · simp [hm', hfree]
  simp only [ht', hheld]
  rfl

end

end

/-! ## The obligation's clauses -/

section
variable {f : OForm} {s : State} {t : Troupe} {g r : Workgroup} {b : Binding} {i : Nat}

theorem bget_binds_lowest (h : s.issuesWith t f.c (ops f shGet) true) (hm : s.memFree t) (hw : s.wgOf t = some g)
    (ht : takes s t f.c = true) (hn : s.nextBuf t = some i) :
    ∃ u t', exec (.bget f) s = .next u ∧ Goes s t f.c (ops f shGet) u t'
      ∧ Answers t t' f.c (numOf f.d) ((handleOf (8 * t.die + t.core) i).setWidth 32)
      ∧ (∃ b, u.bufs = s.bufs ++ [b] ∧ b.core = 8 * t.die + t.core ∧ b.idx = i ∧ b.wg = t.wg ∧ b.damaged = [])
      ∧ ∃ w', u.wg? t.wg = some w' ∧ w'.binds = g.binds ++ [⟨handleOf (8 * t.die + t.core) i, 8 * t.die + t.core, i, none⟩] := by
  obtain ⟨t', hgoes, hans⟩ := goes_answers (u := (s.bindBuf t i).drawn) (o := ops f shGet) h.1 rfl rfl rfl rfl rfl (numOf f.d)
    ((handleOf (8 * t.die + t.core) i).setWidth 32)
  exact ⟨_, t', by rw [bget_acts h hm ht, hn]; rfl, hgoes, hans, ⟨s.newBuf t i, rfl, rfl, rfl, rfl, rfl⟩, wg?_bindBuf hw i⟩

theorem bget_answers_none (h : s.issuesWith t f.c (ops f shGet) true) (hm : s.memFree t) (ht : takes s t f.c = true)
    (hn : s.nextBuf t = none) :
    ∃ u t', exec (.bget f) s = .next u ∧ Goes s t f.c (ops f shGet) u t' ∧ Answers t t' f.c (numOf f.d) 0xFFFF
      ∧ u.bufs = s.bufs ∧ u.wgs = s.wgs := by
  obtain ⟨t', hgoes, hans⟩ := goes_answers (u := s.drawn) (o := ops f shGet) h.1 rfl rfl rfl rfl rfl (numOf f.d) 0xFFFF
  exact ⟨_, t', by rw [bget_acts h hm ht, hn]; rfl, hgoes, hans, rfl, rfl⟩

/-- Every `bgive` of a held buffer that nothing holds back answers the status of the workgroup found. -/
theorem bgive_answers (hg : s.wgOf t = some g) (hb : g.bound? ((sA s t f 0).toNat % 2 ^ 16) = some b)
    (ht : takes s t f.c = true) (h : s.issuesWith t f.c (ops f shGive) true) (hm : s.memFree t)
    (hbusy : s.bufBusy t.wg b.core b.idx = false) (hrel : s.releaseDone (s.atIssue t) s.fresh .cl 0 = true) {rcv : Option Workgroup}
    (hrcv : s.receiver t (sB s t f 0).toNat = rcv) :
    ∃ u t', exec (.bgive f) s = .next u ∧ Goes s t f.c (ops f shGive) u t'
      ∧ Answers t t' f.c (numOf f.d) (BitVec.ofNat 32 (giveStatus rcv b)) ∧ u.bufs = s.bufs ∧ u.wgs = (s.giveTo t.wg rcv b).wgs := by
  obtain ⟨htroupes, hfresh, hmem, hreqs, hbufs⟩ := giveTo_kept s t.wg rcv b
  obtain ⟨t', hgoes, hans⟩ := goes_answers (u := (s.giveTo t.wg rcv b).drawn) (o := ops f shGive) h.1 rfl htroupes hfresh hmem hreqs
    (numOf f.d) (BitVec.ofNat 32 (giveStatus rcv b))
  exact ⟨_, t', hrcv ▸ bgive_acts hg hb ht h hm hbusy hrel, hgoes, hans, hbufs, rfl⟩

/-- The three statuses of `bgive` for a workgroup that it finds (R424). -/
theorem bgive_statuses (hg : s.wgOf t = some g) (hr : s.wg? r.id = some r) (hne : r.id ≠ t.wg) {u : State}
    (hu : u.wgs = (s.giveTo t.wg (some r) b).wgs) :
    (64 ≤ r.binds.length → BitVec.ofNat 32 (giveStatus (some r) b) = (2 : Word) ∧ u.wgs = s.wgs)
      ∧ (r.binds.length < 64 → (∃ x ∈ r.binds, x.handle = b.handle) →
          BitVec.ofNat 32 (giveStatus (some r) b) = (3 : Word) ∧ u.wgs = s.wgs)
      ∧ (r.binds.length < 64 → (∀ x ∈ r.binds, x.handle ≠ b.handle) → BitVec.ofNat 32 (giveStatus (some r) b) = (0 : Word)
          ∧ (∃ g', u.wg? t.wg = some g' ∧ g'.binds = g.binds.filter fun x => x.handle != b.handle)
          ∧ ∃ r', u.wg? r.id = some r' ∧ r'.binds = r.binds ++ [b]) := by
  refine ⟨fun hfull => ?_, fun hlt hheld => ?_, fun hlt hnew => ?_⟩
  · have hst := giveStatus_full b hfull
    exact ⟨by rw [hst]; rfl, by rw [hu, giveTo_refused (by rw [hst]; decide)]⟩
  · have hst := giveStatus_held hlt hheld
    exact ⟨by rw [hst]; rfl, by rw [hu, giveTo_refused (by rw [hst]; decide)]⟩
  · have hst := giveStatus_taken hlt hnew
    rw [giveTo_passes hst] at hu
    rw [wg?_of_wgs hu, wg?_of_wgs hu, hst]
    exact ⟨rfl, wg?_passBuf_giver hg hne b, wg?_passBuf_taker hr hne b⟩

theorem bfree_frees (hg : s.wgOf t = some g) (hb : g.bound? ((sA s t f 0).toNat % 2 ^ 16) = some b) (ht : takes s t f.c = true)
    (h : s.issuesWith t f.c (ops f shFree) true) (hm : s.memFree t) (hbusy : s.bufBusy t.wg b.core b.idx = false) :
    ∃ u t' g', exec (.bfree f) s = .next u ∧ Goes s t f.c (ops f shFree) u t' ∧ u.wg? t.wg = some g'
      ∧ g'.binds = g.binds.filter (fun x => x.handle != b.handle)
      ∧ ∀ x, x ∈ u.bufs ↔ x ∈ s.bufs ∧ ¬(x.core = b.core ∧ x.idx = b.idx) := by
  have hcommit : ∃ t', s.issueKeeps t f.c (s.drawn.commit (s.issuedTroupe t f.c) f.c) t' ∧ t.regsKept t' := commit_keeps h.1
  obtain ⟨t', hkeeps, hregs⟩ := hcommit
  obtain ⟨hwgs, hbufs, hmem, hreqs⟩ := commit_kept s.drawn (s.issuedTroupe t f.c) f.c
  have hcommitted : (s.drawn.commit (s.issuedTroupe t f.c) f.c).wg? t.wg = some g := (wg?_of_wgs hwgs _).trans hg
  obtain ⟨g', hfound, hbinds⟩ := wg?_freeBuf hcommitted b
  have hgoes : Goes s t f.c (ops f shFree) ((s.drawn.commit (s.issuedTroupe t f.c) f.c).freeBuf t.wg b) t' :=
    goes_of_issueKeeps rfl hkeeps hregs (freeBuf_troupes ..) hmem hreqs
  exact ⟨_, t', g', bfree_acts hg hb ht h hm hbusy, hgoes, hfound, hbinds, fun x => by rw [mem_freeBuf, hbufs]; rfl⟩

/-- A handle that is not held stops `bgive` and `bfree` with SCROWN. -/
theorem unheld_traps (hg : s.wgOf t = some g) (ht : takes s t f.c = true) (hb : g.bound? ((sA s t f 0).toNat % 2 ^ 16) = none) :
    let scrown : TrapInfo := ⟨0x0A, BitVec.ofNat 64 ((sA s t f 0).toNat % 2 ^ 16 * 2 ^ 16), 0⟩
    (s.issuesWith t f.c (ops f shFree) true → exec (.bfree f) s = .next (s.takeTrap t scrown t.pc))
      ∧ (s.issuesWith t f.c (ops f shGive) true → exec (.bgive f) s = .next (s.takeTrap t scrown t.pc)) := by
  have htrap := heldTrap_unheld (f := f) ht ((heldBuf_atIssue hg).trans hb)
  exact ⟨fun h => (exec_bfree f s).trans (operate_traps_late (o := opndsO shFree f) h htrap),
    fun h => (exec_bgive f s).trans (operate_traps_late (o := opndsO shGive f) h htrap)⟩

/-- `bgive` and `bfree` wait while a copy uses the buffer. -/
theorem busy_waits (hg : s.wgOf t = some g) (ht : takes s t f.c = true) (hb : g.bound? ((sA s t f 0).toNat % 2 ^ 16) = some b)
    (hbusy : s.bufBusy t.wg b.core b.idx = true) :
    (s.issuesWith t f.c (ops f shFree) true → exec (.bfree f) s = .next s)
      ∧ (s.issuesWith t f.c (ops f shGive) true → exec (.bgive f) s = .next s) := by
  have hpass := held_passes hg hb
  have hwait := (held_busy hg hb ht).trans hbusy
  exact ⟨fun h => (exec_bfree f s).trans (operate_waits (o := opndsO shFree f) h hpass (by simp [hwait])),
    fun h => (exec_bgive f s).trans (operate_waits (o := opndsO shGive f) h hpass (by simp [hwait]))⟩

end

/-- Settles O33: `bget` by the buffer that it takes, `bgive` by the status that it answers, `bfree`, and what stops the two. -/
theorem scratchpadBuffers : Obligations.ScratchpadBuffers := by
  unfold Obligations.ScratchpadBuffers
  refine ⟨fun f s t w h hm hw ht => ⟨fun i hroom hi hfree hfull => ?_, fun hnone => ?_⟩,
    fun f s t g r b h hm hg ht hb hbusy hrel hrcv hr hne => ⟨receiver_spec hg hrcv, ?_⟩,
    fun f s t g b h hm hg ht hb hbusy hrel hrcv => bgive_answers hg hb ht h hm hbusy hrel hrcv,
    fun f s t g b h hm hg ht hb hbusy => bfree_frees hg hb ht h hm hbusy,
    fun f s t g hg ht hb => unheld_traps hg ht hb, fun f s t g b hg ht hb hbusy => busy_waits hg ht hb hbusy⟩
  · exact bget_binds_lowest h hm hw ht (nextBuf_lowest hw hroom hi hfree hfull)
  · exact bget_answers_none h hm ht (nextBuf_none hw hnone)
  · obtain ⟨u, t', hexec, hgoes, hans, hbufs, hwgs⟩ := bgive_answers hg hb ht h hm hbusy hrel hrcv
    exact ⟨u, t', _, hexec, hgoes, hans, hbufs, bgive_statuses hg hr hne hwgs⟩

end Sys2Proof.Claims
end

section
/-! PROOFS. `swreg`, `shrink`, `grow`, `faultrd` and `pcfgrd` (R248, R452, R454): what an instruction that stores an edited troupe
leaves alone, and the outcomes of the five. -/

namespace Sys2Proof.Machine

/-! ## Storing an edited troupe -/

/-- The troupe with another TPC, allotment or fault log. -/
def Troupe.withTpc (t : Troupe) (a : DWord) : Troupe := { t with tpc := a }
def Troupe.withAllot (t : Troupe) (a : Nat) : Troupe := { t with allot := a }
def Troupe.withFaults (t : Troupe) (fs : List DWord) : Troupe := { t with faults := fs }

theorem issuedTroupe_issued (s : State) (t : Troupe) (c : Ctl) : s.issuedTo t (s.issuedTroupe t c) c := ⟨rfl, rfl, rfl, rfl⟩

section
variable {s s' u : State} {t t0 t1 : Troupe} {c : Ctl}

/-- A troupe replaced in a state that keeps everything outside the pools and counters of `s` is replaced in `s`. -/
theorem replaced_of (hu : Replaced s' t0 u t1) (hr : s.restKept s') (ht : s'.troupes = s.troupes) (hw : t0.wg = t.wg)
    (hx : t0.trix = t.trix) : Replaced s t u t1 where
  rest := restKept_trans hr hu.rest
  now := by
    have hnow := hu.now
    rwa [State.becomes, hw, hx] at hnow
  others := fun a b hn => by rw [hu.others a b (by rwa [hw, hx]), troupe?_of_troupes ht]

theorem restKept_memory (h : s.restKept u) : u.mem = s.mem ∧ u.reqs = s.reqs := by
  have hmem := congrArg State.mem h.1
  have hreqs := congrArg State.reqs h.1
  exact ⟨hmem, hreqs⟩

theorem commit_replaces (hm : s.mayIssue t c) (hr : s.restKept s') (ht : s'.troupes = s.troupes) (hw : t0.wg = t.wg)
    (hx : t0.trix = t.trix) : ∃ p, Replaced s t (s'.commit t0 c) { t0 with pend := p } := by
  have hfound : (s'.troupe? t0.wg t0.trix).isSome = true := by
    rw [hw, hx, troupe?_of_troupes ht]
    exact found_of_issues hm
  obtain ⟨p, hreplaced⟩ := commit_spec c hfound rfl rfl
  exact ⟨p, replaced_of hreplaced hr ht hw hx⟩

end

/-! ## The names above an allotment -/

/-- The mapped names that an allotment of `a` leaves out (R452). -/
def Troupe.namesFrom (t : Troupe) (a : Nat) : List Nat := (t.regs.map VReg.name).filter fun n => decide (a ≤ n)

theorem filter_namesFrom (t : Troupe) (a : Nat) :
    (t.regs.filter fun r => !(t.namesFrom a).contains r.name) = t.regs.filter fun r => decide (r.name < a) := by
  refine List.filter_congr fun r hr => ?_
  have hmem : r.name ∈ t.namesFrom a ↔ a ≤ r.name := by
    rw [Troupe.namesFrom, List.mem_filter, decide_eq_true_iff]
    exact and_iff_right (List.mem_map_of_mem hr)
  simp [hmem, ← decide_not]

/-- The troupe whose allotment has shrunk to `a`: the names from `a` on are released. -/
def State.shrunk (s : State) (t : Troupe) (a : Nat) : State × Troupe := s.release (t.touch (t.namesFrom a)) (t.namesFrom a)

theorem shrunk_kept (s : State) (t : Troupe) (a : Nat) : s.restKept (s.shrunk t a).1 ∧ (s.shrunk t a).1.troupes = s.troupes := by
  obtain ⟨hrest, htroupes, -⟩ := release_spec s (t.touch (t.namesFrom a)) (t.namesFrom a)
  exact ⟨hrest, htroupes⟩

theorem shrunk_regs (s : State) (t : Troupe) (a : Nat) :
    (s.shrunk t a).2.regs = t.regs.filter fun r => decide (r.name < a) := filter_namesFrom t a

/-- Releasing names changes nothing of what issue did outside the mappings. -/
theorem shrunk_issued {s s' : State} {t t0 : Troupe} {c : Ctl} (h : s.issuedTo t t0 c) (a : Nat) :
    s.issuedTo t (s'.shrunk t0 a).2 c := h

theorem shrunk_files (s : State) (t : Troupe) (a : Nat) :
    (s.shrunk t a).2.wg = t.wg ∧ (s.shrunk t a).2.trix = t.trix ∧ (s.shrunk t a).2.sregs = t.sregs
      ∧ (s.shrunk t a).2.preds = t.preds := ⟨rfl, rfl, rfl, rfl⟩

/-- An instruction that ends with another allotment: the special registers keep the rest, the registers are those of the troupe
stored. -/
theorem commit_withAllot_keeps {s s' : State} {t t0 : Troupe} {c : Ctl} (hm : s.mayIssue t c) (hr : s.restKept s')
    (ht : s'.troupes = s.troupes) (hw : t0.wg = t.wg) (hx : t0.trix = t.trix) (hi : s.issuedTo t t0 c) (a : Nat) :
    ∃ t', Replaced s t (s'.commit (t0.withAllot a) c) t' ∧ t'.pc = t.pc + 12 ∧ t'.flags = t.flagged c ∧ t0.regsKept t'
      ∧ t'.allot = a ∧ { t' with allot := t.allot }.specials = t.specials := by
  obtain ⟨hpc, hflags, -, hspecials⟩ := hi
  obtain ⟨p, hreplaced⟩ := commit_replaces (c := c) (t0 := t0.withAllot a) hm hr ht hw hx
  exact ⟨_, hreplaced, hpc, hflags, ⟨rfl, rfl, rfl⟩, rfl, congrArg (Troupe.withAllot · t.allot) hspecials⟩

/-! ## Special registers -/

/-- The model's check of a register number is the list of R451. -/
theorem specialOk_iff {n : Nat} : specialOk n = true ↔ Claims.specialNumber n := by
  simp [specialOk, Claims.specialNumber, or_assoc]

/-! ## The fault log -/

/-- The fault entries once those of the lanes of `m` have been read and cleared (R454). -/
def Troupe.faultsCleared (t : Troupe) (m : Mask) : List DWord :=
  (List.range 96).map fun l => if m.getLsbD l then 0 else t.faults.getD l 0

theorem faultsCleared_getD (t : Troupe) (m : Mask) {l : Nat} (h : l < 96) :
    (t.faultsCleared m).getD l 0 = if m.getLsbD l then 0 else t.faults.getD l 0 := by
  simp [Troupe.faultsCleared, List.getD_eq_getElem?_getD, h]

theorem loW_eq (x : DWord) : loW x = x.setWidth 32 := by
  apply BitVec.eq_of_toNat_eq
  simp [loW]

/-- An operand that is only written releases no name. -/
theorem lastNames_written {t : Troupe} {o : Operand} {l : List Acc} (hl : ∀ a ∈ l, ∃ w vp, a = .vw w vp) :
    lastNames o (t.use o l) = [] := by
  cases h : t.use o l with
  | none => simp [lastNames, srcNames]
  | some a =>
    obtain ⟨w, vp, rfl⟩ := hl a (use_mem h)
    simp [lastNames, srcNames]

/-- An instruction that commits vector results with another fault log: the special registers keep the rest. -/
theorem commitV_faults_keeps {s s' : State} {t u : Troupe} {c : Ctl} {b lat : Nat} {rel dst : List Nat} {m : Mask}
    {ws : List (Nat × Lanes)} (hm : s.mayIssue t c)
    (h : Started s (s.atIssue t) c b rel (dst.filter fun n => !(s.atIssue t).mapped n || rel.contains n) s' u) (hl : 0 < lat)
    (hd : ∀ n, n ∈ dst ↔ n ≠ 255 ∧ n ∈ ws.map Prod.fst) (hn : (ws.map Prod.fst).Nodup) (fs : List DWord) :
    ∃ t2, Replaced s t (s'.commitV (u.withFaults fs) c lat m ws) t2 ∧ t2.pc = t.pc + 12
      ∧ t.lanesSet t2 rel (s.now t + lat) m ws ∧ { t2 with faults := t.faults }.specials = t.specials ∧ t2.faults = fs := by
  have hfound : (s'.troupe? u.wg u.trix).isSome = true := by rw [h.wg, h.trix]; exact found_started (t := t) hm h
  obtain ⟨p, z, hr⟩ := commitV_spec (t := u.withFaults fs) c lat m ws hfound
  have hnow : s'.now (u.withFaults fs) = s.now t := now_started (u := u) h
  rw [hnow] at hr
  refine ⟨_, replaced_of hr h.rest h.troupes h.wg h.trix, ?_, lanesSet_atIssue hl ?_, ?_, ?_⟩
  · exact (Troupe.setVs_pc ..).trans h.pc
  · refine started_lanes h rfl hd hn (regs_setVs _ rfl) (by rw [List.map_map]; rfl) ?_
      ((Troupe.setVs_sregs ..).trans h.sregs) ((Troupe.setVs_preds ..).trans h.preds)
    intro v hv
    obtain ⟨w, hw, rfl⟩ := List.mem_map.mp hv
    refine ⟨w, hw, rfl, fun l hl96 hlast => ?_⟩
    have hland : u.landsLast (.v w.1) (s.now t + lat) l := started_lands hl h (hlast.imp id fun h1 =>
      (lands_tick (t := t) (now := s.now t) _ _ fun n hn => by simp at hn; omega).symm.trans h1)
    exact settleV_last hl96 hland
  · have hset := specials_setVs ((u.withFaults fs).wrote (ws.map Prod.fst)) m
      (ws.map fun w => (w.1, s'.settleV (u.withFaults fs) w.1 (s.now t + lat) w.2))
    exact (congrArg (Troupe.withFaults · t.faults) hset).trans (congrArg (Troupe.withFaults · t.faults) h.specials)
  · exact Troupe.setVs_faults ..

end Sys2Proof.Machine

namespace Sys2Proof.Claims

open Sys2Proof Sys2Proof.Machine

section
variable {f : OForm} {s u : State} {t t' : Troupe} {w : Workgroup}

/-- The operand forms of `swreg`, of `shrink` and `grow`, of `faultrd` and of `pcfgrd` (R451, R452, R454). -/
def shTpc : Shape := ⟨[.unused], [.sr 2 60], []⟩
def shAllot : Shape := ⟨[.unused], [.sr 1 63, .imm], [.unused]⟩
def shEntry : Shape := ⟨[.vw 2 false], [.unused], [.unused]⟩
def shPrecision : Shape := ⟨[.sw 1 60], [.sr 1 63, .imm], [.unused]⟩

/-! ## The troupe after an instruction of plain operands -/

/-- Plain operands release no name. -/
theorem released_of_plain {o : Opnds} (hp : o.sh.plain = true) (hregs : t'.regs = t.regs) : t.released t' (rel s t o) := by
  have hrel : rel s t o = [] := (plain_opnds (s.atIssue t) hp).1
  rw [Troupe.released, hrel, hregs]
  exact (List.filter_eq_self.mpr fun _ _ => rfl).symm

/-- An instruction of plain operands that stores the troupe issued, edited outside the registers, has gone on. -/
theorem goes_of_replaced {o : Opnds} (hp : o.sh.plain = true) (hr : Replaced s t u t') (hpc : t'.pc = t.pc + 12)
    (hflags : t'.flags = t.flagged f.c) (hk : t.regsKept t') : Goes s t f.c o u t' :=
  ⟨hr.others, hr.now, hpc, hflags, released_of_plain hp hk.regs, hk.sregs, hk.preds, restKept_memory hr.rest⟩

/-! ## `swreg` -/

theorem regNo_eq {m : BitVec 18} (hb : f.b = .imm m) : regNo f = m.toNat := by
  rw [regNo, modOf, hb]
  rfl

theorem swreg_modifier {m : BitVec 18} (hb : f.b = .imm m) (hm : specialNumber m.toNat) :
    (isImm f.b && specialOk (regNo f)) = true := by
  rw [regNo_eq hb, specialOk_iff.mpr hm, hb]
  rfl

/-- The check that lets `swreg` write TPC in a handler only. -/
theorem regNo_tpc {m : BitVec 18} (hb : f.b = .imm m) : (regNo f == 0x12) = decide (m = 0x12) := by
  rw [regNo_eq hb, Bool.eq_iff_iff, beq_iff_eq, decide_eq_true_iff]
  exact ⟨fun h => BitVec.eq_of_toNat_eq h, fun h => by rw [h]; rfl⟩

theorem swreg_traps {m : BitVec 18} (hb : f.b = .imm m) (hm : specialNumber m.toNat) (h : s.issuesWith t f.c (ops f shTpc) true)
    (ht : takes s t f.c = true) (hno : ¬(m = 0x12 ∧ t.intrap = true)) :
    exec (.swreg f) s = .next (s.takeTrap t ⟨0x02, 0, 0⟩ t.pc) := by
  have ht' : s.takesOf (s.atIssue t) f.c = true := ht
  have hin : (s.atIssue t).intrap = t.intrap := rfl
  rw [← swreg_modifier hb hm] at h
  refine (exec_swreg f s).trans (operate_traps_late (o := opndsO shTpc f) h (if_pos ?_))
  have hnot : (decide (m = 0x12) && t.intrap) = false := by
    rw [Bool.eq_false_iff, Ne, Bool.and_eq_true, decide_eq_true_iff]
    exact hno
  rw [ht', hin, regNo_tpc hb, hnot]
  rfl

/-- A handler's `swreg` of TPC stores the troupe issued, with TPC aligned (R248). -/
theorem swreg_acts {m : BitVec 18} (hb : f.b = .imm m) (hm : specialNumber m.toNat) (h : s.issuesWith t f.c (ops f shTpc) true)
    (ht : takes s t f.c = true) (h12 : m = 0x12) (hin : t.intrap = true) :
    exec (.swreg f) s
      = .next (s.drawn.commit ((s.issuedTroupe t f.c).withTpc ((sA s t f 1 ++ sA s t f 0) &&& ~~~3#64)) f.c) := by
  have ht' : s.takesOf (s.atIssue t) f.c = true := ht
  have hin' : (s.atIssue t).intrap = true := hin
  rw [← swreg_modifier hb hm] at h
  refine (exec_swreg f s).trans ((plain_acts (o := opndsO shTpc f) h rfl (if_neg ?_) rfl).trans ?_)
  · simp [regNo_tpc hb, h12, hin']
  · rw [if_pos ht']
    rfl

theorem swreg_writes_tpc {m : BitVec 18} (hb : f.b = .imm m) (hm : specialNumber m.toNat)
    (h : s.issuesWith t f.c (ops f shTpc) true) (ht : takes s t f.c = true) (h12 : m = 0x12) (hin : t.intrap = true) :
    ∃ u t', exec (.swreg f) s = .next u ∧ s.restKept u ∧ Goes s t f.c (ops f shTpc) u t'
      ∧ t'.tpc = (sA s t f 1 ++ sA s t f 0) &&& ~~~3#64 ∧ { t' with tpc := t.tpc }.specials = t.specials := by
  obtain ⟨p, hr⟩ := commit_replaces (s' := s.drawn)
    (t0 := (s.issuedTroupe t f.c).withTpc ((sA s t f 1 ++ sA s t f 0) &&& ~~~3#64)) h.1 (drawn_kept s) rfl rfl rfl
  exact ⟨_, _, swreg_acts hb hm h ht h12 hin, hr.rest, goes_of_replaced rfl hr rfl rfl ⟨rfl, rfl, rfl⟩, rfl, rfl⟩

/-! ## `shrink` and `grow` -/

section
variable (h : s.issuesWith t f.c (ops f shAllot) true) (ht : takes s t f.c = true)
include h ht

theorem shrink_traps (hno : (sA s t f 0).toNat = 0 ∨ t.allot < (sA s t f 0).toNat) :
    exec (.shrink f) s = .next (s.takeTrap t ⟨0x02, 0, 0⟩ t.pc) := by
  have ht' : s.takesOf (s.atIssue t) f.c = true := ht
  refine (exec_shrink f s).trans (operate_traps_late (o := opndsO shAllot f) h (if_pos ?_))
  rw [ht', Bool.true_and, Bool.or_eq_true, beq_iff_eq, decide_eq_true_iff]
  exact hno

theorem shrink_acts (hpos : 1 ≤ (sA s t f 0).toNat) (hle : (sA s t f 0).toNat ≤ t.allot) :
    exec (.shrink f) s = .next ((s.drawn.shrunk (s.issuedTroupe t f.c) (sA s t f 0).toNat).1.commit
      ((s.drawn.shrunk (s.issuedTroupe t f.c) (sA s t f 0).toNat).2.withAllot (sA s t f 0).toNat) f.c) := by
  have ht' : s.takesOf (s.atIssue t) f.c = true := ht
  refine (exec_shrink f s).trans ((plain_acts (o := opndsO shAllot f) h rfl (if_neg ?_) rfl).trans ?_)
  · rw [ht', Bool.true_and, Bool.or_eq_true, beq_iff_eq, decide_eq_true_iff]
    exact fun hor => hor.elim (Nat.one_le_iff_ne_zero.mp hpos) (Nat.not_lt.mpr hle)
  · rw [if_pos ht']
    rfl

theorem shrink_unmaps (hpos : 1 ≤ (sA s t f 0).toNat) (hle : (sA s t f 0).toNat ≤ t.allot) :
    ∃ u t', exec (.shrink f) s = .next u ∧ s.restKept u ∧ s.othersKept u t ∧ u.becomes t t' ∧ t'.pc = t.pc + 12
      ∧ t'.flags = t.flagged f.c ∧ t'.sregs = t.sregs ∧ t'.preds = t.preds ∧ t'.allot = (sA s t f 0).toNat
      ∧ { t' with allot := t.allot }.specials = t.specials
      ∧ t'.regs = t.regs.filter fun r => decide (r.name < (sA s t f 0).toNat) := by
  obtain ⟨hrest, htroupes⟩ := shrunk_kept s.drawn (s.issuedTroupe t f.c) (sA s t f 0).toNat
  obtain ⟨hwg, htrix, hsregs, hpreds⟩ := shrunk_files s.drawn (s.issuedTroupe t f.c) (sA s t f 0).toNat
  obtain ⟨t', hr, hpc, hflags, hk, hallot, hspecials⟩ := commit_withAllot_keeps h.1 (restKept_trans (drawn_kept s) hrest) htroupes
    hwg htrix (shrunk_issued (issuedTroupe_issued s t f.c) _) (sA s t f 0).toNat
  exact ⟨_, t', shrink_acts h ht hpos hle, hr.rest, hr.others, hr.now, hpc, hflags, hk.sregs.trans hsregs, hk.preds.trans hpreds,
    hallot, hspecials, hk.regs.trans (shrunk_regs s.drawn (s.issuedTroupe t f.c) _)⟩

theorem grow_traps (hw : s.wgOf t = some w) (hno : (sA s t f 0).toNat < t.allot ∨ w.allot < (sA s t f 0).toNat) :
    exec (.grow f) s = .next (s.takeTrap t ⟨0x02, 0, 0⟩ t.pc) := by
  have ht' : s.takesOf (s.atIssue t) f.c = true := ht
  have hmax : s.allotMax (s.atIssue t) = w.allot := congrArg (fun x => x.elim 0 Workgroup.allot) hw
  refine (exec_grow f s).trans (operate_traps_late (o := opndsO shAllot f) h (if_pos ?_))
  rw [ht', hmax, Bool.true_and, Bool.or_eq_true, decide_eq_true_iff, decide_eq_true_iff]
  exact hno

theorem grow_acts (hw : s.wgOf t = some w) (hge : t.allot ≤ (sA s t f 0).toNat) (hle : (sA s t f 0).toNat ≤ w.allot) :
    exec (.grow f) s = .next (s.drawn.commit ((s.issuedTroupe t f.c).withAllot (sA s t f 0).toNat) f.c) := by
  have ht' : s.takesOf (s.atIssue t) f.c = true := ht
  have hmax : s.allotMax (s.atIssue t) = w.allot := congrArg (fun x => x.elim 0 Workgroup.allot) hw
  refine (exec_grow f s).trans ((plain_acts (o := opndsO shAllot f) h rfl (if_neg ?_) rfl).trans ?_)
  · rw [ht', hmax, Bool.true_and, Bool.or_eq_true, decide_eq_true_iff, decide_eq_true_iff]
    exact fun hor => hor.elim (Nat.not_lt.mpr hge) (Nat.not_lt.mpr hle)
  · rw [if_pos ht']
    rfl

theorem grow_raises (hw : s.wgOf t = some w) (hge : t.allot ≤ (sA s t f 0).toNat) (hle : (sA s t f 0).toNat ≤ w.allot) :
    ∃ u t', exec (.grow f) s = .next u ∧ s.restKept u ∧ s.othersKept u t ∧ u.becomes t t' ∧ t'.pc = t.pc + 12
      ∧ t'.flags = t.flagged f.c ∧ t.regsKept t' ∧ t'.allot = (sA s t f 0).toNat
      ∧ { t' with allot := t.allot }.specials = t.specials := by
  obtain ⟨t', hr, hpc, hflags, hk, hallot, hspecials⟩ := commit_withAllot_keeps (t0 := s.issuedTroupe t f.c) h.1 (drawn_kept s) rfl
    rfl rfl (issuedTroupe_issued s t f.c) (sA s t f 0).toNat
  exact ⟨_, t', grow_acts h ht hw hge hle, hr.rest, hr.others, hr.now, hpc, hflags, ⟨hk.sregs, hk.preds, hk.regs⟩, hallot,
    hspecials⟩

end

/-! ## `faultrd` -/

/-- What `faultrd` writes: the low and the high words of the fault entries. -/
def entryPair (t : Troupe) (f : OForm) : List (Nat × Lanes) :=
  [(numOf f.d, lanesOf fun l => (t.faults.getD l 0).setWidth 32),
    (numOf f.d + 1, lanesOf fun l => (t.faults.getD l 0).extractLsb' 32 32)]

theorem execFaultrd_eq (f : OForm) (s : State) :
    execFaultrd f s = s.operate f.c (vecBeats f.c) (opndsO shEntry f) okMod noLate noHold fun s t s' t' =>
      s'.commitV (t'.withFaults (t.faultsCleared (s.effOf t f.c))) f.c logLat (s.effOf t f.c) (entryPair t f) := by
  simp only [entryPair, ← loW_eq]
  rfl

theorem rel_faultrd : (ops f shEntry).rel t = [] := by
  have hd : lastNames f.d ((ops f shEntry).ud t) = [] := lastNames_written (by simp [ops, shEntry])
  have ha : lastNames f.a ((ops f shEntry).ua t) = [] := (plain_names rfl).2.2
  have hb : lastNames f.b ((ops f shEntry).ub t) = [] := (plain_names rfl).2.2
  show lastNames f.d ((ops f shEntry).ud t) ++ lastNames f.a ((ops f shEntry).ua t) ++ lastNames f.b ((ops f shEntry).ub t) = []
  rw [hd, ha, hb]
  rfl

theorem faultrd_reads (h : s.issuesWith t f.c (ops f shEntry) true) :
    ∃ u t', exec (.faultrd f) s = .next u ∧ s.restKept u ∧ s.othersKept u t ∧ u.becomes t t' ∧ t'.pc = t.pc + 12
      ∧ t.lanesSet t' [] (s.now t + 6) (eff s t f.c) (entryPair t f) ∧ { t' with faults := t.faults }.specials = t.specials
      ∧ t'.faults = t.faultsCleared (eff s t f.c) := by
  obtain ⟨s', u, b, hstart, hexec⟩ := operate_starts (bts := vecBeats f.c) (o := opndsO shEntry f) (mod := okMod)
    (late := noLate) (hold := noHold) (act := fun s t s' t' =>
      s'.commitV (t'.withFaults (t.faultsCleared (s.effOf t f.c))) f.c logLat (s.effOf t f.c) (entryPair t f)) h rfl rfl
  obtain ⟨t', hr, hpc, hlanes, hspecials, hfaults⟩ := commitV_faults_keeps (lat := logLat) (m := eff s t f.c)
    (ws := entryPair t f) h.1 hstart (by decide) (dst_window (o := ops f shEntry) (w := 2) (by simp [ops, shEntry]) (ok_of_passes h.2))
    (by simp [entryPair]) (t.faultsCleared (eff s t f.c))
  have hnone : (opndsO shEntry f (s.atIssue t)).rel (s.atIssue t) = [] := rel_faultrd
  rw [hnone] at hlanes
  exact ⟨_, t', (exec_faultrd f s).trans ((execFaultrd_eq f s).trans hexec), hr.rest, hr.others, hr.now, hpc, hlanes, hspecials,
    hfaults⟩

/-! ## `pcfgrd` -/

section
variable (h : s.issuesWith t f.c (ops f shPrecision) true) (ht : takes s t f.c = true)
include h ht

theorem pcfgrd_traps (hno : 96 ≤ (sA s t f 0).toNat) : exec (.pcfgrd f) s = .next (s.takeTrap t ⟨0x02, 0, 0⟩ t.pc) := by
  have ht' : s.takesOf (s.atIssue t) f.c = true := ht
  refine (exec_pcfgrd f s).trans (operate_traps_late (o := opndsO shPrecision f) h (if_pos ?_))
  rw [ht', Bool.true_and, decide_eq_true_iff]
  exact hno

theorem pcfgrd_acts (hlt : (sA s t f 0).toNat < 96) :
    exec (.pcfgrd f) s = .next (s.drawn.commitS (s.issuedTroupe t f.c) f.c logLat
      [(numOf f.d, (t.pcfg.getD (sA s t f 0).toNat 0).setWidth 32)]) := by
  have ht' : s.takesOf (s.atIssue t) f.c = true := ht
  refine (exec_pcfgrd f s).trans ((plain_acts (o := opndsO shPrecision f) h rfl (if_neg ?_) rfl).trans ?_)
  · rw [ht', Bool.true_and, decide_eq_true_iff, Nat.not_lt]
    exact Nat.le_of_lt_succ hlt
  · rw [if_pos ht']
    rfl

theorem pcfgrd_reads (hlt : (sA s t f 0).toNat < 96) :
    SetsScalars (.pcfgrd f) s t f.c (ops f shPrecision) 6 [(numOf f.d, (t.pcfg.getD (sA s t f 0).toNat 0).setWidth 32)] := by
  obtain ⟨a, -, -, ha, -, -⟩ := uses_of_ok (ok_of_passes h.2)
  have hd : numOf f.d < 64 :=
    Nat.lt_of_succ_le (scalarDest (w := 1) (l := shPrecision.d) (t := s.atIssue t) (by simp [shPrecision])
      (Option.isSome_iff_exists.mpr ⟨a, ha⟩))
  obtain ⟨t', hkeeps, hregs, hset⟩ := commitS_keeps (b := 1) (lat := logLat)
    (ws := [(numOf f.d, (t.pcfg.getD (sA s t f 0).toNat 0).setWidth 32)]) h.1 (by decide)
    (List.nodup_cons.mpr ⟨List.not_mem_nil, List.nodup_nil⟩) (fun v hv => by rwa [List.mem_singleton.mp hv])
  exact ⟨_, t', pcfgrd_acts h ht hlt, hkeeps, released_of_plain (o := ops f shPrecision) rfl hregs,
    fun hno => absurd (ht.symm.trans hno) (by decide), fun _ => hset⟩

end

end

/-- Settles O40: each instruction by what it stores, and by the operands that trap. -/
theorem systemRegisters : Obligations.SystemRegisters := by
  unfold Obligations.SystemRegisters
  refine ⟨fun f m s t hb hm h => ⟨swreg_traps hb hm h, swreg_writes_tpc hb hm h⟩,
    fun f s t w h ht hw => ⟨shrink_unmaps h ht, grow_raises h ht hw, shrink_traps h ht, grow_traps h ht hw⟩,
    fun f s t h _ => ?_, fun f s t h => ⟨fun ht => pcfgrd_reads h ht, fun ht => pcfgrd_traps h ht⟩⟩
  obtain ⟨u, t', hexec, hrest, hothers, hnow, hpc, hlanes, hspecials, hfaults⟩ := faultrd_reads h
  exact ⟨u, t', hexec, hrest, hothers, hnow, hpc, hlanes, hspecials, fun l hl => hfaults ▸ faultsCleared_getD t _ hl⟩

end Sys2Proof.Claims
end
